-- ==== Sys2Proof/Word.lean ====
section
/-!
DEFINITION. The words the spec treats as bits (00_scope R5, R6): bytes, 16-, 32-, 48- and 64-bit words, and byte strings.
-/

namespace Sys2Proof

abbrev Byte := BitVec 8
abbrev Half := BitVec 16
abbrev W32 := BitVec 32
abbrev Word := BitVec 64

/-- A byte string: a payload, a frame body, a record (offset 0 first). -/
abbrev Bytes := List Byte

/-- A sparse map from numbers: keys strictly rising, no entry equal to the value an unlisted key reads as. -/
abbrev SMap (α : Type) := List (Nat × α)

end Sys2Proof
end

