-- ==== Sys2Proof/Syntax.lean ====
section
/-!
DEFINITION. The commands of the QM20 (spec/opcode_table.json): the ONE inductive `Instr`, one constructor per row, and the operand records of the
core instruction layouts (06_core_instruction_set R121 to R140). A core row names the logical core whose sequencer offers the instruction; a mailbox
row names the tenant and the command payload; a hardware row names the unit and the inputs that the row takes from outside (log entry 1).
-/

namespace Sys2Proof

/-- Scalar layout (R123): d, a, b, imm, imm32. -/
structure ScalarOp where
  d     : BitVec 5
  a     : BitVec 5
  b     : BitVec 5
  imm   : Bool
  imm32 : BitVec 32
  deriving DecidableEq, Repr

/-- LOOP layout (R124). -/
structure LoopOp where
  cnt   : BitVec 5
  imm   : Bool
  len   : BitVec 13
  count : BitVec 32
  deriving DecidableEq, Repr

/-- BR layout (R124). -/
structure BranchOp where
  a    : BitVec 5
  b    : BitVec 5
  cond : BitVec 3
  off  : BitVec 14
  deriving DecidableEq, Repr

/-- LD and LDADD layout (R128, R129). -/
structure LoadOp where
  dst    : BitVec 6
  src    : BitVec 6
  dstRow : BitVec 4
  srcRow : BitVec 4
  handle : BitVec 5
  signal : Bool
  deriving DecidableEq, Repr

/-- LDZERO layout (R128). -/
structure ZeroOp where
  dst    : BitVec 6
  dstRow : BitVec 4
  handle : BitVec 5
  signal : Bool
  deriving DecidableEq, Repr

/-- MM layout (R131). -/
structure MatOp where
  a    : BitVec 6
  b    : BitVec 6
  c    : BitVec 6
  out  : BitVec 6
  mode : BitVec 16
  ka   : BitVec 4
  kb   : BitVec 4
  deriving DecidableEq, Repr

/-- VR layout (R132). -/
structure VecOp where
  vd   : BitVec 5
  va   : BitVec 5
  vb   : BitVec 5
  vc   : BitVec 5
  mask : BitVec 2
  sr   : BitVec 5
  lane : BitVec 7
  deriving DecidableEq, Repr

/-- VX layout: a random draw (R132, R133). -/
structure RandOp where
  vd     : BitVec 5
  desc   : BitVec 6
  stream : BitVec 7
  index  : BitVec 5
  draw   : BitVec 5
  deriving DecidableEq, Repr

/-- VM layout: a vector load or store (R132). -/
structure VMemOp where
  vd   : BitVec 5
  desc : BitVec 6
  off  : BitVec 4
  mask : BitVec 2
  deriving DecidableEq, Repr

/-- VT layout: the accumulator tap (R132). -/
structure TapOp where
  vd   : BitVec 5
  vs   : BitVec 5
  half : Bool
  row  : BitVec 5
  mask : BitVec 2
  deriving DecidableEq, Repr

/-- VS layout: a reduction (R132). -/
structure RedOp where
  vd   : BitVec 5
  x    : BitVec 6
  y    : BitVec 6
  kind : BitVec 2
  a48  : Bool
  len  : BitVec 5
  off  : BitVec 4
  deriving DecidableEq, Repr

/-- VK layout: a fused kernel (R132). -/
structure KernOp where
  code  : BitVec 8
  x     : BitVec 6
  out   : BitVec 6
  aux   : BitVec 6
  span  : BitVec 2
  half  : Bool
  rows  : BitVec 5
  param : BitVec 5
  deriving DecidableEq, Repr

/-- SIG layout (R134). -/
structure SigOp where
  reg    : BitVec 5
  imm    : Bool
  count  : BitVec 8
  handle : BitVec 32
  deriving DecidableEq, Repr

/-- WAIT layout (R134). -/
structure WaitOp where
  reg     : BitVec 5
  target  : BitVec 5
  sleep   : Bool
  timeout : BitVec 16
  deriving DecidableEq, Repr

/-- OVL layout (R138). -/
structure OvlOp where
  dst   : BitVec 13
  count : BitVec 13
  src   : BitVec 18
  deriving DecidableEq, Repr

/-- A reduced segment delivery at one M-die (09_near_memory_engines R212): the pair region, the segment, the step, the ordinal, the contribution
count, and the A48 values of the segment's elements in logical order. -/
structure Delivery where
  mdie    : Nat
  pair    : Nat
  seg     : Nat
  step    : Nat
  ordinal : Nat
  count   : Nat
  first   : Nat
  len     : Nat
  vals    : List (BitVec 48)
  deriving DecidableEq, Repr

/-- A fabric frame as it arrives at a port (11_fabric_and_collectives R254): whether its frame check holds, whether a frame check that does not is the
ones' complement of the right one, the mark of a stomped frame (R259), its bytes from the Ethernet destination on, and the Q144 check words of its
payload's 16-byte units. -/
structure FabricFrame where
  fcsOk  : Bool
  stomp  : Bool
  bytes  : Bytes
  checks : List (BitVec 16)
  deriving DecidableEq, Repr

/-- An in-package link (08_memory_system R181): the die codes of its two ends, receiver first. -/
structure LinkId where
  rx : Nat
  tx : Nat
  deriving DecidableEq, Repr

/-- The analog values of one governor sample (17_reset_power_startup R437): input millivolts and milliamperes, the draw of each class
in W (*Power status*), the junction temperatures of the 20 dies and the hottest GDDR7 device of each M-die, in 1/16 degree. -/
structure PowerSample where
  mv    : Nat
  ma    : Nat
  watts : List Nat
  temps : List Int
  mems  : List Int
  deriving DecidableEq, Repr

/-- What a release stage of a reset finds, from outside the model: an M-die that cannot place its devices in self-refresh, or whose short training
path fails (08_memory_system R202); a device that fails training (R203); a flash pulse that holds the reset (17_reset_power_startup R427); an option
block that does not check (R426); a ROM whose digest differs, with the digest (18_supervision_identity_attestation R446); a die whose identity does not
check, by physical die code (R448); and a certificate missing from flash (R453). -/
inductive StageFinding where
  | noSelfRefresh (mdie : Nat)
  | flashHold (suspended : Bool)
  | optionFlashInvalid
  | optionOtpInvalid
  | romMismatch (digest : Bytes)
  | identityInvalid (die : Nat)
  | certMissing (cert : Nat)
  | shortPathFailed (mdie : Nat)
  | trainingFailed (mdie : Nat) (device : Nat)
  deriving DecidableEq, Repr

/-- The commands: one constructor per row of spec/opcode_table.json, in the table's order but for the last
ones: hardware rows that take no input stand at the end. -/
inductive Instr where
  | identRead (t : Nat) (p : Bytes)
  | attestQuote (t : Nat) (p : Bytes)
  | certRead (t : Nat) (p : Bytes)
  | optionsRead (t : Nat) (p : Bytes)
  | configRecordLoad (t : Nat) (p : Bytes)
  | tenantQuery (t : Nat) (p : Bytes)
  | quotaSet (t : Nat) (p : Bytes)
  | sessionOpen (port : Nat) (frame : Bytes)
  | hello (port : Nat) (frame : Bytes)
  | sessionClose (t : Nat) (p : Bytes)
  | closeFrame (port : Nat) (frame : Bytes)
  | dataFrame (port : Nat) (frame : Bytes)
  | ackOnly (port : Nat) (frame : Bytes)
  | transportRetransmit (session : Nat) (at' : Nat)
  | sessionTimeout (session : Nat) (at' : Nat)
  | submissionTurn (t : Nat)
  | unlistedOpcode (t : Nat)
  | hostPortServiceFrame (port : Nat) (frame : Bytes)
  | hostFrameDropped (port : Nat)
  | regionAlloc (t : Nat) (p : Bytes)
  | regionAllocExpert (t : Nat) (p : Bytes)
  | regionFree (t : Nat) (p : Bytes)
  | regionWrite (t : Nat) (p : Bytes)
  | regionRead (t : Nat) (p : Bytes)
  | programLoad (t : Nat) (p : Bytes)
  | programLoadExpert (t : Nat) (p : Bytes)
  | optimizerSet (t : Nat) (p : Bytes)
  | optimizerSetExpert (t : Nat) (p : Bytes)
  | programVerify (t : Nat) (p : Bytes)
  | frameSet (t : Nat) (p : Bytes)
  | frameSetExpert (t : Nat) (p : Bytes)
  | scheduleLoad (t : Nat) (p : Bytes)
  | frameStatus (t : Nat) (p : Bytes)
  | sliceJoin (t : Nat) (p : Bytes)
  | routeTableLoad (t : Nat) (p : Bytes)
  | axisSet (t : Nat) (p : Bytes)
  | cablingCheck (t : Nat) (p : Bytes)
  | cablingCheckExpert (t : Nat) (p : Bytes)
  | sliceLeave (t : Nat) (p : Bytes)
  | stepFeed (t : Nat) (p : Bytes)
  | runArm (t : Nat) (p : Bytes)
  | runStart (t : Nat) (p : Bytes)
  | runHold (t : Nat) (p : Bytes)
  | sealPolicySet (t : Nat) (p : Bytes)
  | replay (t : Nat) (p : Bytes)
  | stepStatus (t : Nat) (p : Bytes)
  | numericsPolicySet (t : Nat) (p : Bytes)
  | numericsPolicySetExpert (t : Nat) (p : Bytes)
  | scaleStateRead (t : Nat) (p : Bytes)
  | layerWatchSet (t : Nat) (p : Bytes)
  | emulationModeSet (t : Nat) (p : Bytes)
  | mirrorPairSet (t : Nat) (p : Bytes)
  | spareEnrol (t : Nat) (p : Bytes)
  | takeover (t : Nat) (p : Bytes)
  | fence (t : Nat) (p : Bytes)
  | fenceExpert (t : Nat) (p : Bytes)
  | dieSwap (t : Nat) (p : Bytes)
  | healthRead (t : Nat) (p : Bytes)
  | probationSet (t : Nat) (p : Bytes)
  | checkpointPolicySet (t : Nat) (p : Bytes)
  | checkpointPolicySetExpert (t : Nat) (p : Bytes)
  | checkpointNow (t : Nat) (p : Bytes)
  | checkpointStatus (t : Nat) (p : Bytes)
  | restore (t : Nat) (p : Bytes)
  | manifestRead (t : Nat) (p : Bytes)
  | telemetryRead (t : Nat) (p : Bytes)
  | telemetryStream (t : Nat) (p : Bytes)
  | telemetryStreamInterval (session : Nat) (stream : Nat) (at' : Nat)
  | ledgerRead (t : Nat) (p : Bytes)
  | countersAuditRead (t : Nat) (p : Bytes)
  | reset (t : Nat) (p : Bytes)
  | serviceStateSet (t : Nat) (p : Bytes)
  | escalationRead (t : Nat) (p : Bytes)
  | syncInspect (t : Nat) (p : Bytes)
  | nutshellRead (t : Nat) (p : Bytes)
  | eventLogRead (t : Nat) (p : Bytes)
  | coreHaltInspect (t : Nat) (p : Bytes)
  | coreHaltInspectExpert (t : Nat) (p : Bytes)
  | powerCapSet (t : Nat) (p : Bytes)
  | powerStatus (t : Nat) (p : Bytes)
  | rampPolicySet (t : Nat) (p : Bytes)
  | rampPolicySetExpert (t : Nat) (p : Bytes)
  | evalSubmit (t : Nat) (p : Bytes)
  | evalResultRead (t : Nat) (p : Bytes)
  | tickEpochMarker (at' : Nat) (w : Word)
  | markerMissing
  | refclkLost
  | comma
  | period
  | ackMissed (die : Nat) (err : BitVec 32)
  | tickCheck (port : Nat) (at' : Nat) (payload : Bytes)
  | coreSegment (idx : Nat) (at' : Nat)
  | evaluationSlot (idx : Nat) (core : Nat) (at' : Nat)
  | optimizerJobPhase (idx : Nat) (mdie : Nat) (at' : Nat)
  | mirrorJobPhase (idx : Nat) (mdie : Nat) (at' : Nat)
  | checkpointChunk (idx : Nat) (mdie : Nat) (at' : Nat)
  | collective (idx : Nat) (at' : Nat)
  | contributorRead (idx : Nat) (contributor : Nat)
  | collectiveDone (idx : Nat) (stats : List Bytes) (at' : Nat)
  | verdictEntryStart (at' : Nat)
  | numericsExchange (others : List Bytes)
  | verdictRecordReceived (rec : Bytes)
  | verdictCutoff (child : Nat)
  | verdictMissed (rec : Bytes)
  | entryEnd (core : Nat) (at' : Nat)
  | entryAborted (core : Nat) (at' : Nat)
  | validBitsClear (core : Nat)
  | stagingValidBitsClear
  | objectsReturnToZero (scope : Nat) (unit : Nat)
  | addOnWriteDrain
  | add (core : Nat) (x : ScalarOp)
  | sub (core : Nat) (x : ScalarOp)
  | mul (core : Nat) (x : ScalarOp)
  | andOp (core : Nat) (x : ScalarOp)
  | orOp (core : Nat) (x : ScalarOp)
  | xor (core : Nat) (x : ScalarOp)
  | shl (core : Nat) (x : ScalarOp)
  | shr (core : Nat) (x : ScalarOp)
  | sra (core : Nat) (x : ScalarOp)
  | minOp (core : Nat) (x : ScalarOp)
  | maxOp (core : Nat) (x : ScalarOp)
  | seq (core : Nat) (x : ScalarOp)
  | slt (core : Nat) (x : ScalarOp)
  | sltu (core : Nat) (x : ScalarOp)
  | lui (core : Nat) (x : ScalarOp)
  | adda (core : Nat) (x : ScalarOp)
  | mova (core : Nat) (x : ScalarOp)
  | movs (core : Nat) (x : ScalarOp)
  | loopStart (core : Nat) (x : LoopOp)
  | breakLoop (core : Nat)
  | br (core : Nat) (x : BranchOp)
  | jmp (core : Nat) (off : BitVec 14)
  | callSub (core : Nat) (target : BitVec 13)
  | retSub (core : Nat)
  | lidx (core : Nat) (d : BitVec 5) (level : BitVec 2)
  | ld (core : Nat) (x : LoadOp)
  | ldadd (core : Nat) (x : LoadOp)
  | ldzero (core : Nat) (x : ZeroOp)
  | loadTransferComplete (core : Nat)
  | dset (core : Nat) (desc : BitVec 6) (fld : BitVec 4) (src : BitVec 5)
  | drst (core : Nat) (desc : BitVec 6)
  | mm (core : Nat) (x : MatOp)
  | matrixOutputConversion (core : Nat)
  | vadd (core : Nat) (x : VecOp)
  | vsub (core : Nat) (x : VecOp)
  | vmul (core : Nat) (x : VecOp)
  | vfma (core : Nat) (x : VecOp)
  | vmin (core : Nat) (x : VecOp)
  | vmax (core : Nat) (x : VecOp)
  | vabs (core : Nat) (x : VecOp)
  | vneg (core : Nat) (x : VecOp)
  | vcmpeq (core : Nat) (x : VecOp)
  | vcmplt (core : Nat) (x : VecOp)
  | vcmple (core : Nat) (x : VecOp)
  | vsel (core : Nat) (x : VecOp)
  | vrcp (core : Nat) (x : VecOp)
  | vrsq (core : Nat) (x : VecOp)
  | vexp2 (core : Nat) (x : VecOp)
  | vlog2 (core : Nat) (x : VecOp)
  | vexp (core : Nat) (x : VecOp)
  | vlog (core : Nat) (x : VecOp)
  | vsexp (core : Nat) (x : VecOp)
  | vbcast (core : Nat) (x : VecOp)
  | vextr (core : Nat) (x : VecOp)
  | vu2f (core : Nat) (x : VecOp)
  | vrand (core : Nat) (x : RandOp)
  | vld (core : Nat) (x : VMemOp)
  | vst (core : Nat) (x : VMemOp)
  | tapr (core : Nat) (x : TapOp)
  | tapa (core : Nat) (x : TapOp)
  | tapw (core : Nat) (x : TapOp)
  | vred (core : Nat) (x : RedOp)
  | vkern (core : Nat) (x : KernOp)
  | sig (core : Nat) (x : SigOp)
  | signalApplied (core : Nat)
  | remoteSignal
  | wait (core : Nat) (x : WaitOp)
  | waitSatisfied (core : Nat)
  | waitTimeout (core : Nat) (at' : Nat)
  | endEntry (core : Nat)
  | clauseFence (core : Nat)
  | info (core : Nat) (d : BitVec 5) (sel : BitVec 4)
  | ovl (core : Nat) (x : OvlOp)
  | statRd (core : Nat) (d : BitVec 5)
  | statClr (core : Nat) (mask : BitVec 8)
  | statCap (core : Nat) (v : BitVec 7)
  | feRd (core : Nat) (d : BitVec 5) (w : BitVec 3)
  | mark (core : Nat) (v : BitVec 5) (code : BitVec 16)
  | raise (core : Nat) (code : BitVec 16)
  | gradientDelivery (d : Delivery)
  | deliveryRelease (mdie : Nat) (pair : Nat) (seg : Nat)
  | segmentBegin (idx : Nat) (mdie : Nat) (seg : Nat) (stream : Bytes)
  | jobPhaseEnd (idx : Nat) (mdie : Nat) (at' : Nat)
  | wcRebuildDone (mdie : Nat) (pair : Nat)
  | mirrorDigestRecord (rec : Bytes)
  | mirrorRefresh (pair : Nat) (version : Nat) (planes : Bytes) (fold : Word)
  | guardUnitRead (mdie : Nat) (pair : Nat)
  | readbackChunk (stream : Nat) (data : Bytes)
  | restoreStreamChunk (stream : Nat) (off : Nat) (data : Bytes)
  | sequencedFrame (port : Nat) (f : FabricFrame)
  | linkControl (port : Nat) (nak : Bool) (hdr : Bytes)
  | linkIdleAck (port : Nat)
  | fabricRetrain (port : Nat) (at' : Nat)
  | fabricPortDown (port : Nat) (at' : Nat)
  | fabricPortUp (port : Nat) (delay : Nat) (peer : Bytes)
  | neighbour (port : Nat) (payload : Bytes)
  | neighbourAnnounce (port : Nat)
  | e2eAck (tag : Nat) (nak : Option Nat)
  | operationResend (ndie : Nat) (slot : Nat) (at' : Nat)
  | epochApplied (slice : Nat)
  | linkFlitReplay (link : LinkId) (again : Bool) (at' : Nat)
  | edcRetry (mdie : Nat) (write : Bool) (fails : Nat) (ok : Bool) (ma : Nat)
  | scrubAtom (mdie : Nat) (errs : List (Nat × BitVec 4))
  | refresh (mdie : Nat)
  | periodicRetrain (mdie : Nat)
  | takeoverReady (ok : Bool) (runState : Bytes)
  | resetNLow (at' : Nat)
  | resetStage (found : List StageFinding) (at' : Nat)
  | resetStageFailed (die : Nat)
  | coreWatchdog (core : Nat) (err : BitVec 32)
  | dieWatchdog (die : Nat) (err : BitVec 32)
  | brownOut (mv : Nat)
  | inputLow (mv : Nat)
  | inputHigh (mv : Nat)
  | overVoltage (mv : Nat)
  | inputRecovered (mv : Nat)
  | pwrEnAsserted (slot : Nat)
  | governorSample (x : PowerSample)
  | thermalTrip (die : Nat)
  | safetyRegisterWrite (item : Nat) (value : BitVec 32)
  | smbusWrite (code : Byte)
  | bypass (code : Nat)
  | matrixInstructionComplete (core : Nat)
  | macControlFrame (port : Nat) (control : Bool)
  | readbackTimeout
  | dieSwapDone
  | resetNLong
  | managementWatchdog
  | safetyWatchdog
  | powerDown
  | reverseBlock
  | safetyRequest
  | archiveDone
  | alertCausesRead
  | idcode
  | samplePreload
  | extest
  | resetNReleased
  | refclkReturned
  | oscillatorPeriod
  | resetResponseTimeout
  | mirrorUnpaired
  | standbySupplyLost
  | standbySupplyUp
  deriving DecidableEq, Repr

end Sys2Proof
end

