-- ==== Sys2Proof/WellFormed.lean ====
section
/-!
DEFINITION. Which core instructions PROGRAM_LOAD accepts (06_core_instruction_set R121 to R140, R142; 04_matrix_engine R72; 10_synchronisation R234):
every value of an operand field that the chapter marks reserved, rejected at load or out of range is refused here. A command that is no core
instruction is checked by its own meaning.
-/

namespace Sys2Proof

/-- The layout of a handle (R232 to R234): the scope, the reserved bits, the fields that must be zero, and the index below the scope's count. -/
def handleLayoutOk (h : BitVec 32) : Bool :=
  let scope := (h.extractLsb' 28 4).toNat
  let named := h.getLsbD 27
  let index := (h.extractLsb' 0 11).toNat
  if scope = 3 then true
  else
    decide (scope ≤ 2) && decide (h.extractLsb' 11 7 = 0) && (named || decide (h.extractLsb' 18 9 = 0))
      && (scope != 1 || decide (h.extractLsb' 18 3 = 0)) && (scope != 2 || decide (h.extractLsb' 18 6 = 0))
      && decide (index < if scope = 0 then 64 else if scope = 1 then 256 else 2048)

/-- A field that names an address register has bit 4 zero (R123). -/
def addrField (r : BitVec 5) : Bool := !r.getLsbD 4

/-- A matrix mode without reserved values (R72). -/
def modeOk (m : BitVec 16) : Bool :=
  decide (m.extractLsb' 0 2 ≠ 0) && decide (m.extractLsb' 4 2 ≠ 3) && decide (m.extractLsb' 8 8 = 0)

/-- C is named only under init 0b10 and the output only with convert (*MM layout*). -/
def MatOp.ok (x : MatOp) : Bool :=
  modeOk x.mode && (decide (x.mode.extractLsb' 4 2 = 2) || decide (x.c = 0)) && (x.mode.getLsbD 6 || decide (x.out = 0))

/-- The destination of a compare names a mask: vd bits 4:2 zero (R132). -/
def maskField (r : BitVec 5) : Bool := decide (r.extractLsb' 2 3 = 0)

/-- The values of the operand fields that PROGRAM_LOAD accepts. -/
def Instr.wellFormed : Instr → Bool
  | .adda _ x => addrField x.d && addrField x.a
  | .mova _ x => addrField x.d
  | .movs _ x => addrField x.a
  | .loopStart _ x => decide (x.len ≠ 0)
  | .br _ x => decide (x.cond.toNat ≤ 5)
  | .dset _ _ f _ => decide (f.toNat ≤ 7)
  | .mm _ x => x.ok
  | .vcmpeq _ x => maskField x.vd
  | .vcmplt _ x => maskField x.vd
  | .vcmple _ x => maskField x.vd
  | .vsel _ x => maskField x.vc
  | .vrand _ x => decide (x.stream ≠ 0)
  | .vred _ x => decide (x.kind = 1) || decide (x.y = 0)
  | .vkern _ x => decide (1 ≤ x.code.toNat ∧ x.code.toNat ≤ 6)
  | .sig _ x => decide (x.count ≠ 0) && (!x.imm || handleLayoutOk x.handle)
  | .info _ _ k => decide (k.toNat ≤ 7)
  | .ovl _ x => decide (x.count ≠ 0)
  | _ => true

end Sys2Proof
end

