-- ==== Sys2Proof/Decode.lean ====
section
/-!
DEFINITION. The 64-bit words of core programs (06_core_instruction_set R121 to R140): a decoder that refuses reserved classes, operations, bits and
values, an encoder written from the same layouts, and `decodeTableWord`. The table of commands gives no row any bits, so no word spells a command.
-/

namespace Sys2Proof

/-- Bits hi:lo of a word as a field of `len` bits from `lo`. -/
def fld (w : Word) (lo len : Nat) : BitVec len := w.extractLsb' lo len

def flag (w : Word) (i : Nat) : Bool := w.getLsbD i

/-! One reader per operand layout; `none` where a reserved bit is not zero or a field holds a value that is rejected at load. -/

def readScalar (w : Word) : Option ScalarOp :=
  if fld w 32 4 = 0 then some { d := fld w 47 5, a := fld w 42 5, b := fld w 37 5, imm := flag w 36, imm32 := fld w 0 32 } else none

def readLoop (w : Word) : Option LoopOp :=
  if flag w 32 = false then some { cnt := fld w 47 5, imm := flag w 46, len := fld w 33 13, count := fld w 0 32 } else none

def readBranch (w : Word) : Option BranchOp :=
  if fld w 14 25 = 0 then some { a := fld w 47 5, b := fld w 42 5, cond := fld w 39 3, off := fld w 0 14 } else none

def readLoad (w : Word) : Option LoadOp :=
  if fld w 0 26 = 0 then
    some { dst := fld w 46 6, src := fld w 40 6, dstRow := fld w 36 4, srcRow := fld w 32 4, handle := fld w 27 5, signal := flag w 26 }
  else none

def readZero (w : Word) : Option ZeroOp :=
  if fld w 0 26 = 0 ∧ fld w 32 4 = 0 ∧ fld w 40 6 = 0 then
    some { dst := fld w 46 6, dstRow := fld w 36 4, handle := fld w 27 5, signal := flag w 26 }
  else none

def readMat (w : Word) : Option MatOp :=
  if fld w 0 4 = 0 then
    some { a := fld w 46 6, b := fld w 40 6, c := fld w 34 6, out := fld w 28 6, mode := fld w 12 16, ka := fld w 8 4, kb := fld w 4 4 }
  else none

def readVec (w : Word) : Option VecOp :=
  if fld w 0 18 = 0 then
    some { vd := fld w 47 5, va := fld w 42 5, vb := fld w 37 5, vc := fld w 32 5, mask := fld w 30 2, sr := fld w 25 5, lane := fld w 18 7 }
  else none

def readRand (w : Word) : Option RandOp :=
  if fld w 0 24 = 0 then
    some { vd := fld w 47 5, desc := fld w 41 6, stream := fld w 34 7, index := fld w 29 5, draw := fld w 24 5 }
  else none

def readVMem (w : Word) : Option VMemOp :=
  if fld w 0 30 = 0 ∧ fld w 32 5 = 0 then some { vd := fld w 47 5, desc := fld w 41 6, off := fld w 37 4, mask := fld w 30 2 } else none

def readTap (w : Word) : Option TapOp :=
  if fld w 0 30 = 0 ∧ fld w 32 4 = 0 then
    some { vd := fld w 47 5, vs := fld w 42 5, half := flag w 41, row := fld w 36 5, mask := fld w 30 2 }
  else none

def readRed (w : Word) : Option RedOp :=
  if fld w 0 23 = 0 then
    some { vd := fld w 47 5, x := fld w 41 6, y := fld w 35 6, kind := fld w 33 2, a48 := flag w 32, len := fld w 27 5, off := fld w 23 4 }
  else none

def readKern (w : Word) : Option KernOp :=
  if fld w 0 13 = 0 then
    some { code := fld w 44 8, x := fld w 38 6, out := fld w 32 6, aux := fld w 26 6, span := fld w 24 2, half := flag w 23, rows := fld w 18 5,
           param := fld w 13 5 }
  else none

def readSig (w : Word) : Option SigOp :=
  if fld w 32 6 = 0 then some { reg := fld w 47 5, imm := flag w 46, count := fld w 38 8, handle := fld w 0 32 } else none

def readWait (w : Word) : Option WaitOp :=
  if fld w 0 16 = 0 ∧ fld w 32 9 = 0 then some { reg := fld w 47 5, target := fld w 42 5, sleep := flag w 41, timeout := fld w 16 16 } else none

def readOvl (w : Word) : Option OvlOp :=
  if fld w 0 8 = 0 then some { dst := fld w 39 13, count := fld w 26 13, src := fld w 8 18 } else none

/-- Class and operation of a word. -/
def opOf (w : Word) : Nat × Nat := ((fld w 60 4).toNat, (fld w 52 8).toNat)

/-- The instruction of a word on a core, before the checks of values (R121). -/
def readWord (core : Nat) (w : Word) : Option Instr :=
  match opOf w with
  | (0, 1) => (readScalar w).map (.add core)
  | (0, 2) => (readScalar w).map (.sub core)
  | (0, 3) => (readScalar w).map (.mul core)
  | (0, 4) => (readScalar w).map (.andOp core)
  | (0, 5) => (readScalar w).map (.orOp core)
  | (0, 6) => (readScalar w).map (.xor core)
  | (0, 7) => (readScalar w).map (.shl core)
  | (0, 8) => (readScalar w).map (.shr core)
  | (0, 9) => (readScalar w).map (.sra core)
  | (0, 10) => (readScalar w).map (.minOp core)
  | (0, 11) => (readScalar w).map (.maxOp core)
  | (0, 12) => (readScalar w).map (.seq core)
  | (0, 13) => (readScalar w).map (.slt core)
  | (0, 14) => (readScalar w).map (.sltu core)
  | (0, 15) => (readScalar w).map (.lui core)
  | (0, 32) => (readScalar w).map (.adda core)
  | (0, 33) => (readScalar w).map (.mova core)
  | (0, 34) => (readScalar w).map (.movs core)
  | (1, 1) => (readLoop w).map (.loopStart core)
  | (1, 2) => if fld w 0 52 = 0 then some (.breakLoop core) else none
  | (1, 3) => (readBranch w).map (.br core)
  | (1, 4) => if fld w 14 38 = 0 then some (.jmp core (fld w 0 14)) else none
  | (1, 5) => if fld w 13 39 = 0 then some (.callSub core (fld w 0 13)) else none
  | (1, 6) => if fld w 0 52 = 0 then some (.retSub core) else none
  | (1, 7) => if fld w 0 45 = 0 then some (.lidx core (fld w 47 5) (fld w 45 2)) else none
  | (2, 1) => (readLoad w).map (.ld core)
  | (2, 2) => (readLoad w).map (.ldadd core)
  | (2, 3) => (readZero w).map (.ldzero core)
  | (2, 4) => if fld w 0 37 = 0 then some (.dset core (fld w 46 6) (fld w 42 4) (fld w 37 5)) else none
  | (2, 5) => if fld w 0 46 = 0 then some (.drst core (fld w 46 6)) else none
  | (3, 1) => (readMat w).map (.mm core)
  | (4, 1) => (readVec w).map (.vadd core)
  | (4, 2) => (readVec w).map (.vsub core)
  | (4, 3) => (readVec w).map (.vmul core)
  | (4, 4) => (readVec w).map (.vfma core)
  | (4, 5) => (readVec w).map (.vmin core)
  | (4, 6) => (readVec w).map (.vmax core)
  | (4, 7) => (readVec w).map (.vabs core)
  | (4, 8) => (readVec w).map (.vneg core)
  | (4, 9) => (readVec w).map (.vcmpeq core)
  | (4, 10) => (readVec w).map (.vcmplt core)
  | (4, 11) => (readVec w).map (.vcmple core)
  | (4, 12) => (readVec w).map (.vsel core)
  | (4, 13) => (readVec w).map (.vrcp core)
  | (4, 14) => (readVec w).map (.vrsq core)
  | (4, 15) => (readVec w).map (.vexp2 core)
  | (4, 16) => (readVec w).map (.vlog2 core)
  | (4, 17) => (readVec w).map (.vexp core)
  | (4, 18) => (readVec w).map (.vlog core)
  | (4, 19) => (readVec w).map (.vsexp core)
  | (4, 20) => (readVec w).map (.vbcast core)
  | (4, 21) => (readVec w).map (.vextr core)
  | (4, 22) => (readVec w).map (.vu2f core)
  | (4, 23) => (readRand w).map (.vrand core)
  | (4, 32) => (readVMem w).map (.vld core)
  | (4, 33) => (readVMem w).map (.vst core)
  | (4, 48) => (readTap w).map (.tapr core)
  | (4, 49) => (readTap w).map (.tapa core)
  | (4, 50) => (readTap w).map (.tapw core)
  | (4, 64) => (readRed w).map (.vred core)
  | (4, 65) => (readKern w).map (.vkern core)
  | (5, 1) => (readSig w).map (.sig core)
  | (5, 2) => (readWait w).map (.wait core)
  | (6, 1) => if fld w 0 52 = 0 then some (.endEntry core) else none
  | (6, 2) => if fld w 0 52 = 0 then some (.clauseFence core) else none
  | (6, 3) => if fld w 0 43 = 0 then some (.info core (fld w 47 5) (fld w 43 4)) else none
  | (6, 4) => (readOvl w).map (.ovl core)
  | (7, 1) => if fld w 0 47 = 0 then some (.statRd core (fld w 47 5)) else none
  | (7, 2) => if fld w 8 44 = 0 then some (.statClr core (fld w 0 8)) else none
  | (7, 3) => if fld w 7 45 = 0 then some (.statCap core (fld w 0 7)) else none
  | (7, 4) => if fld w 0 44 = 0 then some (.feRd core (fld w 47 5) (fld w 44 3)) else none
  | (7, 5) => if fld w 16 31 = 0 then some (.mark core (fld w 47 5) (fld w 0 16)) else none
  | (7, 6) => if fld w 16 36 = 0 then some (.raise core (fld w 0 16)) else none
  | _ => none

/-- The instruction that a word spells: its layout and every value allowed (R121, R142). -/
def decodeWord (core : Nat) (w : Word) : Option Instr :=
  match readWord core w with
  | some i => if i.wellFormed then some i else none
  | none => none

/-! The encoder: class, operation, and the layout's fields from bit 51 down. -/

def encScalar (op : BitVec 8) (x : ScalarOp) : Word := (0#4 ++ op ++ x.d ++ x.a ++ x.b ++ BitVec.ofBool x.imm ++ 0#4 ++ x.imm32 : BitVec 64)
def encVec (op : BitVec 8) (x : VecOp) : Word :=
  (4#4 ++ op ++ x.vd ++ x.va ++ x.vb ++ x.vc ++ x.mask ++ x.sr ++ x.lane ++ 0#18 : BitVec 64)
def encLoad (op : BitVec 8) (x : LoadOp) : Word :=
  (2#4 ++ op ++ x.dst ++ x.src ++ x.dstRow ++ x.srcRow ++ x.handle ++ BitVec.ofBool x.signal ++ 0#26 : BitVec 64)
def encVMem (op : BitVec 8) (x : VMemOp) : Word := (4#4 ++ op ++ x.vd ++ x.desc ++ x.off ++ 0#5 ++ x.mask ++ 0#30 : BitVec 64)
def encTap (op : BitVec 8) (x : TapOp) : Word :=
  (4#4 ++ op ++ x.vd ++ x.vs ++ BitVec.ofBool x.half ++ x.row ++ 0#4 ++ x.mask ++ 0#30 : BitVec 64)

/-- The word of a core instruction; `none` for a command that is no core instruction. -/
def encodeWord : Instr → Option Word
  | .add _ x => some (encScalar 1#8 x)
  | .sub _ x => some (encScalar 2#8 x)
  | .mul _ x => some (encScalar 3#8 x)
  | .andOp _ x => some (encScalar 4#8 x)
  | .orOp _ x => some (encScalar 5#8 x)
  | .xor _ x => some (encScalar 6#8 x)
  | .shl _ x => some (encScalar 7#8 x)
  | .shr _ x => some (encScalar 8#8 x)
  | .sra _ x => some (encScalar 9#8 x)
  | .minOp _ x => some (encScalar 10#8 x)
  | .maxOp _ x => some (encScalar 11#8 x)
  | .seq _ x => some (encScalar 12#8 x)
  | .slt _ x => some (encScalar 13#8 x)
  | .sltu _ x => some (encScalar 14#8 x)
  | .lui _ x => some (encScalar 15#8 x)
  | .adda _ x => some (encScalar 32#8 x)
  | .mova _ x => some (encScalar 33#8 x)
  | .movs _ x => some (encScalar 34#8 x)
  | .loopStart _ x => some (1#4 ++ 1#8 ++ x.cnt ++ BitVec.ofBool x.imm ++ x.len ++ 0#1 ++ x.count : BitVec 64)
  | .breakLoop _ => some (1#4 ++ 2#8 ++ 0#52 : BitVec 64)
  | .br _ x => some (1#4 ++ 3#8 ++ x.a ++ x.b ++ x.cond ++ 0#25 ++ x.off : BitVec 64)
  | .jmp _ off => some (1#4 ++ 4#8 ++ 0#38 ++ off : BitVec 64)
  | .callSub _ t => some (1#4 ++ 5#8 ++ 0#39 ++ t : BitVec 64)
  | .retSub _ => some (1#4 ++ 6#8 ++ 0#52 : BitVec 64)
  | .lidx _ d l => some (1#4 ++ 7#8 ++ d ++ l ++ 0#45 : BitVec 64)
  | .ld _ x => some (encLoad 1#8 x)
  | .ldadd _ x => some (encLoad 2#8 x)
  | .ldzero _ x => some (2#4 ++ 3#8 ++ x.dst ++ 0#6 ++ x.dstRow ++ 0#4 ++ x.handle ++ BitVec.ofBool x.signal ++ 0#26 : BitVec 64)
  | .dset _ t f r => some (2#4 ++ 4#8 ++ t ++ f ++ r ++ 0#37 : BitVec 64)
  | .drst _ t => some (2#4 ++ 5#8 ++ t ++ 0#46 : BitVec 64)
  | .mm _ x => some (3#4 ++ 1#8 ++ x.a ++ x.b ++ x.c ++ x.out ++ x.mode ++ x.ka ++ x.kb ++ 0#4 : BitVec 64)
  | .vadd _ x => some (encVec 1#8 x)
  | .vsub _ x => some (encVec 2#8 x)
  | .vmul _ x => some (encVec 3#8 x)
  | .vfma _ x => some (encVec 4#8 x)
  | .vmin _ x => some (encVec 5#8 x)
  | .vmax _ x => some (encVec 6#8 x)
  | .vabs _ x => some (encVec 7#8 x)
  | .vneg _ x => some (encVec 8#8 x)
  | .vcmpeq _ x => some (encVec 9#8 x)
  | .vcmplt _ x => some (encVec 10#8 x)
  | .vcmple _ x => some (encVec 11#8 x)
  | .vsel _ x => some (encVec 12#8 x)
  | .vrcp _ x => some (encVec 13#8 x)
  | .vrsq _ x => some (encVec 14#8 x)
  | .vexp2 _ x => some (encVec 15#8 x)
  | .vlog2 _ x => some (encVec 16#8 x)
  | .vexp _ x => some (encVec 17#8 x)
  | .vlog _ x => some (encVec 18#8 x)
  | .vsexp _ x => some (encVec 19#8 x)
  | .vbcast _ x => some (encVec 20#8 x)
  | .vextr _ x => some (encVec 21#8 x)
  | .vu2f _ x => some (encVec 22#8 x)
  | .vrand _ x => some (4#4 ++ 23#8 ++ x.vd ++ x.desc ++ x.stream ++ x.index ++ x.draw ++ 0#24 : BitVec 64)
  | .vld _ x => some (encVMem 32#8 x)
  | .vst _ x => some (encVMem 33#8 x)
  | .tapr _ x => some (encTap 48#8 x)
  | .tapa _ x => some (encTap 49#8 x)
  | .tapw _ x => some (encTap 50#8 x)
  | .vred _ x => some (4#4 ++ 64#8 ++ x.vd ++ x.x ++ x.y ++ x.kind ++ BitVec.ofBool x.a48 ++ x.len ++ x.off ++ 0#23 : BitVec 64)
  | .vkern _ x => some (4#4 ++ 65#8 ++ x.code ++ x.x ++ x.out ++ x.aux ++ x.span ++ BitVec.ofBool x.half ++ x.rows ++ x.param ++ 0#13 : BitVec 64)
  | .sig _ x => some (5#4 ++ 1#8 ++ x.reg ++ BitVec.ofBool x.imm ++ x.count ++ 0#6 ++ x.handle : BitVec 64)
  | .wait _ x => some (5#4 ++ 2#8 ++ x.reg ++ x.target ++ BitVec.ofBool x.sleep ++ 0#9 ++ x.timeout ++ 0#16 : BitVec 64)
  | .endEntry _ => some (6#4 ++ 1#8 ++ 0#52 : BitVec 64)
  | .clauseFence _ => some (6#4 ++ 2#8 ++ 0#52 : BitVec 64)
  | .info _ d k => some (6#4 ++ 3#8 ++ d ++ k ++ 0#43 : BitVec 64)
  | .ovl _ x => some (6#4 ++ 4#8 ++ x.dst ++ x.count ++ x.src ++ 0#8 : BitVec 64)
  | .statRd _ d => some (7#4 ++ 1#8 ++ d ++ 0#47 : BitVec 64)
  | .statClr _ m => some (7#4 ++ 2#8 ++ 0#44 ++ m : BitVec 64)
  | .statCap _ v => some (7#4 ++ 3#8 ++ 0#45 ++ v : BitVec 64)
  | .feRd _ d w => some (7#4 ++ 4#8 ++ d ++ w ++ 0#44 : BitVec 64)
  | .mark _ v c => some (7#4 ++ 5#8 ++ v ++ 0#31 ++ c : BitVec 64)
  | .raise _ c => some (7#4 ++ 6#8 ++ 0#36 ++ c : BitVec 64)
  | _ => none

/-- The table of commands gives no row any bits: no word spells a command (log entry 12). -/
def decodeTableWord (_nbits _w : Nat) : Option Instr := none

end Sys2Proof
end

