-- ==== Sys2Proof/Machine/Bits.lean ====
section
/-!
DEFINITION. Byte order, bit fields and sparse maps (00_scope R5, R6). Every multi-byte field is little-endian.
-/

namespace Sys2Proof.Machine

/-- `n` bytes of `v`, least significant byte first (R5). -/
def leBytes : Nat → Nat → Bytes
  | 0, _ => []
  | n + 1, v => BitVec.ofNat 8 v :: leBytes n (v / 256)

/-- The number that a little-endian byte string holds (R5). -/
def leNat : Bytes → Nat
  | [] => 0
  | b :: bs => b.toNat + 256 * leNat bs

/-- The number that a big-endian byte string holds (R5: Ethernet, IP and UDP headers). -/
def beNat (bs : Bytes) : Nat := bs.foldl (fun a b => a * 256 + b.toNat) 0

/-- `n` bytes of `v`, most significant byte first. -/
def beBytes (n v : Nat) : Bytes := (leBytes n v).reverse

/-- `len` bytes of `p` from offset `off`; bytes beyond the end are absent. -/
def slice (p : Bytes) (off len : Nat) : Bytes := (p.drop off).take len

/-- The little-endian field of `len` bytes at offset `off`. -/
def field (p : Bytes) (off len : Nat) : Nat := leNat (slice p off len)

/-- Every byte of the given stretch is zero (a reserved field, R7). -/
def allZero (p : Bytes) (off len : Nat) : Bool := (slice p off len).all (· == 0)

def zeros (n : Nat) : Bytes := List.replicate n 0

/-- `p` padded with zeros to a multiple of `n` bytes. -/
def padTo (n : Nat) (p : Bytes) : Bytes := p ++ zeros ((n - p.length % n) % n)

/-- `p` cut or padded with zeros to exactly `n` bytes. -/
def fitTo (n : Nat) (p : Bytes) : Bytes := (p ++ zeros (n - p.length)).take n

/-- Bits `hi:lo` of a number (R6). -/
def bits (v hi lo : Nat) : Nat := v / 2 ^ lo % 2 ^ (hi + 1 - lo)

/-- Bit `i` of a number. -/
def bit (v i : Nat) : Bool := v / 2 ^ i % 2 == 1

def bitNat (b : Bool) : Nat := if b then 1 else 0

/-- The value of the low `n` bits of `v` read as two's complement. -/
def signedOf (n v : Nat) : Int := if v % 2 ^ n < 2 ^ (n - 1) then (v % 2 ^ n : Nat) else (v % 2 ^ n : Nat) - (2 ^ n : Nat)

/-- The low `n` bits of an integer. -/
def natOfInt (n : Nat) (i : Int) : Nat := (i % (2 ^ n : Nat)).toNat

def sat16 (n : Nat) : Nat := min n 0xFFFF
def sat32 (n : Nat) : Nat := min n 0xFFFFFFFF
def ceilDiv (a b : Nat) : Nat := (a + b - 1) / b

/-- Round up to a multiple of `m`. -/
def roundUp (m n : Nat) : Nat := ceilDiv n m * m

/-- Read a sparse map: an unlisted key reads as `d`. -/
def SMap.get {α : Type} (d : α) : SMap α → Nat → α
  | [], _ => d
  | (k, v) :: rest, i => if i = k then v else SMap.get d rest i

/-- Whether a key is listed. -/
def SMap.find? {α : Type} : SMap α → Nat → Option α
  | [], _ => none
  | (k, v) :: rest, i => if i = k then some v else SMap.find? rest i

/-- Remove a key. -/
def SMap.erase {α : Type} : SMap α → Nat → SMap α
  | [], _ => []
  | (k, v) :: rest, i => if i = k then rest else (k, v) :: SMap.erase rest i

/-- Put `v` under a key, keeping the keys rising. -/
def SMap.insert {α : Type} : SMap α → Nat → α → SMap α
  | [], i, v => [(i, v)]
  | (k, w) :: rest, i, v =>
    if i < k then (i, v) :: (k, w) :: rest
    else if i = k then (i, v) :: rest
    else (k, w) :: SMap.insert rest i v

/-- Write a sparse map in canonical form: writing what an unlisted key reads as removes the entry. -/
def SMap.set {α : Type} [DecidableEq α] (d : α) (m : SMap α) (i : Nat) (v : α) : SMap α :=
  if v = d then SMap.erase m i else SMap.insert m i v

/-- Write a run of consecutive keys. -/
def SMap.setRun {α : Type} [DecidableEq α] (d : α) : SMap α → Nat → List α → SMap α
  | m, _, [] => m
  | m, i, v :: vs => SMap.setRun d (SMap.set d m i v) (i + 1) vs

/-- The keys are strictly rising and none is at or below `lo`. -/
def SMap.risingFrom {α : Type} : Nat → SMap α → Bool
  | _, [] => true
  | lo, (k, _) :: rest => decide (lo ≤ k) && SMap.risingFrom (k + 1) rest

/-- The canonical form of a sparse map over the default `d`. -/
def SMap.wf {α : Type} [DecidableEq α] (d : α) (m : SMap α) : Bool :=
  SMap.risingFrom 0 m && m.all (fun e => !decide (e.2 = d))

/-- Keep the entries whose keys pass. -/
def SMap.keep {α : Type} (p : Nat → Bool) (m : SMap α) : SMap α := m.filter (fun e => p e.1)

/-- Replace element `i` of a list. -/
def setAt {α : Type} (l : List α) (i : Nat) (v : α) : List α := l.set i v

/-- Element `i` of a list, or `d`. -/
def getAt {α : Type} (d : α) (l : List α) (i : Nat) : α := l.getD i d

/-- The ASCII bytes of a string. -/
def ascii (s : String) : Bytes := s.toList.map (fun c => BitVec.ofNat 8 c.toNat)

end Sys2Proof.Machine
end

