-- ==== Sys2Proof/Machine/Num.lean ====
section
/-!
DEFINITION. Exact values and the element formats (03_number_formats R48 to R66; 05 R93, R107). A value is a dyadic number, so every product and
sum is exact and every result is rounded once.
-/

namespace Sys2Proof.Machine

/-- An exact value: NaN, a signed infinity, or (−1)^s × m × 2^e; m = 0 is a signed zero. -/
inductive Val where
  | nan
  | inf (s : Bool)
  | fin (s : Bool) (m : Nat) (e : Int)
  deriving DecidableEq, Repr

/-- How a conversion rounds (R65, R107): to nearest even, or with k random bits of a draw. -/
inductive Rnd where
  | rne
  | sr (k : Nat) (draw : W32)
  deriving DecidableEq, Repr

/-- The tensor formats (R48). -/
inductive Fmt where
  | fp32 | fp16 | bf16 | e4m3 | e5m2 | int8
  | mxE4M3 | mxE5M2 | mxE3M2 | mxE2M3 | mxE2M1 | mxInt8 | a48
  deriving DecidableEq, Repr

/-- Format code (R48); codes 0xD to 0xF are reserved. -/
def Fmt.ofCode : Nat → Option Fmt
  | 0 => some .fp32 | 1 => some .fp16 | 2 => some .bf16 | 3 => some .e4m3 | 4 => some .e5m2 | 5 => some .int8
  | 6 => some .mxE4M3 | 7 => some .mxE5M2 | 8 => some .mxE3M2 | 9 => some .mxE2M3 | 10 => some .mxE2M1
  | 11 => some .mxInt8 | 12 => some .a48 | _ => none

def Fmt.code : Fmt → Nat
  | .fp32 => 0 | .fp16 => 1 | .bf16 => 2 | .e4m3 => 3 | .e5m2 => 4 | .int8 => 5
  | .mxE4M3 => 6 | .mxE5M2 => 7 | .mxE3M2 => 8 | .mxE2M3 => 9 | .mxE2M1 => 10 | .mxInt8 => 11 | .a48 => 12

def Fmt.isMx : Fmt → Bool
  | .mxE4M3 | .mxE5M2 | .mxE3M2 | .mxE2M3 | .mxE2M1 | .mxInt8 => true
  | _ => false

/-- Formats that carry a per-tensor scale exponent (R51). -/
def Fmt.scaled : Fmt → Bool
  | .fp16 | .e4m3 | .e5m2 | .int8 => true
  | _ => false

/-- Bits of one element as stored (R48, R64). -/
def Fmt.elemBits : Fmt → Nat
  | .fp32 => 32 | .fp16 | .bf16 => 16 | .mxE3M2 | .mxE2M3 => 6 | .mxE2M1 => 4 | .a48 => 64 | _ => 8

/-- Bytes of one MX element record (R53). -/
def Fmt.recordBytes : Fmt → Nat
  | .mxE3M2 | .mxE2M3 => 24 | .mxE2M1 => 16 | _ => 32

/-- How an all-ones exponent reads (R49). -/
inductive Specials where
  | ieee      -- infinity and NaN
  | e4m3      -- S.1111.111 is NaN, no infinity
  | none      -- neither
  deriving DecidableEq, Repr

/-- The parameters of a floating-point element format (R49). -/
structure FloatFmt where
  expBits : Nat
  manBits : Nat
  bias    : Nat
  special : Specials
  deriving DecidableEq, Repr

def fFP32 : FloatFmt := ⟨8, 23, 127, .ieee⟩
def fFP16 : FloatFmt := ⟨5, 10, 15, .ieee⟩
def fBF16 : FloatFmt := ⟨8, 7, 127, .ieee⟩
def fE4M3 : FloatFmt := ⟨4, 3, 7, .e4m3⟩
def fE5M2 : FloatFmt := ⟨5, 2, 15, .ieee⟩
def fE3M2 : FloatFmt := ⟨3, 2, 3, .none⟩
def fE2M3 : FloatFmt := ⟨2, 3, 1, .none⟩
def fE2M1 : FloatFmt := ⟨2, 1, 1, .none⟩
/-- A48 has a hidden leading bit, 37 fraction bits and bias 511 (R63). -/
def fA48 : FloatFmt := ⟨10, 37, 511, .ieee⟩
def fBin64 : FloatFmt := ⟨11, 52, 1023, .ieee⟩

/-- The largest exponent field of a finite value. -/
def FloatFmt.maxField (f : FloatFmt) : Nat :=
  match f.special with
  | .ieee => 2 ^ f.expBits - 2
  | _ => 2 ^ f.expBits - 1

/-- The significand of the largest finite value: all ones, but E4M3 keeps mantissa 0b111 for NaN (R49). -/
def FloatFmt.maxSig (f : FloatFmt) : Nat :=
  match f.special with
  | .e4m3 => 2 ^ (f.manBits + 1) - 2
  | _ => 2 ^ (f.manBits + 1) - 1

/-- The exponent of the lowest significand bit of the largest finite value. -/
def FloatFmt.maxLsb (f : FloatFmt) : Int := (f.maxField : Int) - f.bias - f.manBits

/-- The exponent of the smallest subnormal (R49). -/
def FloatFmt.minLsb (f : FloatFmt) : Int := 1 - (f.bias : Int) - f.manBits

def FloatFmt.signBit (f : FloatFmt) : Nat := 2 ^ (f.expBits + f.manBits)

def FloatFmt.infCode (f : FloatFmt) : Nat := (2 ^ f.expBits - 1) * 2 ^ f.manBits

/-- The canonical NaN (R49): quiet bit set; all ones in E4M3. -/
def FloatFmt.nanCode (f : FloatFmt) : Nat :=
  match f.special with
  | .e4m3 => f.signBit - 1
  | _ => f.infCode + 2 ^ (f.manBits - 1)

def FloatFmt.maxCode (f : FloatFmt) : Nat := f.maxField * 2 ^ f.manBits + (f.maxSig - 2 ^ f.manBits)

/-- Decode one element code (R49, R50): subnormals at their exact value, every NaN pattern as NaN, negative zero kept. -/
def FloatFmt.decode (f : FloatFmt) (code : Nat) : Val :=
  let s := bit code (f.expBits + f.manBits)
  let e := bits code (f.expBits + f.manBits - 1) f.manBits
  let m := code % 2 ^ f.manBits
  let top := 2 ^ f.expBits - 1
  if f.special = .ieee ∧ e = top then (if m = 0 then .inf s else .nan)
  else if f.special = .e4m3 ∧ e = top ∧ m = 2 ^ f.manBits - 1 then .nan
  else if e = 0 then .fin s m f.minLsb
  else .fin s (2 ^ f.manBits + m) ((e : Int) - f.bias - f.manBits)

/-! Exact arithmetic on finite values. -/

/-- The significand of m × 2^e written with lowest exponent q ≤ e. -/
def alignTo (q : Int) (m : Nat) (e : Int) : Nat := m * 2 ^ (e - q).toNat

/-- The exact sum of two finite values; a zero sum of two zeros keeps a shared sign, any other exact zero is +0 (R77). -/
def finAdd (s1 : Bool) (m1 : Nat) (e1 : Int) (s2 : Bool) (m2 : Nat) (e2 : Int) : Val :=
  if m1 = 0 ∧ m2 = 0 then .fin (s1 && s2) 0 0
  else if m1 = 0 then .fin s2 m2 e2
  else if m2 = 0 then .fin s1 m1 e1
  else
    let q := min e1 e2
    let a := alignTo q m1 e1
    let b := alignTo q m2 e2
    if s1 = s2 then .fin s1 (a + b) q
    else if a = b then .fin false 0 0
    else if b < a then .fin s1 (a - b) q
    else .fin s2 (b - a) q

/-- Exact addition with the non-finite rules of R76; the flag is INVALID. -/
def vAdd : Val → Val → Val × Bool
  | .nan, _ => (.nan, false)
  | _, .nan => (.nan, false)
  | .inf a, .inf b => if a = b then (.inf a, false) else (.nan, true)
  | .inf a, .fin _ _ _ => (.inf a, false)
  | .fin _ _ _, .inf b => (.inf b, false)
  | .fin s1 m1 e1, .fin s2 m2 e2 => (finAdd s1 m1 e1 s2 m2 e2, false)

def vNeg : Val → Val
  | .nan => .nan
  | .inf s => .inf (!s)
  | .fin s m e => .fin (!s) m e

def vAbs : Val → Val
  | .nan => .nan
  | .inf _ => .inf false
  | .fin _ m e => .fin false m e

def vSub (a b : Val) : Val × Bool := vAdd a (vNeg b)

/-- Exact multiplication; zero times infinity is NaN and INVALID (R76, R93). -/
def vMul : Val → Val → Val × Bool
  | .nan, _ => (.nan, false)
  | _, .nan => (.nan, false)
  | .inf a, .inf b => (.inf (a ^^ b), false)
  | .inf a, .fin b m _ => if m = 0 then (.nan, true) else (.inf (a ^^ b), false)
  | .fin a m _, .inf b => if m = 0 then (.nan, true) else (.inf (a ^^ b), false)
  | .fin a m1 e1, .fin b m2 e2 => (.fin (a ^^ b) (m1 * m2) (e1 + e2), false)

def Val.isNan : Val → Bool
  | .nan => true
  | _ => false
def Val.isInf : Val → Bool
  | .inf _ => true
  | _ => false
def Val.isZero : Val → Bool
  | .fin _ 0 _ => true
  | _ => false
def Val.isFinNonzero : Val → Bool
  | .fin _ (_ + 1) _ => true
  | _ => false
def Val.neg : Val → Bool
  | .nan => false
  | .inf s => s
  | .fin s _ _ => s

/-- Compare magnitudes m1 × 2^e1 and m2 × 2^e2. -/
def magLt (m1 : Nat) (e1 : Int) (m2 : Nat) (e2 : Int) : Bool :=
  let q := min e1 e2
  decide (alignTo q m1 e1 < alignTo q m2 e2)

def magLe (m1 : Nat) (e1 : Int) (m2 : Nat) (e2 : Int) : Bool := !magLt m2 e2 m1 e1

/-- IEEE less-than; false with a NaN; −0 equals +0. -/
def vLt : Val → Val → Bool
  | .nan, _ => false
  | _, .nan => false
  | .inf a, .inf b => a && !b
  | .inf a, .fin _ _ _ => a
  | .fin _ _ _, .inf b => !b
  | .fin s1 m1 e1, .fin s2 m2 e2 =>
    if m1 = 0 ∧ m2 = 0 then false
    else if m1 = 0 then !s2
    else if m2 = 0 then s1
    else if s1 && !s2 then true
    else if !s1 && s2 then false
    else if s1 then magLt m2 e2 m1 e1
    else magLt m1 e1 m2 e2

/-- IEEE equality; false with a NaN; −0 equals +0. -/
def vEq (a b : Val) : Bool := !a.isNan && !b.isNan && !vLt a b && !vLt b a

/-- The total order used by minimum and maximum: −0 below +0 (R93, R102). -/
def vLtSigned (a b : Val) : Bool :=
  if a.isZero && b.isZero then a.neg && !b.neg else vLt a b

def vMax (a b : Val) : Val := if a.isNan || b.isNan then .nan else if vLtSigned a b then b else a
def vMin (a b : Val) : Val := if a.isNan || b.isNan then .nan else if vLtSigned b a then b else a

/-- Multiply by 2^t (R51: exact, changes only the exponent). -/
def vScale (t : Int) : Val → Val
  | .fin s m e => .fin s m (e + t)
  | v => v

/-- floor(log2 (m × 2^e)) for m > 0. -/
def floorLog2 (m : Nat) (e : Int) : Int := (m.log2 : Int) + e

/-! Rounding. -/

/-- Round m × 2^e to a multiple of 2^q under the given rounding; the answer is the multiple. -/
def roundAt (r : Rnd) (q : Int) (m : Nat) (e : Int) : Nat :=
  if q ≤ e then alignTo q m e
  else
    let d := (q - e).toNat
    let quot := m / 2 ^ d
    let rem := m % 2 ^ d
    match r with
    | .rne =>
      if 2 ^ d < 2 * rem then quot + 1
      else if 2 ^ d = 2 * rem then quot + quot % 2
      else quot
    | .sr k w =>
      let f := rem * 2 ^ k / 2 ^ d
      let rnd := w.toNat / 2 ^ (32 - k)
      if rnd < f then quot + 1 else quot

/-- The lowest exponent that a value of magnitude m × 2^e keeps in the format. -/
def FloatFmt.lsbOf (f : FloatFmt) (m : Nat) (e : Int) : Int :=
  max (floorLog2 m e - f.manBits) f.minLsb

/-- The magnitude code of n × 2^q, where n has at most manBits + 1 significant bits and q is at or above the smallest subnormal. -/
def FloatFmt.magCode (f : FloatFmt) (n : Nat) (q : Int) : Nat :=
  if n = 0 then 0
  else
    let E := floorLog2 n q + f.bias
    if E ≤ 0 then alignTo f.minLsb n q
    else E.toNat * 2 ^ f.manBits + (n * 2 ^ f.manBits / 2 ^ n.log2 - 2 ^ f.manBits)

/-- Whether a magnitude overflows the format (R65): at least the largest finite value plus half an ulp under nearest even; above it under
stochastic rounding. -/
def FloatFmt.overflows (f : FloatFmt) (r : Rnd) (m : Nat) (e : Int) : Bool :=
  match r with
  | .rne => magLe (2 * f.maxSig + 1) (f.maxLsb - 1) m e
  | .sr _ _ => magLt f.maxSig f.maxLsb m e

/-- What one conversion wrote and counted (R65, R66, R67). -/
structure Conv where
  code      : Nat
  sat       : Bool := false   -- saturate_count and SATURATE
  satNan    : Bool := false   -- an overflow written as NaN: nan_out_count and SATURATE
  nanOut    : Bool := false   -- a NaN input written: nan_out_count
  underflow : Bool := false   -- a nonzero value rounded to zero
  overflow  : Bool := false   -- OVERFLOW: written as infinity
  infIn     : Bool := false
  deriving DecidableEq, Repr

/-- Convert to a floating-point element format without block scale (R65, R66). -/
def FloatFmt.convert (f : FloatFmt) (nanMode : Bool) (r : Rnd) (v : Val) : Conv :=
  match v with
  | .nan => { code := f.nanCode, nanOut := true }
  | .inf s =>
    let sg := if s then f.signBit else 0
    match f.special with
    | .ieee => { code := sg + f.infCode, infIn := true }
    | _ =>
      if nanMode then { code := f.nanCode, satNan := true, infIn := true }
      else { code := sg + f.maxCode, sat := true, infIn := true }
  | .fin s m e =>
    let sg := if s then f.signBit else 0
    if m = 0 then { code := sg }
    else if f.overflows r m e then
      if f.special = .ieee ∧ 7 ≤ f.manBits then { code := sg + f.infCode, overflow := true }
      else if nanMode then { code := f.nanCode, satNan := true }
      else { code := sg + f.maxCode, sat := true }
    else
      let q := f.lsbOf m e
      let n := roundAt r q m e
      { code := sg + f.magCode n q, underflow := n == 0 }

/-- INT8 (R49, R65): 127 or −127 on overflow, a NaN writes 0x00. -/
def int8Convert (r : Rnd) (v : Val) : Conv :=
  match v with
  | .nan => { code := 0, nanOut := true }
  | .inf s => { code := if s then 0x81 else 0x7F, sat := true, infIn := true }
  | .fin s m e =>
    if m = 0 then { code := 0 }
    else if (match r with | .rne => magLe 255 (-1) m e | .sr _ _ => magLt 127 0 m e) then
      { code := if s then 0x81 else 0x7F, sat := true }
    else
      let n := roundAt r 0 m e
      { code := if s then (256 - n) % 256 else n, underflow := n == 0 }

/-- The finite value of a rounded A48 or FP32 result, with the OVERFLOW flag; a nonzero value that rounds to zero keeps its sign. -/
def FloatFmt.round (f : FloatFmt) (r : Rnd) (v : Val) : Val × Bool × Bool :=
  match v with
  | .fin s m e =>
    if m = 0 then (.fin s 0 0, false, false)
    else if f.overflows r m e then (.inf s, true, false)
    else
      let q := f.lsbOf m e
      let n := roundAt r q m e
      (.fin s n q, false, n == 0)
  | w => (w, false, false)

/-- rne_a48 (R63, R75): the rounded value and OVERFLOW. -/
def rneA48 (v : Val) : Val × Bool := ((fA48.round .rne v).1, (fA48.round .rne v).2.1)

/-! Bit patterns. -/

def decFP32 (w : W32) : Val := fFP32.decode w.toNat
/-- The FP32 pattern of a value that FP32 holds; a NaN is canonical (R93). -/
def encFP32 (v : Val) : W32 := BitVec.ofNat 32 (fFP32.convert false .rne v).code
/-- The A48 value in bits 47:0 of a container; bits 63:48 are ignored (R64). -/
def decA48 (c : Nat) : Val := fA48.decode (c % 2 ^ 48)
def encA48 (v : Val) : BitVec 48 := BitVec.ofNat 48 (fA48.convert false .rne v).code

/-- An FP32 field's value requirement (R472): +0 and −0 are both zero; a NaN lies outside every requirement. -/
def fp32NotNegative (w : W32) : Bool :=
  match decFP32 w with
  | .nan => false
  | .inf s => !s
  | .fin s m _ => !s || m == 0
def fp32Finite (w : W32) : Bool :=
  match decFP32 w with
  | .fin _ _ _ => true
  | _ => false
/-- From 0 up to but not including 1 (R217). -/
def fp32UnitRange (w : W32) : Bool :=
  fp32NotNegative w && fp32Finite w && vLt (decFP32 w) (.fin false 1 0)

/-! Plain and MX elements. -/

/-- The element format of a tensor format; INT8 and MXINT8 are two's complement. -/
def Fmt.float? : Fmt → Option FloatFmt
  | .fp32 => some fFP32 | .fp16 => some fFP16 | .bf16 => some fBF16
  | .e4m3 | .mxE4M3 => some fE4M3 | .e5m2 | .mxE5M2 => some fE5M2
  | .mxE3M2 => some fE3M2 | .mxE2M3 => some fE2M3 | .mxE2M1 => some fE2M1
  | .a48 => some fA48
  | .int8 | .mxInt8 => none

/-- The value of an element code, without per-tensor or block scale (R49, R50). -/
def Fmt.decodeElem (f : Fmt) (code : Nat) : Val :=
  match f with
  | .int8 => .fin (bit code 7) (signedOf 8 code).natAbs 0
  | .mxInt8 => .fin (bit code 7) (signedOf 8 code).natAbs (-6)
  | .a48 => decA48 code
  | g => match g.float? with
    | some ff => ff.decode code
    | none => .nan

/-- The element value × 2^t (R51). INT8 zero has no sign. -/
def Fmt.decodePlain (f : Fmt) (t : Int) (code : Nat) : Val := vScale t (f.decodeElem code)

/-- Convert a value to a plain format with scale exponent t (R51, R65, R66); an A48 output is written without rounding (R73). -/
def Fmt.convertPlain (f : Fmt) (t : Int) (nanMode : Bool) (r : Rnd) (v : Val) : Conv :=
  let w := vScale (-t) v
  match f with
  | .int8 => int8Convert r w
  | .fp32 => fFP32.convert false r w
  | .fp16 => fFP16.convert false r w
  | .bf16 => fBF16.convert false r w
  | .a48 => fA48.convert false .rne w
  | .e4m3 => fE4M3.convert nanMode r w
  | _ => fE5M2.convert nanMode r w

/-- The exponent of the largest finite value (R49), as the MX encoder uses it. -/
def Fmt.emax : Fmt → Int
  | .mxE4M3 => 8 | .mxE5M2 => 15 | .mxE3M2 => 4 | .mxE2M3 | .mxE2M1 => 2 | _ => 0

/-- The largest finite element as a significand and exponent. -/
def Fmt.maxFinite : Fmt → Nat × Int
  | .int8 => (127, 0)
  | .mxInt8 => (127, -6)
  | f => match f.float? with
    | some ff => (ff.maxSig, ff.maxLsb)
    | none => (0, 0)

/-- The value of element i under an E8M0 scale byte (R52). -/
def mxValue (f : Fmt) (scale code : Nat) : Val :=
  if scale = 255 then .nan else vScale ((scale : Int) - 127) (f.decodeElem code)

/-- What encoding one block wrote and counted (R54 to R58). -/
structure MxBlock where
  scale   : Nat
  codes   : List Nat
  sat     : List Nat := []      -- element numbers saturated
  satNan  : List Nat := []      -- element numbers that overflowed to NaN
  nanOut  : Nat := 0            -- nan_out_count
  flushed : List Nat := []
  clamped : Bool := false
  infIn   : List Nat := []
  deriving DecidableEq, Repr

def Fmt.isMxFp8 (f : Fmt) : Bool := f == .mxE4M3 || f == .mxE5M2

/-- The zero code with the sign of the value; MXINT8 has one zero (R56). -/
def Fmt.zeroCode (f : Fmt) (v : Val) : Nat :=
  match f.float? with
  | some ff => if v.neg then ff.signBit else 0
  | none => 0

/-- The code of a NaN or infinite element of an MXFP8 block (R55). -/
def Fmt.nonfiniteCode (f : Fmt) (v : Val) : Nat :=
  match f, v with
  | .mxE5M2, .inf s => (if s then fE5M2.signBit else 0) + fE5M2.infCode
  | .mxE5M2, _ => fE5M2.nanCode
  | _, _ => fE4M3.nanCode

/-- Round one finite element against the element format's largest finite value; overflow follows the saturation mode (R54, R65). -/
def Fmt.roundElem (f : Fmt) (nanMode : Bool) (r : Rnd) (v : Val) : Conv :=
  match f with
  | .mxInt8 =>
    let c := int8Convert r (vScale 6 v)
    if c.sat && nanMode then { code := 0, satNan := true } else c
  | g => match g.float? with
    | some ff =>
      let c := ff.convert nanMode r v
      if c.overflow then
        (if nanMode then { code := ff.nanCode, satNan := true }
         else { code := (if v.neg then ff.signBit else 0) + ff.maxCode, sat := true })
      else c
    | none => { code := 0 }

def largestMag : List Val → Nat × Int
  | [] => (0, 0)
  | .fin _ m e :: vs =>
    let b := largestMag vs
    if m = 0 then b else if b.1 = 0 ∨ magLt b.1 b.2 m e then (m, e) else b
  | _ :: vs => largestMag vs

def idxWhere {α : Type} (p : α → Bool) (l : List α) : List Nat :=
  (l.zipIdx.filter (fun x => p x.1)).map (·.2)

/-- Encode one MX block (R54 to R58). `present` is the number of elements that exist; a short block's missing elements are zero codes that take no
part in the scale (R86). The rounding of element i is `r i`. -/
def encodeMxBlock (f : Fmt) (nanMode : Bool) (r : Nat → Rnd) (v : List Val) : MxBlock :=
  let infs := idxWhere Val.isInf v
  let nanBlock : MxBlock := { scale := 255, codes := List.replicate 32 0, nanOut := 32, infIn := infs }
  let hasNan := v.any Val.isNan
  let hasInf := v.any Val.isInf
  if (hasNan || hasInf) && !f.isMxFp8 then nanBlock
  else
    let am := largestMag v
    let nonfin := fun (w : Val) => w.isNan || w.isInf
    let nans := (idxWhere (fun w => w.isNan || (w.isInf && f == .mxE4M3)) v).length
    let pad := List.replicate (32 - v.length) 0
    if am.1 = 0 then
      { scale := 0, codes := v.map (fun w => if nonfin w then f.nonfiniteCode w else f.zeroCode w) ++ pad, nanOut := nans, infIn := infs }
    else
      let x0 := floorLog2 am.1 am.2 - f.emax
      let x1 := if magLt f.maxFinite.1 (f.maxFinite.2 + x0) am.1 am.2 then x0 + 1 else x0
      let clamped := decide (127 < x1)
      let x := max (-127) (min 127 x1)
      let outs := v.zipIdx.map (fun p =>
        if nonfin p.1 then ({ code := f.nonfiniteCode p.1 } : Conv) else f.roundElem nanMode (r p.2) (vScale (-x) p.1))
      let satNans := idxWhere (·.satNan) outs
      if !satNans.isEmpty && !f.isMxFp8 then
        { nanBlock with satNan := satNans, clamped := clamped }
      else
        { scale := (x + 127).toNat, codes := outs.map (·.code) ++ pad, sat := idxWhere (·.sat) outs, satNan := satNans,
          nanOut := nans + satNans.length, flushed := idxWhere (·.underflow) outs, clamped := clamped, infIn := infs }

/-- Pack 32 element codes into a block element record (R53): element i in bits (i+1)·w − 1 : i·w of the little-endian record. -/
def packRecord (f : Fmt) (codes : List Nat) : Bytes :=
  leBytes f.recordBytes (codes.foldr (fun c acc => c + acc * 2 ^ f.elemBits) 0)

/-- Element code i of a record. -/
def recordCode (f : Fmt) (rec : Bytes) (i : Nat) : Nat := bits (leNat rec) ((i + 1) * f.elemBits - 1) (i * f.elemBits)

/-! FP32 operands in BF16 parts (R62) and the D-form (R59). -/

/-- hi and lo of an operand (R62). `isFp32` is false for every other format: then lo = +0. -/
def splitHiLo (isFp32 : Bool) (v : Val) : Val × Val :=
  if !isFp32 then (v, .fin false 0 0)
  else match v with
    | .fin s m _ =>
      if m = 0 then (v, .fin false 0 0)
      else
        let h := (fBF16.round .rne v).1
        let hi := if h.isInf then Val.fin s fBF16.maxSig fBF16.maxLsb else h
        let d := (vSub v hi).1
        (hi, if d.isZero then .fin false 0 0 else (fBF16.round .rne d).1)
    | w => (w, .fin false 0 0)

/-- The 22-bit D-form word of a value (R59, R60): sign, exponent with bias 511, explicit leading bit. -/
def dForm : Val → BitVec 22
  | .nan => BitVec.ofNat 22 (0x3FF * 2 ^ 11 + 0x600)
  | .inf s => BitVec.ofNat 22 (bitNat s * 2 ^ 21 + 0x3FF * 2 ^ 11 + 0x400)
  | .fin s m e =>
    if m = 0 then BitVec.ofNat 22 (bitNat s * 2 ^ 21)
    else BitVec.ofNat 22 (bitNat s * 2 ^ 21 + (floorLog2 m e + 511).toNat * 2 ^ 11 + m * 2 ^ 10 / 2 ^ m.log2)

/-- Flush a subnormal FP32-like result to a signed zero (QM12 emulation, R169); the flag is UNDERFLOW. -/
def FloatFmt.flushSub (f : FloatFmt) (v : Val) : Val × Bool :=
  match v with
  | .fin s m e => if m ≠ 0 ∧ floorLog2 m e < 1 - (f.bias : Int) then (.fin s 0 0, true) else (v, false)
  | w => (w, false)

end Sys2Proof.Machine
end

