-- ==== Sys2Proof/Machine/Lane.lean ====
section
/-!
DEFINITION. Lane arithmetic, reductions and the correctly rounded functions (05_vector_engine R93, R97 to R102), and the exact root and quotient
that the optimizer engine uses (09 R218).
-/

namespace Sys2Proof.Machine

/-! Status bit numbers (04 R87). -/
def kInvalid : Nat := 0
def kOverflow : Nat := 1
def kSaturate : Nat := 2
def kUnderflow : Nat := 3
def kFlush : Nat := 4
def kNanIn : Nat := 5
def kInfIn : Nat := 6

/-- A lane result: the value and the status bits it set. -/
abbrev LaneOut := Val × List Nat

def kindIf (b : Bool) (k : Nat) : List Nat := if b then [k] else []

/-- Round an exact result once to FP32 (R93). `emu` flushes subnormal results (R169). -/
def toFP32 (emu : Bool) (v : Val) (invalid : Bool := false) : LaneOut :=
  let r := fFP32.round .rne v
  let f := if emu then fFP32.flushSub r.1 else (r.1, false)
  (f.1, kindIf invalid kInvalid ++ kindIf r.2.1 kOverflow ++ kindIf (r.2.2 || f.2) kUnderflow)

/-- Round an exact result once to A48; a nonzero value that rounds to zero sets no status (R63). -/
def toA48 (v : Val) (invalid : Bool := false) : LaneOut :=
  let r := rneA48 v
  (r.1, kindIf invalid kInvalid ++ kindIf r.2 kOverflow)

def lAdd (emu : Bool) (a b : Val) : LaneOut := let r := vAdd a b; toFP32 emu r.1 r.2
def lSub (emu : Bool) (a b : Val) : LaneOut := let r := vSub a b; toFP32 emu r.1 r.2
def lMul (emu : Bool) (a b : Val) : LaneOut := let r := vMul a b; toFP32 emu r.1 r.2

/-- a × b + c with one rounding (R93). -/
def vFma (a b c : Val) : Val × Bool :=
  let p := vMul a b
  if p.2 then (.nan, true) else vAdd p.1 c

def lFma (emu : Bool) (a b c : Val) : LaneOut := let r := vFma a b c; toFP32 emu r.1 r.2

/-- Absolute value and negate; a NaN result is the canonical NaN (R93). -/
def lAbs (a : Val) : LaneOut := (vAbs a, [])
def lNeg (a : Val) : LaneOut := (vNeg a, [])

/-! Exact quotients and roots, kept with one sticky bit below more bits than any format holds. -/

/-- m1 × 2^e1 / (m2 × 2^e2) for m2 > 0 to 80 bits with a sticky bit. -/
def quotSticky (s : Bool) (m1 : Nat) (e1 : Int) (m2 : Nat) (e2 : Int) : Val :=
  let k := 80 + m2.log2
  let n := m1 * 2 ^ k
  .fin s (2 * (n / m2) + (if n % m2 = 0 then 0 else 1)) (e1 - e2 - k - 1)

/-- One step of the bitwise integer square root: try bit i. -/
def isqrtGo (n : Nat) : Nat → Nat → Nat
  | 0, acc => acc
  | i + 1, acc =>
    let t := acc + 2 ^ i
    if t * t ≤ n then isqrtGo n i t else isqrtGo n i acc

def isqrt (n : Nat) : Nat := isqrtGo n (n.log2 / 2 + 1) 0

/-- sqrt(m × 2^e) to at least 80 bits with a sticky bit. -/
def sqrtSticky (m : Nat) (e : Int) : Val :=
  let e2 := if e % 2 = 0 then e else e - 1
  let m2 := if e % 2 = 0 then m else 2 * m
  let n := m2 * 2 ^ 160
  let r := isqrt n
  .fin false (2 * r + (if r * r = n then 0 else 1)) (e2 / 2 - 80 - 1)

/-- 1 / sqrt(m × 2^e) with a sticky bit. -/
def rsqrtSticky (m : Nat) (e : Int) : Val :=
  let e2 := if e % 2 = 0 then e else e - 1
  let m2 := if e % 2 = 0 then m else 2 * m
  let n := 2 ^ (2 * (100 + m2.log2))
  let r := isqrt (n / m2)
  .fin false (2 * r + (if r * r * m2 = n then 0 else 1)) (-(e2 / 2) - (100 + m2.log2 : Nat) - 1)

/-- The exact quotient (R218): 0/0 and ∞/∞ are NaN and INVALID; x/±0 is a signed infinity without status. -/
def vDiv (a b : Val) : Val × Bool :=
  match a, b with
  | .nan, _ => (.nan, false)
  | _, .nan => (.nan, false)
  | .inf _, .inf _ => (.nan, true)
  | .inf s, .fin t _ _ => (.inf (s ^^ t), false)
  | .fin s _ _, .inf t => (.fin (s ^^ t) 0 0, false)
  | .fin s m e, .fin t n f =>
    if m = 0 ∧ n = 0 then (.nan, true)
    else if n = 0 then (.inf (s ^^ t), false)
    else if m = 0 then (.fin (s ^^ t) 0 0, false)
    else (quotSticky (s ^^ t) m e n f, false)

/-- The square root (R218): below zero, or −∞, is NaN and INVALID; sqrt(−0) is −0. -/
def vSqrt (a : Val) : Val × Bool :=
  match a with
  | .nan => (.nan, false)
  | .inf s => if s then (.nan, true) else (.inf false, false)
  | .fin s m e => if m = 0 then (.fin s 0 0, false) else if s then (.nan, true) else (sqrtSticky m e, false)

/-- 1 / sqrt(a) (R100). -/
def vRsqrt (a : Val) : Val × Bool :=
  match a with
  | .nan => (.nan, false)
  | .inf s => if s then (.nan, true) else (.fin false 0 0, false)
  | .fin s m e => if m = 0 then (.inf s, false) else if s then (.nan, true) else (rsqrtSticky m e, false)

/-! exp and log in fixed point with F fractional bits. The result of either is irrational wherever it is not exact, so a sticky bit decides every
rounding (DEDUCED, log entry 6). -/

def fxBits : Nat := 256
def fxOne : Nat := 2 ^ fxBits

/-- Σ 1 / (n 2^n) = ln 2. -/
def ln2Sum : Nat → Nat
  | 0 => 0
  | n + 1 => ln2Sum n + fxOne / ((n + 1) * 2 ^ (n + 1))
def fxLn2 : Nat := ln2Sum 260

/-- Horner's form of Σ r^i / i! for i from n down to 0. -/
def expHorner (r : Int) : Nat → Int → Int
  | 0, acc => acc
  | n + 1, acc => expHorner r n (fxOne + acc * r / ((fxOne : Int) * (n + 1)))

/-- exp(z) for a fixed-point z: 2^k × a fixed-point value. -/
def fxExp (z : Int) : Val :=
  let k := z / (fxLn2 : Int)
  let r := z - k * (fxLn2 : Int)
  let y := expHorner r 70 fxOne
  .fin false (2 * y.toNat + 1) (k - fxBits - 1)

def toFx (s : Bool) (m : Nat) (e : Int) : Int :=
  let v : Int := if 0 ≤ e + fxBits then (m * 2 ^ (e + fxBits).toNat : Nat) else (m / 2 ^ (-(e + fxBits)).toNat : Nat)
  if s then -v else v

/-- exp of an exact argument (R100). -/
def vExp (a : Val) : Val :=
  match a with
  | .nan => .nan
  | .inf s => if s then .fin false 0 0 else .inf false
  | .fin s m e =>
    if m = 0 then .fin false 1 0
    else if floorLog2 m e < -60 then .fin false 1 0
    else if 12 < floorLog2 m e then .fin false 1 (if s then -2000 else 2000)
    else fxExp (toFx s m e)

/-- exp2 of an exact argument; exp2 of an integer is exact (R100). -/
def vExp2 (a : Val) : Val :=
  match a with
  | .nan => .nan
  | .inf s => if s then .fin false 0 0 else .inf false
  | .fin s m e =>
    if m = 0 then .fin false 1 0
    else if floorLog2 m e < -60 then .fin false 1 0
    else if 12 < floorLog2 m e then .fin false 1 (if s then -2000 else 2000)
    else
      let z := toFx s m e
      let k := z / (fxOne : Int)
      let f := z - k * fxOne
      if f = 0 then .fin false 1 k
      else vScale k (fxExp (f * fxLn2 / fxOne))

/-- Horner's form of Σ t^(2i) / (2i + 1). -/
def atanhHorner (t2 : Int) : Nat → Int → Int
  | 0, acc => acc
  | n + 1, acc => atanhHorner t2 n ((fxOne : Int) / (2 * n + 1) + acc * t2 / fxOne)

/-- ln(y) in fixed point for y = m / 2^(log2 m) in [1, 2). -/
def fxLn (m : Nat) : Int :=
  let d := 2 ^ m.log2
  let t : Int := ((m - d) * fxOne / (m + d) : Nat)
  2 * (t * atanhHorner (t * t / fxOne) 100 0 / fxOne)

def fxVal (z : Int) : Val := .fin (decide (z < 0)) (2 * z.natAbs + 1) (-(fxBits : Int) - 1)

/-- Natural logarithm (R100); the flag is INVALID. -/
def vLn (a : Val) : Val × Bool :=
  match a with
  | .nan => (.nan, false)
  | .inf s => if s then (.nan, true) else (.inf false, false)
  | .fin s m e =>
    if m = 0 then (.inf true, false)
    else if s then (.nan, true)
    else if m = 2 ^ m.log2 ∧ floorLog2 m e = 0 then (.fin false 0 0, false)
    else (fxVal (fxLn m + floorLog2 m e * fxLn2), false)

/-- Base-2 logarithm (R100). -/
def vLog2 (a : Val) : Val × Bool :=
  match a with
  | .nan => (.nan, false)
  | .inf s => if s then (.nan, true) else (.inf false, false)
  | .fin s m e =>
    if m = 0 then (.inf true, false)
    else if s then (.nan, true)
    else if m = 2 ^ m.log2 then
      (.fin (decide (floorLog2 m e < 0)) (floorLog2 m e).natAbs 0, false)
    else (fxVal (fxLn m * fxOne / fxLn2 + floorLog2 m e * fxOne), false)

def lRcp (emu : Bool) (a : Val) : LaneOut := toFP32 emu (vDiv (.fin false 1 0) a).1
def lRsq (emu : Bool) (a : Val) : LaneOut := let r := vRsqrt a; toFP32 emu r.1 r.2
def lExp2 (emu : Bool) (a : Val) : LaneOut := toFP32 emu (vExp2 a)
def lExp (emu : Bool) (a : Val) : LaneOut := toFP32 emu (vExp a)
def lLog2 (emu : Bool) (a : Val) : LaneOut := let r := vLog2 a; toFP32 emu r.1 r.2
def lLog (emu : Bool) (a : Val) : LaneOut := let r := vLn a; toFP32 emu r.1 r.2
/-- Scaled exp: exp(a × b) with the product exact; zero times infinity is INVALID (R93, R100). -/
def lSexp (emu : Bool) (a b : Val) : LaneOut :=
  let p := vMul a b
  if p.2 then (.nan, [kInvalid]) else toFP32 emu (vExp p.1)

/-! Fixed trees (R101, 11 R274). -/

/-- Combine two children; an absent child passes the other on. -/
def node {α : Type} (f : α → α → α) : Option α → Option α → Option α
  | some a, some b => some (f a b)
  | some a, none => some a
  | none, b => b

/-- One level: nodes 2j and 2j + 1, the lower-numbered on the left. -/
def treeLevel {α : Type} (f : α → α → α) : List (Option α) → List (Option α)
  | [] => []
  | [a] => [a]
  | a :: b :: rest => node f a b :: treeLevel f rest

def treeLevels {α : Type} (f : α → α → α) : Nat → List (Option α) → List (Option α)
  | 0, l => l
  | n + 1, l => treeLevels f n (treeLevel f l)

/-- The tree over a list of leaves, some absent; `none` when every leaf is absent. -/
def treeOf {α : Type} (f : α → α → α) (l : List (Option α)) : Option α :=
  ((treeLevels f (l.length.log2 + 1) l).head?).join

/-- The reduction kinds (R101): codes 0 to 3 of VRED. -/
inductive RedKind where
  | sum | productSum | max | min
  deriving DecidableEq, Repr

def RedKind.ofCode : Nat → RedKind
  | 0 => .sum | 1 => .productSum | 2 => .max | _ => .min

/-- One combination of a reduction (R102): rounded once in the mode's format. -/
def redStep (emu a48 : Bool) (k : RedKind) (a b : LaneOut) : LaneOut :=
  match k with
  | .max => (vMax a.1 b.1, a.2 ++ b.2)
  | .min => (vMin a.1 b.1, a.2 ++ b.2)
  | _ =>
    let r := vAdd a.1 b.1
    let o := if a48 then toA48 r.1 r.2 else toFP32 emu r.1 r.2
    (o.1, a.2 ++ b.2 ++ o.2)

/-- Append one element (x, y) to a lane's running value (R101 step 1). -/
def redElem (emu a48 : Bool) (k : RedKind) (run : Option LaneOut) (x y : Val) : LaneOut :=
  match k, run with
  | .productSum, none => let r := vMul x y; if a48 then toA48 r.1 r.2 else toFP32 emu r.1 r.2
  | .productSum, some a =>
    let r := vFma x y a.1
    let o := if a48 then toA48 r.1 r.2 else toFP32 emu r.1 r.2
    (o.1, a.2 ++ o.2)
  | _, none => (x, [])
  | k, some a => redStep emu a48 k a (x, [])

/-- Fold element i into lane i mod 128. -/
def redLanes (emu a48 : Bool) (k : RedKind) : Nat → List (Val × Val) → List (Option LaneOut) → List (Option LaneOut)
  | _, [], lanes => lanes
  | i, (x, y) :: rest, lanes =>
    redLanes emu a48 k (i + 1) rest (lanes.set (i % 128) (some (redElem emu a48 k ((lanes.getD (i % 128) none)) x y)))

/-- The whole reduction (R101, R102): lanes, then the seven-level tree; the A48 result is rounded once to FP32. -/
def reduce (emu a48 : Bool) (k : RedKind) (xs : List (Val × Val)) : LaneOut :=
  let lanes := redLanes emu a48 k 0 xs (List.replicate 128 none)
  match treeOf (redStep emu a48 k) lanes with
  | none => (.fin false 0 0, [])
  | some r => if a48 then (let o := toFP32 emu r.1; (o.1, r.2 ++ o.2)) else r

end Sys2Proof.Machine
end

