-- ==== Sys2Proof/Machine/Matrix.lean ====
section
/-!
DEFINITION. The reference order of the matrix engine (04_matrix_engine R75 to R81, R169): groups of 32 along k, each group sum exact, one rounding
into A48 for each addition to the accumulator.
-/

namespace Sys2Proof.Machine

/-- One numeric event with the coordinates of its first-event key (R89). `kgroup` is 0xFFFF_FFFF outside a group sum. -/
structure Ev where
  kind   : Nat
  row    : Nat
  col    : Nat
  kgroup : Nat
  pass   : Nat
  deriving DecidableEq, Repr

def noGroup : Nat := 0xFFFFFFFF

/-- The part products of one group and pass (R80, R81): pairs of factors; a pair whose lo factor is zero is not formed. -/
def partProducts (pass : Nat) (prods : List ((Val × Val) × (Val × Val))) : List (Val × Val) :=
  if pass = 1 then prods.map (fun p => (p.1.1, p.2.1))
  else if pass = 2 then (prods.filter (fun p => !p.2.2.isZero)).map (fun p => (p.1.1, p.2.2))
  else (prods.filter (fun p => !p.1.2.isZero)).map (fun p => (p.1.2, p.2.1))

/-- The exact sum of the part products of a group, and whether the group held an invalid operation (R76, R77). -/
def groupSum (parts : List (Val × Val)) : Val × Bool :=
  let prods := parts.map (fun p => vMul p.1 p.2)
  let zeroInf := prods.any (·.2)
  let pos := prods.any (fun p => decide (p.1 = .inf false))
  let neg := prods.any (fun p => decide (p.1 = .inf true))
  let invalid := zeroInf || (pos && neg)
  if invalid || prods.any (fun p => p.1.isNan) then (.nan, invalid)
  else if pos then (.inf false, false)
  else if neg then (.inf true, false)
  else
    match prods with
    | [] => (.fin false 0 0, false)
    | p :: rest => (rest.foldl (fun a q => (vAdd a q.1).1) p.1, false)

/-- Add a group sum to the accumulator, rounding once (R75, R77); `none` is a clear: acc takes the rounded first sum. Emulation keeps FP32 (R169).
The flags are INVALID and OVERFLOW. -/
def accAdd (emu : Bool) (acc : Option Val) (s : Val) : Val × Bool × Bool :=
  let rnd := fun v => if emu then ((fFP32.round .rne v).1, (fFP32.round .rne v).2.1) else rneA48 v
  match acc with
  | none => ((rnd s).1, false, (rnd s).2)
  | some a =>
    let t := vAdd a s
    ((rnd t.1).1, t.2, (rnd t.1).2)

/-- One element's accumulator with the events so far. -/
abbrev AccState := Option Val × List Ev

def accPass (emu : Bool) (row col g pass : Nat) (prods : List ((Val × Val) × (Val × Val))) (st : AccState) : AccState :=
  let parts := partProducts pass prods
  if parts.isEmpty then st
  else
    let s := groupSum parts
    let r := accAdd emu st.1 s.1
    let ev := fun (b : Bool) (k : Nat) => if b then [(⟨k, row, col, g, pass⟩ : Ev)] else []
    (some r.1, st.2 ++ ev (s.2 || r.2.1) kInvalid ++ ev r.2.2 kOverflow)

def accPasses (emu : Bool) (row col g passes : Nat) (prods : List ((Val × Val) × (Val × Val))) (st : AccState) : AccState :=
  (List.range passes).foldl (fun a p => accPass emu row col g (p + 1) prods a) st

/-- The groups of one element in ascending order. `fuel` bounds the number of groups. -/
def accGroups (emu : Bool) (row col passes : Nat) : Nat → Nat → List ((Val × Val) × (Val × Val)) → AccState → AccState
  | 0, _, _, st => st
  | n + 1, g, prods, st =>
    if prods.isEmpty then st
    else
      let w := if emu then 16 else 32
      accGroups emu row col passes n (g + 1) (prods.drop w) (accPasses emu row col g passes (prods.take w) st)

/-- The value of one element of the product (R75), its first group numbered g0, with its events. `a` and `b` are the K decoded operands, each with
its hi and lo parts. -/
def elementValue (emu : Bool) (row col g0 passes : Nat) (init : Option Val) (a b : List (Val × Val)) : AccState :=
  accGroups emu row col passes (a.length + 1) g0 (a.zip b) (init, [])

/-- The value of a finished accumulator; an element no product reached keeps +0. -/
def AccState.value (s : AccState) : Val := s.1.getD (.fin false 0 0)

end Sys2Proof.Machine
end

