-- ==== Sys2Proof/Config.lean ====
section
/-!
DEFINITION. What the spec leaves open. Each constant has no body, so no proof can see a value of it: a statement that holds, holds whatever it is. A
meaning applies it to the operands that the value depends on, or to the plain counter `State.fresh`, which it then advances (log entry 2).
-/

namespace Sys2Proof.Config

/-- A free 64-bit value, by number. -/
opaque freeWord : Nat → Word
/-- A free byte of contents that the spec leaves unspecified, by number and place. -/
opaque freeByte : Nat → Nat → Byte
/-- A free lane value, by number and place: the columns of a tap beyond the 64 of a half (log entry 20). -/
opaque freeLane : Nat → Nat → W32

/-- The draw input of a micro-program's RAND, which the spec does not state (log entry 29). -/
opaque microDraw : W32

/-- The JTAG device code, which the spec does not give (19_electrical_mechanical R468). -/
opaque jtagIdcode : W32
/-- The serial of the module: 12 ASCII bytes, given at manufacture (*Identity page 0*). -/
opaque serial : Bytes
/-- Whether a byte string is a valid signature of a message under a public key (18, 15): the algorithms are public, their keys are not the spec's. -/
opaque signatureOk : Bytes → Bytes → Bytes → Bool
/-- The signature that the module's key makes over a message. -/
opaque sign : Bytes → Bytes
/-- What a sealed key message opens to under the module's key, if anything (15_host_transport_mailboxes). -/
opaque openSealed : Bytes → Option Bytes
/-- Whether a host certificate chains to an anchor that the option block holds for a tenant (15_host_transport_mailboxes R362). -/
opaque chains : Nat → Bytes → Bool
/-- The answer of a port with a MAC address to an ARP, neighbour-solicitation or echo frame, which the Internet protocols give (R357). -/
opaque serviceAnswer : Bytes → Bytes → Bytes
/-- A certificate of the module's chain after its first byte, by its index (18 R453). -/
opaque certificateRest : Nat → Bytes
/-- The first 13 bytes of a die's identity record, in the order C0 to C8, M0 to M7, N0, N1, S0: what manufacture wrote (*Die identity record*). -/
opaque dieRecord : Nat → Bytes
/-- The digest of the ROM of build VH-2.4.0, which Wentos publishes (18 R446). -/
opaque romDigest : Bytes
/-- The digest of the S-die's fuse array (18 R447). -/
opaque fuseDigest : Bytes
/-- The digest of the option blocks, without or with the flash block (18 R447). -/
opaque optionDigest : Bool → Bytes
/-- The digest of a tenant's trust anchor, by tenant and number (*Options view*). -/
opaque anchorDigest : Nat → Nat → Bytes

end Sys2Proof.Config
end

