-- ==== Sys2Proof/Machine/Hash.lean ====
section
/-!
DEFINITION. The fixed functions over bytes: mix64 and the shard fold (09 R224), lane_random (05 R104), SHA-256 (09 R226, FIPS 180-4),
HMAC-SHA-256 (15 R363), the epoch CRC-8 (02 R23) and the Q144 code (08 R176 to R178).
-/

namespace Sys2Proof.Machine

/-- mix64 (R224), modulo 2^64. -/
def mix64 (z0 : Word) : Word :=
  let z1 := (z0 ^^^ (z0 >>> 30)) * 0xBF58476D1CE4E5B9#64
  let z2 := (z1 ^^^ (z1 >>> 27)) * 0x94D049BB133111EB#64
  z2 ^^^ (z2 >>> 31)

def mixNat (n : Nat) : Word := mix64 (BitVec.ofNat 64 n)

/-- One element's term of the shard fold (R224); R is zero-extended from 16 bits. -/
def foldTerm (keyLo keyHi step : Word) (i : Nat) (w m1 m2 : W32) (r : Half) : Word :=
  let k0 := keyLo ^^^ step
  let w0 := BitVec.ofNat 64 (w.toNat + m1.toNat * 2 ^ 32)
  let w1 := BitVec.ofNat 64 (m2.toNat + r.toNat * 2 ^ 32)
  mix64 (mix64 (k0 + BitVec.ofNat 64 i) ^^^ w0) + mix64 (keyHi ^^^ w1 ^^^ BitVec.ofNat 64 i)

/-! lane_random (R104). -/

structure LaneState where
  x0 : W32
  x1 : W32
  x2 : W32
  x3 : W32
  deriving DecidableEq, Repr

def laneRound (key : Nat → W32) (r : Nat) (s : LaneState) : LaneState :=
  let x0 := s.x0 + (s.x1 + key (r % 4))
  let x3 := (s.x3 ^^^ x0).rotateLeft 16
  let x2 := s.x2 + (x3 + 0x9E3779B9#32 * BitVec.ofNat 32 (r + 1))
  let x1 := (s.x1 ^^^ x2).rotateLeft 12
  let x0' := x0 + x1
  let x3' := (x3 ^^^ x0').rotateLeft 8
  let x2' := x2 + x3'
  let x1' := (x1 ^^^ x2').rotateLeft 7
  ⟨x0', x1', x2', x3'⟩

def laneRounds (key : Nat → W32) : Nat → Nat → LaneState → LaneState
  | 0, _, s => s
  | n + 1, r, s => laneRounds key n (r + 1) (laneRound key r s)

/-- lane_random (R104). In QM12 emulation only rounds 0 to 6 run (R169). -/
def laneRandom (emu : Bool) (seed step : Word) (tensorId stream : Nat) (index : Word) (draw : W32) : W32 :=
  let key : Nat → W32 := fun i =>
    if i = 0 then seed.setWidth 32
    else if i = 1 then (seed >>> 32).setWidth 32
    else if i = 2 then BitVec.ofNat 32 (tensorId + stream * 2 ^ 24)
    else draw
  let s := laneRounds key (if emu then 7 else 10) 0
    ⟨index.setWidth 32, (index >>> 32).setWidth 32, step.setWidth 32, (step >>> 32).setWidth 32⟩
  s.x0 ^^^ s.x2

/-! SHA-256. -/

def sha256K : List Nat :=
  [0x428a2f98, 0x71374491, 0xb5c0fbcf, 0xe9b5dba5, 0x3956c25b, 0x59f111f1, 0x923f82a4, 0xab1c5ed5,
   0xd807aa98, 0x12835b01, 0x243185be, 0x550c7dc3, 0x72be5d74, 0x80deb1fe, 0x9bdc06a7, 0xc19bf174] ++
  [0xe49b69c1, 0xefbe4786, 0x0fc19dc6, 0x240ca1cc, 0x2de92c6f, 0x4a7484aa, 0x5cb0a9dc, 0x76f988da,
   0x983e5152, 0xa831c66d, 0xb00327c8, 0xbf597fc7, 0xc6e00bf3, 0xd5a79147, 0x06ca6351, 0x14292967] ++
  [0x27b70a85, 0x2e1b2138, 0x4d2c6dfc, 0x53380d13, 0x650a7354, 0x766a0abb, 0x81c2c92e, 0x92722c85,
   0xa2bfe8a1, 0xa81a664b, 0xc24b8b70, 0xc76c51a3, 0xd192e819, 0xd6990624, 0xf40e3585, 0x106aa070] ++
  [0x19a4c116, 0x1e376c08, 0x2748774c, 0x34b0bcb5, 0x391c0cb3, 0x4ed8aa4a, 0x5b9cca4f, 0x682e6ff3,
   0x748f82ee, 0x78a5636f, 0x84c87814, 0x8cc70208, 0x90befffa, 0xa4506ceb, 0xbef9a3f7, 0xc67178f2]

structure ShaState where
  a : W32
  b : W32
  c : W32
  d : W32
  e : W32
  f : W32
  g : W32
  h : W32
  deriving DecidableEq, Repr

def shaInit : ShaState :=
  ⟨0x6a09e667#32, 0xbb67ae85#32, 0x3c6ef372#32, 0xa54ff53a#32, 0x510e527f#32, 0x9b05688c#32, 0x1f83d9ab#32, 0x5be0cd19#32⟩

def shaRound (s : ShaState) (k w : W32) : ShaState :=
  let s1 := s.e.rotateRight 6 ^^^ s.e.rotateRight 11 ^^^ s.e.rotateRight 25
  let ch := (s.e &&& s.f) ^^^ (~~~s.e &&& s.g)
  let t1 := s.h + s1 + ch + k + w
  let s0 := s.a.rotateRight 2 ^^^ s.a.rotateRight 13 ^^^ s.a.rotateRight 22
  let mj := (s.a &&& s.b) ^^^ (s.a &&& s.c) ^^^ (s.b &&& s.c)
  ⟨t1 + (s0 + mj), s.a, s.b, s.c, s.d + t1, s.e, s.f, s.g⟩

/-- The sliding window of sixteen message words, oldest first: run a round with the oldest and append the next word. -/
def shaRounds : List Nat → List W32 → ShaState → ShaState
  | [], _, s => s
  | k :: ks, ws, s =>
    let w0 := ws.getD 0 0
    let w1 := ws.getD 1 0
    let w9 := ws.getD 9 0
    let w14 := ws.getD 14 0
    let s0 := w1.rotateRight 7 ^^^ w1.rotateRight 18 ^^^ (w1 >>> 3)
    let s1 := w14.rotateRight 17 ^^^ w14.rotateRight 19 ^^^ (w14 >>> 10)
    shaRounds ks (ws.drop 1 ++ [w0 + s0 + w9 + s1]) (shaRound s (BitVec.ofNat 32 k) w0)

/-- Sixteen big-endian words of a 64-byte block. -/
def shaWords : Nat → Bytes → List W32
  | 0, _ => []
  | n + 1, bs => BitVec.ofNat 32 (beNat (bs.take 4)) :: shaWords n (bs.drop 4)

def shaBlock (h : ShaState) (blk : Bytes) : ShaState :=
  let s := shaRounds sha256K (shaWords 16 blk) h
  ⟨h.a + s.a, h.b + s.b, h.c + s.c, h.d + s.d, h.e + s.e, h.f + s.f, h.g + s.g, h.h + s.h⟩

def shaBlocks : Nat → Bytes → ShaState → ShaState
  | 0, _, h => h
  | n + 1, bs, h => shaBlocks n (bs.drop 64) (shaBlock h (bs.take 64))

/-- SHA-256 of a byte string: 32 bytes. -/
def sha256 (m : Bytes) : Bytes :=
  let p := m ++ [0x80#8] ++ zeros ((119 - m.length % 64) % 64) ++ beBytes 8 (8 * m.length)
  let h := shaBlocks (p.length / 64) p shaInit
  ([h.a, h.b, h.c, h.d, h.e, h.f, h.g, h.h].map (fun w => beBytes 4 w.toNat)).flatten

/-- HMAC-SHA-256. -/
def hmac256 (key msg : Bytes) : Bytes :=
  let k0 := fitTo 64 (if 64 < key.length then sha256 key else key)
  sha256 (k0.map (· ^^^ 0x5C#8) ++ sha256 (k0.map (· ^^^ 0x36#8) ++ msg))

/-! CRC-8 of the epoch number (R23): polynomial 0x07, initial 0, not reflected, six bytes least significant first. -/

def crc8Bit (c : Byte) : Byte := if c.getMsbD 0 then (c <<< 1) ^^^ 0x07#8 else c <<< 1
def crc8Byte (c b : Byte) : Byte :=
  crc8Bit (crc8Bit (crc8Bit (crc8Bit (crc8Bit (crc8Bit (crc8Bit (crc8Bit (c ^^^ b))))))))
def crc8Epoch (epoch : Nat) : Byte := (leBytes 6 epoch).foldl crc8Byte 0

/-! The Q144 code over GF(16), x^4 + x + 1 (R176 to R178). -/

abbrev Nib := BitVec 4

def gfDouble (a : Nib) : Nib := if a.getMsbD 0 then (a <<< 1) ^^^ 0x3#4 else a <<< 1

def gfMul (a b : Nib) : Nib :=
  let p0 := if b.getLsbD 0 then a else 0
  let p1 := if b.getLsbD 1 then gfDouble a else 0
  let p2 := if b.getLsbD 2 then gfDouble (gfDouble a) else 0
  let p3 := if b.getLsbD 3 then gfDouble (gfDouble (gfDouble a)) else 0
  p0 ^^^ p1 ^^^ p2 ^^^ p3

/-- The inverse: a^14 (0 gives 0). -/
def gfInv (a : Nib) : Nib :=
  let a2 := gfMul a a
  let a4 := gfMul a2 a2
  let a8 := gfMul a4 a4
  gfMul a8 (gfMul a4 a2)

def q144Delta : Nib := 0x8#4

/-- f(y, z) = y² + y·z + δ·z² (R176). -/
def q144F (y z : Nib) : Nib := gfMul y y ^^^ gfMul y z ^^^ gfMul q144Delta (gfMul z z)

/-- The four rows of a sum over GF(16). -/
structure Syn where
  s0 : Nib
  s1 : Nib
  s2 : Nib
  s3 : Nib
  deriving DecidableEq, Repr

def Syn.add (a b : Syn) : Syn := ⟨a.s0 ^^^ b.s0, a.s1 ^^^ b.s1, a.s2 ^^^ b.s2, a.s3 ^^^ b.s3⟩
def Syn.scale (x : Nib) (a : Syn) : Syn := ⟨gfMul x a.s0, gfMul x a.s1, gfMul x a.s2, gfMul x a.s3⟩
def Syn.zero : Syn := ⟨0, 0, 0, 0⟩

/-- The column of data nibble i (R176). -/
def q144Col (i : Nat) : Syn :=
  let y := BitVec.ofNat 4 (i % 16)
  let z := BitVec.ofNat 4 (2 + i / 16)
  ⟨1, q144F y z, y, z⟩

def nib (v i : Nat) : Nib := BitVec.ofNat 4 (v / 16 ^ i)

/-- The sum of the first n data nibbles of v times their columns. -/
def q144DataSyn (v : Nat) : Nat → Syn
  | 0 => Syn.zero
  | n + 1 => (q144DataSyn v n).add ((q144Col n).scale (nib v n))

/-- The check bits of 128 data bits (R177). -/
def q144Encode (data : Nat) : Half :=
  let s := q144DataSyn data 32
  let p2 := s.s2
  let p3 := s.s3
  let p1 := s.s0 ^^^ s.s2 ^^^ s.s3
  let p0 := s.s1 ^^^ s.s2 ^^^ gfMul q144Delta s.s3
  BitVec.ofNat 16 (p0.toNat + p1.toNat * 16 + p2.toNat * 256 + p3.toNat * 4096)

/-- The syndrome of a received word (R178). -/
def q144Syndrome (data : Nat) (chk : Half) : Syn :=
  let c := chk.toNat
  (((q144DataSyn data 32).add (Syn.scale (nib c 0) ⟨0, 1, 0, 0⟩)).add (Syn.scale (nib c 1) ⟨1, 0, 0, 0⟩)).add
    ((Syn.scale (nib c 2) ⟨1, 1, 1, 0⟩).add (Syn.scale (nib c 3) ⟨1, q144Delta, 0, 1⟩))

/-- What the decoder finds (R178): `corrected pos` names data nibble 0 to 31, or check nibble n as 32 + n. -/
inductive Q144 where
  | noError
  | corrected (pos : Nat) (err : Nib)
  | uncorrectable
  deriving DecidableEq, Repr

/-- decode_q144 (R178). -/
def q144Decide (s : Syn) : Q144 :=
  if s = Syn.zero then .noError
  else if s.s0 ≠ 0 then
    let u := s.scale (gfInv s.s0)
    if u.s3 = 2 ∨ u.s3 = 3 then
      (if u.s1 = q144F u.s2 u.s3 then .corrected (16 * (u.s3.toNat - 2) + u.s2.toNat) s.s0 else .uncorrectable)
    else if u.s2 = 0 ∧ u.s3 = 0 then (if u.s1 = q144F 0 0 then .corrected 33 s.s0 else .uncorrectable)
    else if u.s2 = 1 ∧ u.s3 = 0 then (if u.s1 = q144F 1 0 then .corrected 34 s.s0 else .uncorrectable)
    else if u.s2 = 0 ∧ u.s3 = 1 then (if u.s1 = q144F 0 1 then .corrected 35 s.s0 else .uncorrectable)
    else .uncorrectable
  else if s.s2 = 0 ∧ s.s3 = 0 then .corrected 32 s.s1
  else .uncorrectable

def q144Decode (data : Nat) (chk : Half) : Q144 := q144Decide (q144Syndrome data chk)

/-- The data after correction; none where the word is uncorrectable. -/
def q144Fix (data : Nat) (chk : Half) : Option Nat :=
  match q144Decode data chk with
  | .noError => some data
  | .corrected pos e => some (if pos < 32 then data ^^^ (e.toNat * 16 ^ pos) else data)
  | .uncorrectable => none

end Sys2Proof.Machine
end

