-- ==== Sys2Proof/Machine/StCkpt.lean ====
section
/-!
DEFINITION. The state of checkpoint and restore: 14_checkpoint_restore R339 to R356. Plain data.
-/

namespace Sys2Proof.Machine

/-- The checkpoint policy (*Checkpoint policy*). -/
structure CkptPolicy where
  flags  : Nat
  chunks : Nat
  sink   : Nat
  steps  : Nat
  timer  : Nat
  limits : List Nat
  deriving DecidableEq, Repr

/-- A stream of a checkpoint (R342, R344): its region, kind (0 pair buffer, 1 factor, 2 run state) and M-die, the offset of its section in the region
and its length in bytes, its bytes where it is the run state; the digests of the units sent, by unit; whether it has been sent twice; and what the
sink has returned, with the end of it. -/
structure CkptStream where
  region : Nat
  kind   : Nat
  mdie   : Nat
  sec    : Nat
  len    : Nat
  own    : Bytes
  units  : SMap Bytes
  resent : Bool
  back   : SMap Bytes     -- returned chunks by offset
  deriving DecidableEq, Repr

/-- A chunk that has arrived on a bulk-in channel and has not been taken: bulk kind 2 or 3, stream, offset and data (R347, R353, R371). -/
structure ChunkIn where
  kind   : Nat
  stream : Nat
  off    : Nat
  data   : Bytes
  deriving DecidableEq, Repr

/-- A checkpoint in progress (R345 to R348). `allow` holds the bytes that each M-die may still read in the clause, none for no limit; `pos` is the
stream being read back and `lastBack` when its latest chunk arrived. -/
structure CkptRun where
  version  : Nat
  session  : Nat
  byDigest : Bool
  reading  : Bool
  streams  : List CkptStream
  allow    : SMap (Option Nat)
  sent     : Nat
  verified : Nat
  resent   : Nat
  pos      : Nat
  lastBack : Nat
  part     : SMap Nat     -- bytes of its next unit that an M-die has read in earlier clauses
  deriving DecidableEq, Repr

/-- A restore in progress (R352, R353): what RESTORE named, the manifest, and the bytes received by stream as ranges; the bytes of the run state. -/
structure RestoreRun where
  version  : Nat
  runId    : Nat
  keyLo    : Word
  keyHi    : Word
  session  : Nat
  manifest : Bytes
  got      : SMap (List (Nat × Nat))
  state    : SMap Bytes
  received : Nat
  deriving DecidableEq, Repr

/-- A committed restore that is staged for RUN_ARM (R354). -/
structure StagedRestore where
  version : Nat
  runId   : Nat
  keyLo   : Word
  keyHi   : Word
  stag    : SMap Nat
  deriving DecidableEq, Repr

/-- Checkpoint and restore: the policy in force and staged; the checkpoint in progress; CHECKPOINT_NOW's version for the next period; C of R340; the
scheduled reference count at which the last checkpoint of the run started; deferral; the outcome of the last to end; the last manifest; the kind 5
entry that the next period appends; the restore in progress; and the staged restore. -/
structure Ckpt where
  policy    : CkptPolicy
  stagedPol : Option CkptPolicy
  run       : Option CkptRun
  now       : Option Nat
  last      : Option Nat
  lastStart : Option Nat
  deferred  : Bool
  deferrals : Nat
  status    : Nat
  done      : Option Nat
  manifest  : Bytes
  sha       : Bytes
  mark      : Option (Nat × Bytes)
  restore   : Option RestoreRun
  staged    : Option StagedRestore
  inbox     : List ChunkIn
  nowFor    : Option Nat       -- the tenant whose CHECKPOINT_NOW waits for the period (R341)
  deriving DecidableEq, Repr

def CkptPolicy.off : CkptPolicy := { flags := 0, chunks := 0, sink := 0, steps := 0, timer := 0, limits := [] }

def Ckpt.blank : Ckpt :=
  { policy := CkptPolicy.off, stagedPol := none, run := none, now := none, last := none, lastStart := none, deferred := false, deferrals := 0,
    status := 0, done := none, manifest := [], sha := List.replicate 32 0, mark := none, restore := none, staged := none, inbox := [], nowFor := none }

end Sys2Proof.Machine
end

