-- ==== Sys2Proof/Machine/StCore.lean ====
section
/-!
DEFINITION. The state of the cores and of the sync objects: 06_core_instruction_set (architectural state of one core), 04_matrix_engine R70, R74,
R87 to R89, 05_vector_engine R92, R113 to R117, 10_synchronisation R231 to R248. Plain data.
-/

namespace Sys2Proof.Machine

/-- A program image as PROGRAM_LOAD checked it (R141): the tag, the clause entries (start, instruction limit), the descriptors filling t0 upwards,
the resident words and the overlay area. -/
structure Image where
  tag      : Nat
  entries  : List (Nat × Nat)
  descs    : List Bytes
  resident : List Word
  overlay  : List Word
  deriving DecidableEq, Repr

/-- An image staged for a core: its effective period once a SCHEDULE_LOAD has named one (R142, R383). -/
structure StagedImage where
  core  : Nat
  eff   : Option Nat
  image : Image
  deriving DecidableEq, Repr

/-- One level of the hardware loop stack (R119, R124): count, iteration index, first index of the body, first index after it. -/
structure LoopLevel where
  count : Nat
  index : Nat
  start : Nat
  stop  : Nat
  deriving DecidableEq, Repr

/-- A stacked return (R125): the return index and how many loops were active at the call. -/
structure Return where
  index : Nat
  loops : Nat
  deriving DecidableEq, Repr

/-- What a clause entry runs for: a training step with its lag, or an evaluation (R33, R106, R415). -/
inductive EntryKind where
  | training (lag : Nat)
  | evaluation (evalId : Nat)
  deriving DecidableEq, Repr

/-- A clause entry in progress on a core. `step` is the owning step, or the sealed version an evaluation reads; `tableKey` names its schedule
entry; `place` is its place among the core's entries of its clause (R186). -/
structure EntryRun where
  kind     : EntryKind
  step     : Nat
  window   : Nat
  clause   : Nat
  tableKey : Nat
  object   : Nat
  place    : Nat
  seed     : Word
  limit    : Nat
  issued   : Nat
  ldadds   : Nat
  pc       : Nat
  stopped  : Bool      -- an exception was raised: nothing further issues (R145)
  ended    : Bool      -- its END has issued (R137)
  image    : Image     -- the program image it runs (R141, R415)
  fold     : Word      -- the shadow digest of the core and of its shadow (R337)
  shadow   : Option Word
  deriving DecidableEq, Repr

/-- A WAIT outstanding on a core (R239): the object's key, the target, the sleeping form, the reference count at issue and the timeout in us. -/
structure WaitRun where
  key     : Nat
  target  : Nat
  sleep   : Bool
  issued  : Nat
  timeout : Nat
  deriving DecidableEq, Repr

/-- A matrix instruction in the matrix queue (R74). `convert` holds the output descriptor's bytes with M and N when its mode converts. -/
structure MatRun where
  op      : MatOp
  rows    : Nat
  cols    : Nat
  index   : Nat
  aId     : Nat
  bId     : Nat
  outDesc : Bytes
  deriving DecidableEq, Repr

/-- A load-engine transfer in the load queue (R122, R128): the descriptors it names, the lines it writes (space code, unit, first line, number),
and the object it signals, if any. -/
structure LoadRun where
  dst    : Nat
  src    : Option Nat
  index  : Nat
  space  : Nat
  lines  : List Nat
  signal : Option Nat
  word   : Word
  deriving DecidableEq, Repr

/-- A SIG that has issued and not yet been applied (R236): the object's key, or a remote handle, and the count. -/
structure SigRun where
  key    : Nat
  remote : Bool
  count  : Nat
  index  : Nat
  handle : Nat
  load   : Bool
  dyn    : Bool      -- makes the core a dynamic owner when applied (R242)
  word   : Word
  deriving DecidableEq, Repr

/-- A first-event record (R89): its ordering key and its 32 bytes. -/
structure FirstEvent where
  key : List Nat
  bytes : Bytes
  deriving DecidableEq, Repr

/-- The exception record of a window (R146) with the register snapshot taken with it. -/
structure ExcRecord where
  code   : Nat
  cls    : Nat
  clause : Nat
  index  : Nat
  word   : Word
  step   : Nat
  core   : Nat
  entry  : Nat
  detail : Nat
  ref    : Nat
  window : Nat
  sregs  : SMap Word
  aregs  : SMap Word
  loops  : List LoopLevel
  calls  : List Return
  deriving DecidableEq, Repr

/-- A MARK record (R140). -/
structure MarkRecord where
  code   : Nat
  value  : Word
  clause : Nat
  index  : Nat
  ref    : Nat
  deriving DecidableEq, Repr

/-- A store with one valid bit for each 64-byte line (R115): its bytes and the lines that are valid. -/
structure Store where
  cells : List Host.Cell
  valid : SMap Bool
  deriving DecidableEq, Repr

def Store.blank : Store := { cells := [], valid := [] }

/-- One logical core. Registers are sparse maps over zero; lane register r, lane l is under r * 128 + l; an accumulator value is under
half * 16384 + row * 64 + column. -/
structure Core where
  prog     : Option Image
  overlay  : SMap Word
  entry    : Option EntryRun
  wait     : Option WaitRun
  sregs    : SMap Word
  aregs    : SMap Word
  descs    : SMap Bytes
  vregs    : SMap W32
  masks    : SMap (BitVec 128)
  acc      : SMap (BitVec 48)
  closed   : SMap (BitVec 256)  -- closed rows of each half (R78, R99)
  loops    : List LoopLevel
  calls    : List Return
  matQ     : List MatRun
  loadQ    : List LoadRun
  sigQ     : List SigRun
  status   : W32
  stSets   : Nat
  stColl   : Nat
  first    : Option FirstEvent
  exc      : Option ExcRecord
  banned   : List (Nat × Nat)   -- (window, step) whose later core segments do not run (R145 item 4)
  trace    : List MarkRecord
  cleared  : Nat               -- the latest window whose valid bits were cleared (R115)
  store    : Store
  deriving DecidableEq, Repr

/-- The numeric status word at every reset that reaches the core: CAPTURE_MASK 0x63 (R87). -/
def statusReset : W32 := 0x00630000#32

/-- A core after reset: no program, every register zero, the store lines not valid (R70, R87, R115, R119). -/
def Core.blank : Core :=
  { prog := none, overlay := [], entry := none, wait := none, sregs := [], aregs := [], descs := [], vregs := [], masks := [], acc := [],
    closed := [], loops := [], calls := [], matQ := [], loadQ := [], sigQ := [], status := statusReset, stSets := 0, stColl := 0,
    first := none, exc := none, banned := [], trace := [], cleared := 0, store := Store.blank }

/-- A remote signal held for a later window (R247). -/
structure HeldSignal where
  window : Nat
  count  : Nat
  rank   : Nat
  die    : Nat
  step   : Nat
  deriving DecidableEq, Repr

/-- A sync object (R231, R249). `owners` are the dynamic owners of R242; `lastSrc` is 3 for none since the object returned to zero. -/
structure SyncObj where
  value    : Nat
  poisoned : Bool
  poisoner : Option Nat
  owners   : List Nat
  lastSrc  : Nat
  lastWho  : Nat
  lastDie  : Nat
  lastCnt  : Nat
  lastRef  : Nat
  signals  : Nat
  ignored  : Nat
  window   : Nat
  held     : List HeldSignal
  deriving DecidableEq, Repr

def SyncObj.blank : SyncObj :=
  { value := 0, poisoned := false, poisoner := none, owners := [], lastSrc := 3, lastWho := 0, lastDie := 0, lastCnt := 0, lastRef := 0,
    signals := 0, ignored := 0, window := 0, held := [] }

end Sys2Proof.Machine
end

