-- ==== Sys2Proof/Machine/StEval.lean ====
section
/-!
DEFINITION. The state of evaluations: 16_vuhal_command_reference R415, R416; 12_step_sealing_and_replay R309. Plain data.
-/

namespace Sys2Proof.Machine

/-- An evaluation (*Evaluation request*, *Evaluation result*): `phase` is 0 queued, 1 running, 2 done, 3 failed, 4 stopped; `imageOpen` and `inputOpen`
say that a bulk-in transfer into its region is still open; `seq` is the sequence of its ledger entry once appended. -/
structure Eval where
  id         : Nat
  tenant     : Nat
  seed       : Word
  imageReg   : Nat
  inputReg   : Nat
  resultReg  : Nat
  loadIndex  : Nat
  imageBytes : Nat
  inputBytes : Nat
  resultBytes : Nat
  imageOpen  : Option Nat
  inputOpen  : Option Nat
  power      : Nat
  phase      : Nat
  status     : Nat
  version    : Nat
  window     : Nat
  image      : Option Image
  inDigest   : Bytes
  outDigest  : Bytes
  seq        : Option Nat
  deriving DecidableEq, Repr

end Sys2Proof.Machine
end

