-- ==== Sys2Proof/Machine/StFabric.lean ====
section
/-!
DEFINITION. The state of the slice, the fabric ports, the operations and the collectives: 11_fabric_and_collectives R251 to R281. Plain data.
-/

namespace Sys2Proof.Machine

/-- A route range entry (R265): module_lo, module_hi, port mask, class mask. -/
structure RouteRange where
  lo    : Nat
  hi    : Nat
  ports : Nat
  cls   : Nat
  deriving DecidableEq, Repr

/-- A route table (R265): its slice, epoch, effective reference count, allow set, members by rank and ranges. -/
structure RouteTable where
  slice     : Nat
  epoch     : Nat
  effective : Nat
  allow     : Nat
  members   : List Nat
  ranges    : List RouteRange
  deriving DecidableEq, Repr

/-- The tables of one slice (R265, R269) and the reference count at which the current one took effect. -/
structure SliceTables where
  current  : Option RouteTable
  previous : Option RouteTable
  pending  : Option RouteTable
  since    : Nat
  deriving DecidableEq, Repr

def SliceTables.blank : SliceTables := { current := none, previous := none, pending := none, since := 0 }

/-- A frame of the fabric as this module holds it: the 56 header bytes and the payload data (R254). -/
structure HFrame where
  hdr  : Bytes
  data : Bytes
  deriving DecidableEq, Repr

/-- A retained or waiting frame: its number, virtual channel, cost in credits, operation (N-die, slot, fragment) and bytes. -/
structure OutFrame where
  seq   : Nat
  vc    : Nat
  cost  : Nat
  frame : HFrame
  deriving DecidableEq, Repr

/-- The peer that neighbour frames have shown (R279). -/
structure Peer where
  modId  : Nat
  port   : Nat
  slot   : Nat
  serial : Bytes
  deriving DecidableEq, Repr

/-- A fabric port (R251 to R261). `state` is 0 DOWN, 1 TRAINING, 2 UP, 4 FAILED; `cnt` holds its counters by their offset in
*Fabric port counters*; `owed` the credits freed and not yet returned; `nakAt` the number last NAKed by the peer and how often without progress. -/
structure Port where
  state    : Nat
  delay    : Nat
  peer     : Option Peer
  txSeq    : Nat
  rxSeq    : Nat
  nakSent  : Bool
  retry    : List OutFrame
  queue    : List OutFrame
  spent    : List Nat
  returned : List Nat
  accepted : List Nat
  back     : List Nat
  owed     : List Nat
  nakAt    : Option (Nat × Nat)
  retrain  : Option Nat
  bringUps : List Nat
  cnt      : SMap Nat
  logged   : List Nat      -- events logged once per port per period (R282)
  quar     : Bool          -- QUARANTINED by a CABLING_CHECK (R280)
  progress : Nat           -- reference count of the last acknowledgement progress (R258)
  auditBad : Option Nat    -- reference count of the latest credit audit failure (R261, R292)
  deriving DecidableEq, Repr

def Port.blank : Port :=
  { state := 0, delay := 0, peer := none, txSeq := 0, rxSeq := 0, nakSent := false, retry := [], queue := [], spent := [0, 0, 0, 0],
    returned := [0, 0, 0, 0], accepted := [0, 0, 0, 0], back := [0, 0, 0, 0], owed := [0, 0, 0, 0], nakAt := none, retrain := none,
    bringUps := [], cnt := [], logged := [], quar := false, progress := 0, auditBad := none }

/-- An operation this module has open as source (R262, R263): its frames' common header fields, its fragments, how often each was sent, which are
acknowledged, and the collective it belongs to, if any. -/
structure OpSlot where
  tag      : Nat
  typ      : Nat
  cls      : Nat
  object   : Nat
  window   : Nat
  lag      : Nat
  slice    : Nat
  epoch    : Nat
  dstRank  : Nat
  dstMod   : Nat
  frags    : List Bytes
  sends    : List Nat
  lastSent : Nat
  nak      : Bool
  step     : Option Nat
  coll     : Option Nat
  husk     : Option Nat     -- the own husk slot whose copy it carries (R286)
  deriving DecidableEq, Repr

/-- An N-die's operation slots and counters (R262, *Operation counters*, by offset). -/
structure NDie where
  slots     : SMap OpSlot
  reuse     : SMap Nat
  opened    : Nat
  completed : Nat
  abandoned : Nat
  cnt       : SMap Nat
  deriving DecidableEq, Repr

def NDie.blank : NDie := { slots := [], reuse := [], opened := 0, completed := 0, abandoned := 0, cnt := [] }

/-- An operation arriving here (R263). -/
structure InOp where
  srcMod  : Nat
  tag     : Nat
  typ     : Nat
  cls     : Nat
  object  : Nat
  window  : Nat
  lag     : Nat
  srcRank : Nat
  frags   : SMap Bytes
  offs    : SMap Nat
  last    : Option Nat
  step    : Option Nat
  deriving DecidableEq, Repr

/-- A delivered REMOTE_SIGNAL frame that the receiving die has not yet acted on (R247). -/
structure SignalIn where
  window : Nat
  rank   : Nat
  lag    : Nat
  step   : Option Nat
  data   : Bytes
  deriving DecidableEq, Repr

/-- An axis (R271). -/
structure Axis where
  size    : Nat
  stride  : Nat
  kind    : Nat
  defined : Bool
  deriving DecidableEq, Repr

/-- A collective descriptor (R272). -/
structure CollDesc where
  kind    : Nat
  axis    : Nat
  op      : Nat
  inFmt   : Nat
  outFmt  : Nat
  sr      : Bool
  nanMode : Bool
  srK     : Nat
  dest    : Nat
  root    : Nat
  first   : Nat
  count   : Nat
  unit    : Nat
  elems   : Nat
  base    : Nat
  tid     : Nat
  draw    : Nat
  done    : Nat
  target  : Nat
  deriving DecidableEq, Repr

/-- A contributor record (R272). -/
structure Contrib where
  die     : Nat
  cluster : Nat
  ready   : Nat
  base    : Nat
  deriving DecidableEq, Repr

structure AxisSet where
  axes     : List Axis
  colls    : List CollDesc
  contribs : List Contrib
  deriving DecidableEq, Repr

/-- A collective in progress (R273 to R276), under the key of its schedule entry: the A48 inputs read so far by contributor, the module value, what
has arrived from each position (first the module values, then, for an all-reduce, the owners' parts), and what has been sent. -/
structure CollRun where
  desc   : CollDesc
  step   : Nat
  window : Nat
  lag    : Nat
  reads  : SMap (List (BitVec 48))
  ins    : SMap (SMap (BitVec 48))   -- by position: received elements by index
  parts  : SMap (SMap (BitVec 48))   -- the owners' parts of an all-reduce, by position
  sent2  : Bool
  dead   : Bool
  offs   : SMap Nat                  -- arrival offset by rank (R44)
  deriving DecidableEq, Repr

/-- A TICK_CHECK frame accepted on a port, with the counters as they stood before it (R261). -/
structure TickIn where
  port     : Nat
  data     : Bytes
  accepted : List Nat
  back     : List Nat
  deriving DecidableEq, Repr

/-- Mirror pairs and spare modules use the fabric too; their state is in `Recov`. `done` lists operations delivered whole, as module * 2^32 + tag. -/
structure Fab where
  ports   : SMap Port
  ndies   : SMap NDie
  ins     : List InOp
  done    : List Nat
  signals : List SignalIn
  acks    : List (Nat × Option Nat)   -- E2E_ACK frames delivered: the tag and, for a NAK, the fragment
  ticks   : List TickIn
  exch    : List (Nat × Bytes)     -- verdict records delivered for the verdict in progress, by source rank (R277)
  axis    : Option AxisSet
  staged  : SMap AxisSet
  colls   : SMap CollRun
  waitOps : List OpSlot            -- operations waiting for a free slot (R262)
  early   : List InOp              -- complete COLLECTIVE operations whose entry has not started here
  steps   : SMap (Option Nat × Option Nat)   -- the lag-0 and lag-1 step of each window (R264)
  lasts   : SMap Nat               -- arrivals last in the window in progress, by rank (R45)
  counted : Nat                    -- collectives counted in the window in progress
  maxOffs : SMap Nat
  deriving DecidableEq, Repr

def Fab.blank : Fab :=
  { ports := [], ndies := [], ins := [], done := [], signals := [], acks := [], ticks := [], exch := [], axis := none, staged := [], colls := [], waitOps := [], early := [], steps := [], lasts := [],
    counted := 0, maxOffs := [] }

/-- One window's late counts (R45, R333): by rank, with how many collectives and the largest offset by rank. -/
structure LateWindow where
  window  : Nat
  lasts   : SMap Nat
  counted : Nat
  maxOffs : SMap Nat
  deriving DecidableEq, Repr

end Sys2Proof.Machine
end

