-- ==== Sys2Proof/Machine/StHost.lean ====
section
/-!
DEFINITION. The state of the host transport and the mailboxes: 15_host_transport_mailboxes R357 to R377, 16_vuhal_command_reference R404, R405. Plain
data.
-/

namespace Sys2Proof.Machine

/-- What an open bulk-in transfer writes (R371). -/
inductive TransferFor where
  | region
  | husk (step : Nat)
  | evalImage (id : Nat)
  | evalInput (id : Nat)
  deriving DecidableEq, Repr

/-- An open command transfer: its number, what it writes, its target region, the module address of its first byte, how many bytes it declares, and
the ranges that have arrived as (offset, length). -/
structure Transfer where
  number : Nat
  use    : TransferFor
  region : Nat
  base   : Nat
  len    : Nat
  got    : List (Nat × Nat)
  deriving DecidableEq, Repr

/-- A frame that waits to be sent, with number 0, or that is sent and not yet acknowledged (R361): the slot whose response it carries, the ledger
entries whose last byte its response holds, and whether it carries the response to a RESET at L0 or L1 (R369, R405, R407). -/
structure TxFrame where
  seq   : Nat
  typ   : Nat
  chan  : Nat
  kind  : Nat
  body  : Bytes
  slot  : Option Nat
  ledger : List Nat
  reset : Bool
  deriving DecidableEq, Repr

/-- A telemetry stream (R404). -/
structure TelStream where
  mask     : Nat
  interval : Nat
  rate     : Nat
  next     : Nat      -- reference count of its next sending
  deriving DecidableEq, Repr

/-- An open session (R360 to R364). `addr` and `seen` are by host port: the source address of the latest valid frame and its instant. -/
structure Session where
  id        : Nat
  tenant    : Nat
  keyIn     : Bytes
  keyOut    : Bytes
  openBody  : Bytes
  openAt    : Nat
  reply     : Bytes
  rxNext    : Nat
  rxHeld    : SMap Bytes
  txNext    : Nat
  queue     : List TxFrame
  unacked   : List TxFrame
  progress  : Nat
  lastRx    : Nat
  timer     : Nat        -- retransmission timer in ms
  sentAt    : Nat        -- when the oldest unacknowledged frame was last sent
  addr      : SMap Bytes
  seen      : SMap Nat
  transfers : List Transfer
  streams   : SMap TelStream
  deriving DecidableEq, Repr

/-- A mailbox submission (*Slot header*); `carried` is the number of payload bytes its frame carried and `payload` those bytes. -/
structure Submission where
  tenant  : Nat
  session : Nat
  opcode  : Nat
  slot    : Nat
  seq     : Nat
  len     : Nat
  hostTag : Nat
  carried : Nat
  payload : Bytes
  started : Bool     -- its command has started and waits for an event
  deriving DecidableEq, Repr

/-- A tenant (R365 to R375): E, the occupied slots with the sessions that hold them, what waits, what runs, the counters of *Tenant record*, its
quotas (slots, pool MiB, telemetry MB/s, power W), the over-quota bits, and whether MAILBOX_REJECT was logged in this period. -/
structure Tenant where
  next      : Nat
  slots     : SMap Nat
  waiting   : List Submission
  running   : Option Submission
  received  : Nat
  executed  : Nat
  rejected  : Nat
  immediate : Nat
  quota     : List Nat
  over_     : Nat
  rejLogged : Bool
  deriving DecidableEq, Repr

def Tenant.blank : Tenant :=
  { next := 0, slots := [], waiting := [], running := none, received := 0, executed := 0, rejected := 0, immediate := 0,
    quota := [16, 0, 1000, 0], over_ := 0, rejLogged := false }

/-- A host port (R357, R362, R376, R377): unused challenges with the instants they were made at, its counters by their offset in *Host port
counters*, when SESSION_REFUSED and AUTH_DROP were last logged, and the instants of the echo answers of the last second. -/
structure HostPort where
  state      : Nat
  challenges : List (Bytes × Nat)
  cnt        : SMap Nat
  refusedAt  : Option Nat
  authAt     : Option Nat
  echoes     : List Nat
  deriving DecidableEq, Repr

def HostPort.blank : HostPort := { state := 2, challenges := [], cnt := [], refusedAt := none, authAt := none, echoes := [] }

structure HostState where
  sessions : List Session
  tenants  : List Tenant
  ports    : SMap HostPort
  turn     : Nat           -- the tenant that Vuhal firmware serves next (R367)
  deriving DecidableEq, Repr

def HostState.blank : HostState :=
  { sessions := [], tenants := List.replicate 4 Tenant.blank, ports := [], turn := 0 }

end Sys2Proof.Machine
end

