-- ==== Sys2Proof/Machine/StMem.lean ====
section
/-!
DEFINITION. The state of module memory, the staging stores and the near-memory engines: 08_memory_system R173 to R203, 09_near_memory_engines R204
to R229, 16_vuhal_command_reference R391 (regions). Plain data.
-/

namespace Sys2Proof.Machine

/-- A heap region (R182, R391): the owning tenant, the kind (0 data, 1 weight pair, 2 mirror, 3 factor, 4 husk), the spill mode, base and size. -/
structure Region where
  tenant : Nat
  kind   : Nat
  spill  : Nat
  base   : Nat
  size   : Nat
  deriving DecidableEq, Repr

/-- The state of a buffer or of the WC plane on one M-die (R208). -/
inductive PlaneState where
  | empty
  | writing (v : Nat)
  | held (v : Nat)
  deriving DecidableEq, Repr

/-- A weight pair on one M-die: both buffers, the WC plane, how many segments the job in progress has finished there (the watermark of R208), and
the version of a WC rebuild in progress (R211). -/
structure PairDie where
  buf0 : PlaneState
  buf1 : PlaneState
  wc   : PlaneState
  done : Nat
  rebuild : Option Nat
  deriving DecidableEq, Repr

def PairDie.blank : PairDie := { buf0 := .empty, buf1 := .empty, wc := .empty, done := 0, rebuild := none }

/-- A layer record of an optimizer job (R217): FP32 fields as their codes. -/
structure Layer where
  id     : Nat
  decay  : Bool
  first  : Nat
  count  : Nat
  cols   : Nat
  lr     : W32
  beta1  : W32
  beta2  : W32
  eps    : W32
  lambda : W32
  deriving DecidableEq, Repr

/-- An optimizer job descriptor with its layers and micro-program phases (R216, R222). `raw` keeps the loaded bytes: the descriptor, its layers
and, for optimizer 0x80, the micro-program (R312). -/
structure Job where
  optimizer : Nat
  phases    : Nat
  srWrites  : Bool
  wcNan     : Bool
  wcSr      : Bool
  srK       : Nat
  pair      : Nat
  grad      : Nat
  mirror    : Nat
  factor    : Nat
  n         : Nat
  expected  : Nat
  wcId      : Nat
  masterId  : Nat
  statsAxis : Nat
  micro     : List (List W32)
  consts    : List W32
  wcDraw    : W32
  layers    : List Layer
  raw       : Bytes
  deriving DecidableEq, Repr

/-- A job staged for a job index: its effective period once a SCHEDULE_LOAD has named one (R216, R383). -/
structure StagedJob where
  index : Nat
  eff   : Option Nat
  job   : Job
  deriving DecidableEq, Repr

/-- A pending add-on-write (R186): the clause its entry began in (window and clause), core, place, LDADD number, element index, the staging address
and the contribution's A48 code. -/
structure Pending where
  window : Nat
  clause : Nat
  core   : Nat
  place  : Nat
  ldadd  : Nat
  index  : Nat
  sa     : Nat
  value  : BitVec 48
  step   : Nat
  deriving DecidableEq, Repr

/-- The error counters of an M-die (R197) and its near-memory counters (R229). -/
structure MDie where
  ce           : Nat
  ue           : Nat
  edcRetry     : Nat
  retrain      : Nat
  scrubCe      : Nat
  scrubUe      : Nat
  scrubPass    : Nat
  addPeak      : Nat
  ceByDevice   : SMap Nat
  ceByLane     : SMap Nat
  laneWindow   : SMap Nat      -- corrections of a lane within the current scrub interval (R199)
  onDevice     : SMap Nat
  stagingCe    : Nat
  stagingUe    : Nat
  lastUeMa     : Option Nat
  lastUeSyn    : Nat
  degraded     : Bool
  scrubNext    : Nat           -- next atom (local address / 256) of the scrub pass (R196)
  corrQueue    : List Nat      -- atoms corrected by a normal read, waiting for the scrubber (R196)
  deriving DecidableEq, Repr

structure NearCounters where
  versionGone  : Nat
  fallback     : Nat
  rebuild      : Nat
  delivered    : Nat
  stray        : Nat
  excess       : Nat
  holdUs       : Nat
  stallCount   : Nat
  stallUs      : Nat
  jobsDone     : Nat
  jobsStopped  : Nat
  deriving DecidableEq, Repr

def MDie.blank : MDie :=
  { ce := 0, ue := 0, edcRetry := 0, retrain := 0, scrubCe := 0, scrubUe := 0, scrubPass := 0, addPeak := 0, ceByDevice := [], ceByLane := [],
    laneWindow := [], onDevice := [], stagingCe := 0, stagingUe := 0, lastUeMa := none, lastUeSyn := 0, degraded := false, scrubNext := 0,
    corrQueue := [] }

def NearCounters.blank : NearCounters :=
  { versionGone := 0, fallback := 0, rebuild := 0, delivered := 0, stray := 0, excess := 0, holdUs := 0, stallCount := 0, stallUs := 0,
    jobsDone := 0, jobsStopped := 0 }

/-- A job phase on an M-die (R208, R214): the schedule key, the job index, the step, own or mirror, the phase, segments finished, the partial fold of
what it has written (R224), whether it has ended here, and the guard unit at which its next write waits with the reference count at which the wait
began (R227). -/
structure JobRun where
  tableKey : Nat
  job      : Nat
  mdie     : Nat
  step     : Nat
  mirror   : Bool
  phase    : Nat
  segs     : Nat
  fold     : Word
  ended    : Bool
  stall    : Option (Nat × Nat)
  deriving DecidableEq, Repr

/-- The region guard of one weight pair on one M-die while a checkpoint of `version` is in progress (R227): the buffer, how many guard units it has
there, and which the streamer has read. -/
structure Guard where
  version : Nat
  buf     : Nat
  units   : Nat
  read    : List Nat
  deriving DecidableEq, Repr

/-- The contributions and deliveries applied to one segment on one M-die (R213). -/
structure SegCount where
  contribs   : Nat
  deliveries : Nat
  deriving DecidableEq, Repr

def SegCount.blank : SegCount := { contribs := 0, deliveries := 0 }

/-- An in-package link (R181, R198). -/
structure Link where
  fixed    : Nat
  replays  : Nat
  runs8    : Nat
  retrains : Nat
  failRun  : Nat
  retrained : Option Nat     -- reference count of the last retrain
  failed   : Bool
  deriving DecidableEq, Repr

def Link.blank : Link :=
  { fixed := 0, replays := 0, runs8 := 0, retrains := 0, failRun := 0, retrained := none, failed := false }

/-- Module memory and the engines beside it. `cells` is module memory by MA, `staging` the staging space by SA; `bad` lists the atoms (MA / 256)
that hold an uncorrectable codeword (R194); `recast` holds re-cast elements by MA as scale and code (R192); `factors` is empty where no sums are
held; `sums` the layer sums of a two-phase job by (job * 1024 + layer) * 16 + M-die, the combined ones in place 8 (R219, R220). -/
structure Mem where
  cells     : List Host.Cell
  staging   : Store
  clusters  : SMap Store
  bad       : SMap Bool
  badStore  : SMap Bool
  recast    : SMap (Nat × Nat)
  regions   : SMap Region
  pairs     : SMap PairDie       -- pair region * 8 + M-die
  pairV0    : SMap Nat
  jobRuns   : List JobRun
  sums      : SMap (List (BitVec 48))
  adds      : List Pending
  drained   : Nat                -- clauses whose drain has finished, as window * 65536 + clause + 1
  segs      : SMap SegCount      -- by parity, M-die, pair region, segment (R213)
  early     : List Delivery
  waiting   : List (Delivery × Nat)   -- S + 1 deliveries that wait under R215, with the reference count of their arrival
  outbox    : List Delivery      -- deliveries sent by the collectives and not yet at their M-die (R212)
  guards    : SMap Guard         -- by pair region * 8 + M-die
  stagingCleared : Nat           -- the latest window whose staging valid bits were cleared (R185)
  mdies     : SMap MDie
  near      : SMap NearCounters
  links     : SMap Link
  sramCe    : SMap Nat
  sramUe    : SMap Nat
  damaged   : List Nat      -- atoms of the shard found damaged whose restoration has not been asked of the partner (R194, R317)
  trained   : SMap Bool          -- training results held (R201)
  selfRefresh : SMap Bool        -- devices in self-refresh (R202)
  micros    : SMap Bytes         -- loaded micro-programs by index, as their bytes (R395)
  deriving DecidableEq, Repr

def Mem.blank : Mem :=
  { cells := [], staging := Store.blank, clusters := [], bad := [], badStore := [], recast := [], regions := [], pairs := [], pairV0 := [],
    jobRuns := [], sums := [], adds := [], drained := 0, segs := [], early := [], waiting := [], outbox := [],
    guards := [], stagingCleared := 0, mdies := [], near := [], links := [], sramCe := [],
    sramUe := [], damaged := [], trained := [], selfRefresh := [], micros := [] }

end Sys2Proof.Machine
end

