-- ==== Sys2Proof/Machine/StRecov.lean ====
section
/-!
DEFINITION. The state of mirror pairs, spares, takeovers, fencing, health and probation: 13_mirror_spares_recovery R311 to R337. Plain data.
-/

namespace Sys2Proof.Machine

/-- The mirror of a pair region (R313). -/
inductive MirrorState where
  | stale
  | held (v : Nat)
  | writing (v : Nat)
  deriving DecidableEq, Repr

/-- What TAKEOVER named (R329) and how far the pull has come (R330). -/
structure Takeover where
  rank    : Nat
  failed  : Nat
  epoch   : Nat
  runId   : Nat
  keyLo   : Word
  keyHi   : Word
  partner : Nat
  started : Bool
  got     : Nat         -- items of R330 that have landed
  step    : Nat         -- V of the run state record
  deriving DecidableEq, Repr

/-- A die swap in progress (R321): the logical die, the failed physical die and the spare that replaces it. -/
structure Swap where
  logical : Nat
  failed  : Nat
  spare   : Nat
  deriving DecidableEq, Repr

/-- Recovery. `mirror` is by pair region; `pairFold` the partner's pairing record as (its rank, the rank it names, its job fold); `corePhys` the spare
cores in use by logical core; `expiries` and `badReads` the times of a core's watchdog expiries and of its uncorrectable reads (R319). -/
structure Recov where
  partner    : Option Nat
  pairRec    : Option (Nat × Nat × Word)
  mirror     : SMap MirrorState
  retries    : SMap Nat
  mirrorBad  : List Nat          -- pair regions left STALE by a second refresh disagreement (R315)
  refreshing : List Nat          -- pair regions whose refresh to this mirror is awaited
  lost       : Bool              -- SHARD_LOST: ECC in every verdict until a restore (R317)
  spareUsed  : SMap Bool
  remapped   : SMap Bool         -- logical cores carried by their cluster's spare core
  expiries   : SMap (List Nat)
  badReads   : SMap (List Nat)
  retired    : List Nat
  swap       : Option Swap
  offDie     : SMap Nat          -- logical dies that run no entries, with the first window in which they may (R322)
  offCore    : SMap Nat          -- logical cores under reset or returned from one, with the first window in which they may run entries (R430)
  standby    : Option Nat
  takeover   : Option Takeover
  selfFenced : Bool
  noTransit  : Bool
  threshold  : Nat
  probation  : Bool
  stagedProb : SMap Bool         -- PROBATION_SET changes by effective period
  late       : List LateWindow
  suspects   : List Nat
  shadowBad  : Nat
  unshadowed : Nat
  digestBad  : Nat
  refreshes  : Nat
  remaps     : Nat
  swaps      : Nat
  selfFences : Nat
  deriving DecidableEq, Repr

def Recov.blank : Recov :=
  { partner := none, pairRec := none, mirror := [], retries := [], mirrorBad := [], refreshing := [], lost := false, spareUsed := [], remapped := [],
    expiries := [], badReads := [], retired := [], swap := none, offDie := [], offCore := [], standby := none, takeover := none, selfFenced := false,
    noTransit := false, threshold := 16, probation := false, stagedProb := [], late := [], suspects := [], shadowBad := 0, unshadowed := 0,
    digestBad := 0, refreshes := 0, remaps := 0, swaps := 0, selfFences := 0 }

end Sys2Proof.Machine
end

