-- ==== Sys2Proof/Machine/StRun.lean ====
section
/-!
DEFINITION. The state of the tick unit, the schedule, the run, the steps and the ledger: 02_clause_frame R22 to R46, 07_training_numerics R148 to
R171, 12_step_sealing_and_replay R283 to R309. Plain data.
-/

namespace Sys2Proof.Machine

/-- The tick unit (R22 to R25): the reference count; whether REFCLK is present; whether commas have stopped; whether an epoch has been adopted since
the reset; the last marker received (its instant and epoch number); consecutive consistent markers outside a run; the current run of slips; whether
EPOCH_SLIP was logged for it; the slip count; the oscillator periods marked since REFCLK was lost (R324). -/
structure Clock where
  ref        : Nat
  present    : Bool
  stopped    : Bool
  adopted    : Bool
  lastMarker : Option (Nat × Nat)
  consistent : Nat
  slipRun    : Nat
  slipLogged : Bool
  slips      : Nat
  oscPeriods : Nat
  expect     : Nat              -- during a run, the instant at which the next marker is expected
  elapsed    : Nat              -- REFCLK cycles since power-on, which timers use: an adoption leaves it
  deriving DecidableEq, Repr

/-- A schedule table entry (R29). -/
structure TableEntry where
  clause : Nat
  cls    : Nat
  lag    : Nat
  target : Nat
  object : Nat
  budget : Nat
  deriving DecidableEq, Repr

/-- A schedule table (R29). -/
structure Table where
  period  : Nat
  tag     : Nat
  entries : List TableEntry
  deriving DecidableEq, Repr

/-- The frame (R26, R28, R46). `staged` holds FRAME_SET changes by effective period as (interval, P, skew limit, expert). -/
structure Frame where
  interval   : Nat
  configured : Nat
  period     : Nat
  expert     : Bool
  skewLimit  : Nat
  table      : Option Table
  loaded     : Bool           -- a FRAME_SET has taken effect (R399)
  staged     : SMap (Nat × Nat × Nat × Bool)
  stagedTables : SMap Table
  lastO      : Nat
  lastU      : Nat
  overruns   : Nat
  stretches  : Nat
  skews      : Nat
  budgets    : Nat
  quietSeals : Nat            -- consecutive sealed steps with O = 0 (R40)
  skewRuns   : SMap Nat       -- per port: consecutive periods beyond ten times the limit (R43)
  skewFault  : Bool           -- a deadline miss to report at the next verdict (R43)
  measO      : Nat            -- largest overrun and occupancy of the interval being measured (R37)
  measU      : Nat
  repO       : Nat           -- the figures of the interval measured last, as the verdict reports them
  repU       : Nat
  deriving DecidableEq, Repr

/-- Where a schedule entry of a window stands (R31). -/
inductive EntryState where
  | waiting
  | ready
  | running
  | finished
  | skipped
  deriving DecidableEq, Repr

/-- One schedule entry of a window in progress: its table entry, the step it works for, where it stands, the M-dies or cores that have started
and finished it, the reference counts of its clause's opening and of its start, and whether it has overrun. -/
structure EntrySt where
  entry   : TableEntry
  step    : Nat
  window  : Nat
  state   : EntryState
  started : List Nat
  done    : List Nat
  openRef : Nat
  startRef : Nat
  overran : Bool
  interval : Nat     -- the interval in force when its clause opened
  deriving DecidableEq, Repr

/-- The numerics policy (R148). -/
structure Managed where
  id      : Nat
  layer   : Nat
  role    : Nat
  scaled  : Bool
  fmtSel  : Bool
  amax0   : W32
  fmt     : Nat
  deriving DecidableEq, Repr

structure Policy where
  tag         : Nat
  headroom    : Nat
  history     : Nat
  masterMode  : Nat
  tauExp      : Nat
  replayLimit : Nat
  flushLimit  : Nat
  actions     : List Nat
  entries     : List Managed
  deriving DecidableEq, Repr

/-- A range record (R151): amax as its FP32 code. -/
structure Range where
  amax    : W32
  nonzero : Nat
  mxLost  : Nat
  hist    : SMap Nat
  deriving DecidableEq, Repr

def Range.blank : Range := { amax := 0, nonzero := 0, mxLost := 0, hist := [] }

/-- The conversion counters of a tensor (R67). -/
structure Counters where
  sat     : Nat
  nan     : Nat
  flush   : Nat
  under   : Nat
  clamp   : Nat
  stopped : Bool
  nanMode : Bool
  deriving DecidableEq, Repr

def Counters.blank : Counters := { sat := 0, nan := 0, flush := 0, under := 0, clamp := 0, stopped := false, nanMode := false }

/-- A core's step copy (R88): status bits 6:0 and the step first-event record (its key and bytes). -/
structure StepCopy where
  bits  : Nat
  first : Option (List Nat × Bytes)
  deriving DecidableEq, Repr

def StepCopy.blank : StepCopy := { bits := 0, first := none }

/-- A scale state entry (R156): t as its signed value, est as its FP32 code. -/
structure ScaleEntry where
  t     : Int
  fmt   : Nat
  flags : Nat
  est   : W32
  deriving DecidableEq, Repr

/-- The operation counts of a step (R264) and its remote signal counts by rank (R246, R293). -/
structure OpCounts where
  sent      : Nat
  received  : Nat
  sentFold  : Word
  recvFold  : Word
  deriving DecidableEq, Repr

def OpCounts.blank : OpCounts := { sent := 0, received := 0, sentFold := 0, recvFold := 0 }

/-- One step of the run: what the module keeps for it until it seals or replays (R67, R88, R151, R156, R161, R163, R213, R225, R291, R302, R305). -/
structure StepRec where
  failures   : Nat
  attempts   : Nat            -- failed attempts, all causes
  failuresSeen : Nat
  lastFail   : Nat            -- combined failures and action of its last verdict (R402)
  lastAct    : Nat
  policyReplays : Nat         -- failed verdicts counted under R302
  overReplays : Nat           -- replays under REPLAY (R161)
  limitHit   : Bool
  conditions : Nat
  action     : Nat
  decision   : Nat            -- row of the verdict decision, 0 while undecided
  policy     : Option Policy
  scale      : SMap ScaleEntry
  formats    : SMap Nat       -- format in force by layer (R163)
  formatLog  : List (Nat × Nat × Nat × Nat)   -- layer, format for S - 1, format for S, lost count
  counters   : SMap Counters
  ranges     : SMap Range
  combined   : Option (SMap Range)
  watch      : SMap (BitVec 48 × BitVec 48)   -- own sums by M-die * 65536 + layer (R166)
  ratios     : SMap W32       -- combined ratio by layer
  copies     : SMap StepCopy  -- by logical core
  mcopies    : SMap Nat       -- by M-die
  digests    : List Bytes     -- own shard digest records, then mirror
  partner    : List Bytes     -- the partner's mirror digest records (R314)
  ops        : OpCounts
  opsAt       : OpCounts      -- latched at the comma that opens the verdict clause of the step (R264)
  sigSent    : SMap Nat       -- remote counts issued by destination rank
  sigApplied : SMap Nat       -- remote counts applied by source rank
  sigBad     : Nat            -- remote counts refused, late or ignored
  dieSig     : SMap (Nat × Nat × Nat × Nat)   -- per C-die: signalled, applied, refused, ignored
  summary    : Bytes
  failSums   : Bool           -- a nonzero sum field in the verdict that held the step
  failMismatch : Nat
  logged     : List Nat       -- event codes logged once for this step
  alarms     : List (Nat × Nat × W32)
  strays     : Nat
  deriving DecidableEq, Repr

def StepRec.blank : StepRec :=
  { failures := 0, attempts := 0, failuresSeen := 0, lastFail := 0, lastAct := 0, policyReplays := 0, overReplays := 0, limitHit := false, conditions := 0, action := 0,
    decision := 0, policy := none, scale := [], formats := [], formatLog := [], counters := [],
    ranges := [], combined := none, watch := [], ratios := [], copies := [], mcopies := [], digests := [], partner := [], ops := OpCounts.blank, opsAt := OpCounts.blank,
    sigSent := [], sigApplied := [], sigBad := 0, dieSig := [], summary := [], failSums := false, failMismatch := 0, logged := [],
    alarms := [], strays := 0 }

/-- The module state of *Command states* (16_vuhal_command_reference R379). -/
inductive Mode where
  | idle
  | armed
  | running
  | held
  | standby
  | fenced
  | outOfService
  deriving DecidableEq, Repr

/-- What kind of window runs (R31, R32, R299, R300, R301). -/
inductive WindowKind where
  | none       -- no run
  | normal
  | replay     -- lag-0 work again, empty verdict
  | drain      -- lag-1, evaluation and checkpoint entries only
  | held       -- evaluation, checkpoint and held verdict only
  deriving DecidableEq, Repr

/-- What RUN_ARM named (R399). `words` are the armed 128-bit run ID and digest key as numbers. -/
structure Armed where
  runId  : Nat
  seed   : Word
  keyLo  : Word
  keyHi  : Word
  husk   : Nat
  flags  : Nat
  v0     : Nat
  deriving DecidableEq, Repr

/-- A husk slot (R283, R285): own slots and partner slots. -/
inductive SlotState where
  | free
  | feeding
  | closed
  | active
  deriving DecidableEq, Repr

structure HuskSlot where
  state   : SlotState
  step    : Nat
  samples : Nat
  input   : Nat
  written : List (Nat × Nat)   -- byte ranges of the entry written, as (offset, length)
  acked   : Bool               -- the partner's copy is acknowledged end to end
  deriving DecidableEq, Repr

def HuskSlot.blank : HuskSlot := { state := .free, step := 0, samples := 0, input := 0, written := [], acked := false }

/-- The resolution of SEAL_POLICY_SET (R301). -/
structure Resolution where
  limit  : Nat
  code   : Nat
  step   : Nat
  period : Nat
  deriving DecidableEq, Repr

/-- The run and its window (R27, R31, R32, R46, R297 to R303, R323, R324). -/
structure Run where
  mode       : Mode
  armed      : Option Armed
  lastArmed  : Option Nat        -- the run ID last armed since L0
  started    : Bool              -- a RUN_START of this run ID has been made
  lastStep   : Nat
  sealed     : Nat               -- latest sealed step
  sealedBase : Nat               -- steps sealed before the current RUN_START end here (R153)
  kind       : WindowKind
  comma      : Nat
  period     : Nat
  clause     : Nat
  lag0       : Option Nat
  lag1       : Option Nat
  nextComma  : Option Nat        -- reference count of the next comma
  clauseRef  : Nat               -- reference count of the comma that opened the clause
  verdictRef : Nat               -- reference count of the comma that opened the last verdict clause
  auditRef   : Nat               -- and of the one before it (R292)
  noLag0     : Bool              -- R287: the step's entry was not CLOSED
  entries    : SMap EntrySt      -- by window * 65536 + table index
  holdAt     : Option Nat        -- effective period of RUN_HOLD (R401)
  heldStep   : Option Nat
  resolution : Resolution
  record     : Option Bytes      -- the combined record of the verdict in progress
  stalled    : Bool              -- a period passed without the record: no entry starts (R297)
  missed     : Nat               -- consecutive periods without a combined record (R324)
  husk       : List HuskSlot     -- three own slots, then three partner slots
  closedCnt  : Nat
  freedCnt   : Nat
  audit      : Bytes             -- latched by the latest verdict entry (R292, R406)
  exchanged  : Bool              -- the numerics exchange of this verdict has run (R152)
  ownRec     : Option Bytes      -- the record contributed to the verdict in progress (R294)
  sentUp     : Bool              -- this module has passed its part of the verdict tree on (R277, R323)
  cut        : List Nat          -- ranks whose records were missing at the cut-off
  periodRef  : Nat               -- reference count of the period that opened the window
  startRef   : Nat               -- reference count of comma 0
  startSeq   : Option Nat        -- RUN_START has sent its pairing records, at this reference count, and waits (R400)
  startSent  : Bool              -- the partner's record has matched and the refreshes are sent (R312)
  lastVerdict : Nat              -- the latest verdicted step, 0 for none (R402)
  v0s        : SMap Nat          -- the V0 of each rank's pairing record (R355)
  windowLog  : List Nat          -- event codes logged once in this window
  deriving DecidableEq, Repr

/-- A ledger entry (R306, R307): its sequence, its bytes, and whether it has been read. -/
structure LedgerEntry where
  seq   : Nat
  bytes : Bytes
  read  : Bool
  deriving DecidableEq, Repr

/-- The Poensan ledger (R306). -/
structure Ledger where
  entries  : List LedgerEntry     -- oldest first
  nextSeq  : Nat
  prevHash : Bytes
  gap      : Bool                 -- the next kind 3 entry follows an L0 gap
  flashSeq : Nat                  -- flash: sequence mark
  flashHash : Bytes               -- flash: hash of the latest kind 4 or 5 entry
  flashLast : Nat
  seals    : SMap (Nat × Bytes)  -- sequence and entry hash of the kind 1 entry that sealed each version of the run
  deriving DecidableEq, Repr

/-- A layer watch entry (R168): flags, high, floor, stagnation limit. -/
structure WatchEntry where
  layer : Nat
  on    : Bool
  high  : W32
  floor : W32
  limit : Nat
  deriving DecidableEq, Repr

/-- Numerics: the policy in force and staged, the combined tables of sealed steps, the watch table, the stagnation counts, emulation (R148 to R170). -/
structure Numerics where
  policy   : Policy
  staged   : SMap Policy
  history  : SMap (SMap Range)
  watch    : SMap WatchEntry    -- by layer
  stagedWatch : SMap (List WatchEntry)
  stag     : SMap Nat
  emu      : Bool
  deriving DecidableEq, Repr

end Sys2Proof.Machine
end

