-- ==== Sys2Proof/Machine/StSuper.lean ====
section
/-!
DEFINITION. The state of the S-die: the reset controller, the option loader, the power governor, the safety partition, the flash records and the
sideband pins: 17_reset_power_startup R417 to R442, 18_supervision_identity_attestation R443 to R456, 19_electrical_mechanical R461 to R468. Plain data.
-/

namespace Sys2Proof.Machine

/-- The target of a reset: a die code and, at L3 and L4, a logical cluster and core (R407, R417). L0 and L1 have no target. -/
structure ResetTarget where
  die     : Nat
  cluster : Nat
  core    : Nat
  deriving DecidableEq, Repr

/-- A reset in progress (R420, R428): level, source code (*Escalation view*), targets, the stage being run, when the reset began and when the stage
could open, on the elapsed count; the sources merged into it; whether REFCLK_LOST was logged while stage 2 waits; the M-dies whose GDDR7 contents full
training loses (R202); whether it has reached the escalation threshold (R431). -/
structure ResetRun where
  level   : Nat
  source  : Nat
  targets : List ResetTarget
  stage   : Nat
  began   : Nat
  opens   : Nat
  merged  : List Nat
  refLost : Bool
  noKeep  : List Nat
  esc     : Bool
  deriving DecidableEq, Repr

/-- The option registers (*Option block*): `raises` is reset_raise by field of *Reset map*, 7 for no raise. -/
structure Options where
  version : Nat
  raises  : List Nat
  gap     : Nat
  slewMax : Nat
  deny    : Nat
  anchors : List Nat
  deriving DecidableEq, Repr

/-- A record of the last 16 resets (*Escalation view*). -/
structure ResetLog where
  ref     : Nat
  source  : Nat
  level   : Nat
  die     : Nat
  cluster : Nat
  core    : Nat
  raised  : Bool          -- the result: completed or escalated
  deriving DecidableEq, Repr

/-- A request in the safety request queue (R444): the item, the value asked for, and the tenant whose command waits, if one does. -/
structure SafetyAsk where
  item   : Nat
  value  : Nat
  tenant : Option Nat
  deriving DecidableEq, Repr

/-- The S-die. `input` is 0 in the operating range, 1 low, 2 high, 3 brown-out, 4 over-voltage; `stopped` a start-up stopped after a stage (R426,
R429, R446); `noRun` the fault of R429 and R448 that bars every run state until an L0 reset completes; `hot` a junction above 105 degrees; `straps` the
SLOT_ID pins; `certBad` the certificates missing from flash (R453); `part` is 0 for the WQM20-52L-256 and 1 for the WQM20-52L-192. -/
structure Super where
  part      : Nat
  reset     : Option ResetRun
  resets    : List ResetLog
  counted   : List Nat         -- reference counts of the resets that count for escalation (R431)
  outOf     : Bool
  returning : Bool
  outCause  : Nat
  loadStarts : Nat
  restarts  : List Nat         -- instants of option-load restarts (R425)
  opts      : Options          -- the option registers in force (R424)
  flashOpt  : Bool             -- the flash option block is in force (source bit 1)
  optFault  : Bool             -- the flash option block was ignored at the last load (R426)
  certBad   : List Nat
  idBad     : List Nat         -- dies whose identity does not check, by die code (R448)
  straps    : Nat
  stage     : Nat              -- release stage reached (SMBus 0x00)
  stopped   : Bool
  noRun     : Bool
  resetNLow : Option Nat
  askReset  : Option (Nat × Nat)   -- a RESET at L0 or L1 answered and not begun: its level and the instant of the answer (R407)
  input     : Nat
  pwrEn     : Bool
  pwrGood   : Bool
  standby   : Bool             -- the standby supply is up (R463)
  reverse   : Bool             -- the reverse-current blocker is open (R435)
  cap       : Nat
  slew      : Nat
  phase     : Option Nat       -- the expert form's phase, else the slot's (R439)
  mv        : Nat
  ma        : Nat
  mean      : List Nat         -- input power of the samples of the running 1 ms in mW, newest first
  means     : List Nat         -- 1 ms means of the last 100 ms in mW, newest first
  peak      : Nat              -- the largest 1 ms mean, mW
  energy    : Nat              -- in 10 pJ, that is mV times mA over 10 us
  watts     : List Nat         -- draw by class (*Power status*)
  temps     : List Int         -- junctions in die order, 1/16 degree
  memTemps  : List Int         -- hottest GDDR7 device by M-die, 1/16 degree
  ceiling   : Nat              -- in 10 mW
  floor     : Nat              -- in 10 mW
  limiting  : Nat              -- flags bits 2:0 of *Power status*
  limLogged : List Nat         -- limiting codes logged in this window (R440)
  hot       : Bool
  asks      : List SafetyAsk
  refused   : Nat
  config    : Option Bytes     -- the configuration record in force
  flashCfg  : Option Bytes     -- the configuration record in flash
  ramps     : Nat              -- clock steps of the C-dies below full, in 1/64
  deriving DecidableEq, Repr

/-- The option block of the model (log entry 48): it raises no level, selects every default, denies no expert form and holds one anchor for each tenant. -/
def Options.start : Options :=
  { version := 1, raises := List.replicate 10 7, gap := 1024, slewMax := 1200, deny := 0, anchors := [1, 1, 1, 1] }

def Super.start : Super :=
  { part := 0, reset := none, resets := [], counted := [], outOf := false, returning := false, outCause := 0, loadStarts := 1, restarts := [],
    opts := Options.start, flashOpt := false, optFault := false, certBad := [], idBad := [], straps := 0, stage := 9, stopped := false, noRun := false, resetNLow := none, askReset := none, input := 0, pwrEn := true,
    pwrGood := true, standby := true, reverse := false, cap := 3000, slew := 600, phase := none, mv := 52000, ma := 0, mean := [], means := [],
    peak := 0, energy := 0, watts := [], temps := [], memTemps := [], ceiling := 5000, floor := 0, limiting := 0, limLogged := [], hot := false, asks := [], refused := 0,
    config := none, flashCfg := none, ramps := 0 }

end Sys2Proof.Machine
end

