-- ==== Sys2Proof/Machine/State.lean ====
section
/-!
DEFINITION. The state of the module: every register, queue, counter, mode and pin of the spec, grouped as the chapters group them, and the queue of
waiting commands. Plain data. The faults and refusals, and the state right after reset.
-/

namespace Sys2Proof.Machine

/-- Why the model stops with a fault. No meaning raises one today: the spec turns every stop of the machine into a state (log entry 7). -/
inductive Fault where
  /-- Raised by nothing; kept so that a later repair can name a stop. Safe. -/
  | stuck (why : String)
  deriving DecidableEq, Repr

/-- Why the model refuses a command. -/
inductive Refusal where
  /-- Raised by an arm of `exec` that has no meaning yet. Safe: no claim follows from it. -/
  | notModelled (mnemonic : String)
  /-- Raised by a meaning whose event cannot occur in this state: the spec gives the row no effect here (log entry 1). Safe. -/
  | notEnabled (why : String)
  deriving DecidableEq, Repr

/-- A nutshell entry (R454). -/
structure NutEntry where
  ref    : Nat
  seq    : Nat
  code   : Nat
  source : Nat
  flags  : Nat
  tenant : Nat
  window : Nat
  step   : Nat
  detail : Bytes
  deriving DecidableEq, Repr

/-- The nutshell (R454 to R456): the live bank and the frozen bank, newest entry first; the trigger whose archive is in progress; the next sequence
number; the three archive slots of flash, newest first, as trigger and entries. -/
structure Nutshell where
  live      : List NutEntry
  frozen    : List NutEntry
  archiving : Option NutEntry
  next      : Nat
  archives  : List (NutEntry × List NutEntry)
  slot      : Nat          -- the flash slot that the next archive overwrites
  lost      : Bool
  deriving DecidableEq, Repr

/-- What the module sends or drives outside: the model's own trace, newest first (log entry 3). -/
inductive Sent where
  | host (port : Nat) (frame : Bytes)
  | fabric (port : Nat) (frame : Bytes)
  | report (status code : Nat) (detail : Bytes)
  | pin (name : Nat) (level : Bool)
  | smbus (data : Bytes)
  | jtag (data : Bytes)
  deriving DecidableEq, Repr


/-- The module. Each group's docstring names its chapters; `fresh`, `sent` and `pending` are the model's own (log entries 2, 3 and 4). -/
structure State where
  fresh : Nat   -- the free-value counter
  pending : List Instr   -- commands waiting, first in first out
  sent : List Sent   -- outputs
  clk : Clock   -- 02: the tick unit
  frame : Frame   -- 02: frame and schedule
  run : Run   -- 02, 12, 13, 16: the run and its window
  steps : SMap StepRec   -- 03, 07, 12: what is kept for each step
  num : Numerics   -- 07: policy, history, watch
  ledger : Ledger   -- 12: the Poensan ledger
  cores : SMap Core   -- 04, 05, 06: the 512 logical cores
  stagedImages : List StagedImage   -- 06: images staged by PROGRAM_LOAD (R142)
  jobs : SMap Job   -- 09: optimizer jobs in force, by object index (R216)
  stagedJobs : List StagedJob   -- 09: jobs staged by OPTIMIZER_SET (R216)
  dieMap : List Nat   -- 01: the physical C-die of each logical C-die (R13)
  sync : SMap SyncObj   -- 10: sync objects by key
  syncWin : SMap Nat   -- 10: the latest window a cluster or die unit has returned to zero for (R244)
  mem : Mem   -- 08, 09: memory, stores, near-memory engines
  member : Option (Nat × Nat)   -- 11: the slice and rank of the module
  routes : SMap SliceTables   -- 11: route tables by slice
  modId : Nat   -- 16: the module ID of the configuration record in force (R390)
  slotId : Nat   -- 19: SLOT_ID as latched at the last L0 reset (R464)
  fab : Fab   -- 11: ports, operations, collectives
  recov : Recov   -- 13: mirror, spares, recovery
  evals : List Eval   -- 16: evaluations: unfinished in order of acceptance, then the last 64 finished
  host : HostState   -- 15: sessions, mailboxes, bulk channels
  ckpt : Ckpt   -- 14: checkpoint and restore
  sup : Super   -- 17, 18, 19: reset, power, safety partition, flash, pins
  nut : Nutshell   -- 18: the nutshell
  alerts : Nat   -- 19: the alert-cause register
  deriving DecidableEq, Repr

/-- After L0: the count runs from zero, REFCLK present, no epoch adopted (R24, R25). -/
def Clock.start : Clock :=
  { ref := 0, present := true, stopped := false, adopted := false, lastMarker := none, consistent := 0, slipRun := 0, slipLogged := false,
    slips := 0, oscPeriods := 0, expect := 0, elapsed := 0 }

/-- The frame defaults of R26 and R43. -/
def Frame.start : Frame :=
  { interval := 10000, configured := 10000, period := 1, expert := false, skewLimit := 400, table := none, loaded := false, staged := [], stagedTables := [],
    lastO := 0, lastU := 0, overruns := 0, stretches := 0, skews := 0, budgets := 0, quietSeals := 0, skewRuns := [], skewFault := false,
    measO := 0, measU := 0, repO := 0, repU := 0 }

def Run.start : Run :=
  { mode := .idle, armed := none, lastArmed := none, started := false, lastStep := 0, sealed := 0, sealedBase := 0,
    kind := .none, comma := 0, period := 0, clause := 0, lag0 := none, lag1 := none, nextComma := none, clauseRef := 0, verdictRef := 0, auditRef := 0,
    noLag0 := false, entries := [], holdAt := none, heldStep := none, resolution := { limit := 3, code := 0, step := 0, period := 0 },
    record := none, stalled := false, missed := 0, husk := List.replicate 6 HuskSlot.blank, closedCnt := 0,
    freedCnt := 0, audit := [], exchanged := false, ownRec := none, sentUp := false, cut := [], periodRef := 0, startRef := 0, startSeq := none, startSent := false, lastVerdict := 0, v0s := [], windowLog := [] }

/-- The default actions of *Numerics conditions* (R157). -/
def defaultActions : List Nat := [2, 2, 2, 2, 0, 0, 0, 0, 2, 0, 0, 0, 0, 0, 0, 0]

/-- The defaults of *Numerics policy header*: no managed tensors, tag 0 (R149). -/
def Policy.default : Policy :=
  { tag := 0, headroom := 1, history := 16, masterMode := 0, tauExp := 10, replayLimit := 1, flushLimit := 0, actions := defaultActions,
    entries := [] }

def Numerics.start : Numerics :=
  { policy := Policy.default, staged := [], history := [], watch := [], stagedWatch := [], stag := [], emu := false }

def Ledger.start : Ledger :=
  { entries := [], nextSeq := 0, prevHash := List.replicate 32 0, gap := false, flashSeq := 0, flashHash := List.replicate 32 0, flashLast := 0,
    seals := [] }

def Nutshell.start : Nutshell := { live := [], frozen := [], archiving := none, next := 0, archives := [], slot := 0, lost := false }

/-- The module right after a power-on (L0) reset has completed (17_reset_power_startup R417, log entry 5). -/
def State.reset : State :=
  { fresh := 0,
    pending := [],
    sent := [],
    clk := Clock.start,
    frame := Frame.start,
    run := Run.start,
    steps := [],
    num := Numerics.start,
    ledger := Ledger.start,
    cores := [],
    stagedImages := [],
    jobs := [],
    stagedJobs := [],
    dieMap := [0, 1, 2, 5, 8, 7, 6, 3],
    sync := [],
    syncWin := [],
    mem := Mem.blank,
    member := none,
    routes := [],
    modId := 0,
    slotId := 0,
    fab := Fab.blank,
    recov := Recov.blank,
    evals := [],
    host := HostState.blank,
    ckpt := Ckpt.blank,
    sup := Super.start,
    nut := Nutshell.start,
    alerts := 0 }

def State.withFresh (s : State) (x : Nat) : State := { s with fresh := x }
def State.withPending (s : State) (x : List Instr) : State := { s with pending := x }
def State.withSent (s : State) (x : List Sent) : State := { s with sent := x }
def State.withClk (s : State) (x : Clock) : State := { s with clk := x }
def State.withFrame (s : State) (x : Frame) : State := { s with frame := x }
def State.withRun (s : State) (x : Run) : State := { s with run := x }
def State.withSteps (s : State) (x : SMap StepRec) : State := { s with steps := x }
def State.withNum (s : State) (x : Numerics) : State := { s with num := x }
def State.withLedger (s : State) (x : Ledger) : State := { s with ledger := x }
def State.withCores (s : State) (x : SMap Core) : State := { s with cores := x }
def State.withStagedImages (s : State) (x : List StagedImage) : State := { s with stagedImages := x }
def State.withJobs (s : State) (x : SMap Job) : State := { s with jobs := x }
def State.withStagedJobs (s : State) (x : List StagedJob) : State := { s with stagedJobs := x }
def State.withDieMap (s : State) (x : List Nat) : State := { s with dieMap := x }
def State.withSync (s : State) (x : SMap SyncObj) : State := { s with sync := x }
def State.withSyncWin (s : State) (x : SMap Nat) : State := { s with syncWin := x }
def State.withMem (s : State) (x : Mem) : State := { s with mem := x }
def State.withMember (s : State) (x : Option (Nat × Nat)) : State := { s with member := x }
def State.withRoutes (s : State) (x : SMap SliceTables) : State := { s with routes := x }
def State.withModId (s : State) (x : Nat) : State := { s with modId := x }
def State.withSlotId (s : State) (x : Nat) : State := { s with slotId := x }
def State.withFab (s : State) (x : Fab) : State := { s with fab := x }
def State.withRecov (s : State) (x : Recov) : State := { s with recov := x }
def State.withEvals (s : State) (x : List Eval) : State := { s with evals := x }
def State.withHost (s : State) (x : HostState) : State := { s with host := x }
def State.withCkpt (s : State) (x : Ckpt) : State := { s with ckpt := x }
def State.withSup (s : State) (x : Super) : State := { s with sup := x }
def State.withNut (s : State) (x : Nutshell) : State := { s with nut := x }
def State.withAlerts (s : State) (x : Nat) : State := { s with alerts := x }

end Sys2Proof.Machine
end

