-- ==== Sys2Proof/Machine/Ops.lean ====
section
/-!
DEFINITION. The named operations over the state: module memory bytes, stores with valid bits, core registers, step records, the nutshell, alerts and
reports.
-/

namespace Sys2Proof.Machine

abbrev Out := Host.Outcome State Fault Refusal

/-- The command's event cannot occur in this state (log entry 1). -/
def notNow (why : String) : Out := .refused (.notEnabled why)

/-! Bytes by address. An unlisted address reads as zero (log entry 8); a write keeps the canonical form. -/

def Memory.read (m : List Host.Cell) (a : Nat) : Byte := SMap.get 0 m a
def Memory.write (m : List Host.Cell) (a : Nat) (b : Byte) : List Host.Cell := SMap.set 0 m a b
def Memory.writeBytes (m : List Host.Cell) (a : Nat) (bs : Bytes) : List Host.Cell := SMap.setRun 0 m a bs
def Memory.readBytes (m : List Host.Cell) (a n : Nat) : Bytes := (List.range n).map (fun i => Memory.read m (a + i))

/-- The canonical form: addresses strictly rising, no entry equal to what an unlisted address reads as. -/
def Memory.wf (m : List Host.Cell) : Bool := SMap.wf 0 m

/-! Stores with one valid bit for each 64-byte line (R115, R185). -/

/-- The lines that `n` bytes from `a` touch. -/
def linesOf (a n : Nat) : List Nat := if n = 0 then [] else (List.range ((a + n - 1) / 64 - a / 64 + 1)).map (a / 64 + ·)

def Store.lineValid (st : Store) (l : Nat) : Bool := SMap.get false st.valid l
def Store.readable (st : Store) (a n : Nat) : Bool := (linesOf a n).all st.lineValid

/-- Make a line valid: the first write to a line that is not valid stores zero in every byte of it (R115). -/
def Store.openLine (st : Store) (l : Nat) : Store :=
  if st.lineValid l then st
  else { cells := Memory.writeBytes st.cells (64 * l) (zeros 64), valid := SMap.set false st.valid l true }

def Store.write (st : Store) (a : Nat) (bs : Bytes) : Store :=
  let st' := (linesOf a bs.length).foldl Store.openLine st
  { st' with cells := Memory.writeBytes st'.cells a bs }

def Store.read (st : Store) (a n : Nat) : Bytes := Memory.readBytes st.cells a n

/-- The stored bytes are not cleared with the valid bits (R115). -/
def Store.clear (st : Store) : Store := { st with valid := [] }

/-! Cores. -/

def State.core (s : State) (c : Nat) : Core := SMap.get Core.blank s.cores c
def State.setCore (s : State) (c : Nat) (k : Core) : State := s.withCores (SMap.insert s.cores c k)

/-- s0 reads zero (R119). -/
def Core.s (k : Core) (r : BitVec 5) : Word := if r = 0 then 0 else SMap.get 0 k.sregs r.toNat
/-- Writes to s0 are discarded. -/
def Core.setS (k : Core) (r : BitVec 5) (v : Word) : Core := if r = 0 then k else { k with sregs := SMap.insert k.sregs r.toNat v }
/-- a0 reads zero. -/
def Core.a (k : Core) (r : BitVec 4) : Word := if r = 0 then 0 else SMap.get 0 k.aregs r.toNat
/-- Writes to a0 are discarded. -/
def Core.setA (k : Core) (r : BitVec 4) (v : Word) : Core := if r = 0 then k else { k with aregs := SMap.insert k.aregs r.toNat v }

def Core.lane (k : Core) (r : BitVec 5) (l : Nat) : W32 := SMap.get 0 k.vregs (r.toNat * 128 + l)
def Core.setLane (k : Core) (r : BitVec 5) (l : Nat) (v : W32) : Core := { k with vregs := SMap.insert k.vregs (r.toNat * 128 + l) v }

/-- m0 reads as all ones (R92). -/
def Core.mask (k : Core) (m : BitVec 2) : BitVec 128 := if m = 0 then BitVec.allOnes 128 else SMap.get 0 k.masks m.toNat
def Core.setMask (k : Core) (m : BitVec 2) (v : BitVec 128) : Core := if m = 0 then k else { k with masks := SMap.insert k.masks m.toNat v }

def accKey (half : Bool) (row col : Nat) : Nat := (bitNat half * 256 + row) * 64 + col
def Core.accAt (k : Core) (half : Bool) (row col : Nat) : BitVec 48 := SMap.get 0 k.acc (accKey half row col)
def Core.closedRows (k : Core) (half : Bool) : BitVec 256 := SMap.get 0 k.closed (bitNat half)

/-- Descriptor bytes in force on a core. -/
def Core.desc (k : Core) (t : Nat) : Bytes := SMap.get (zeros 64) k.descs t

/-- The instruction word at an index: the resident image, then what OVL made valid (R138). -/
def Core.word (k : Core) (i : Nat) : Option Word :=
  match k.prog with
  | none => none
  | some p => if i < p.resident.length then p.resident[i]? else SMap.find? k.overlay i

/-- Every issued instruction has completed, output conversions, transfers and signals included (R137). -/
def Core.drained (k : Core) : Bool := k.matQ.isEmpty && k.loadQ.isEmpty && k.sigQ.isEmpty

/-! Steps, events and reports. -/

def State.stepRec (s : State) (n : Nat) : StepRec := SMap.get StepRec.blank s.steps n
def State.setStep (s : State) (n : Nat) (r : StepRec) : State := s.withSteps (SMap.insert s.steps n r)
def State.mapStep (s : State) (n : Nat) (f : StepRec → StepRec) : State := s.setStep n (f (s.stepRec n))

/-- Set failure bits of a step (R291). -/
def State.failStep (s : State) (n mask : Nat) : State := s.mapStep n (fun r => { r with failures := r.failures ||| mask })

def fEntry : Nat := 1
def fDeadline : Nat := 2
def fEcc : Nat := 4
def fOp : Nat := 8
def fDigest : Nat := 16
def fAudit : Nat := 32
def fFeed : Nat := 64
def fShadow : Nat := 128
def fHost : Nat := 256
def fLedger : Nat := 512

def State.inRun (s : State) : Bool := s.run.mode == .running || s.run.mode == .held

/-- The behaviour of R325: fenced, or out of service (R408). -/
def State.isFenced (s : State) : Bool := s.run.mode == .fenced || s.run.mode == .outOfService

/-- The number of the window in progress: window w runs from period w - 1 to period w (R27); 0 outside a run. -/
def State.window (s : State) : Nat := if s.inRun then s.run.period + 1 else 0

/-- Die codes (*Telemetry selectors*). -/
def srcC (phys : Nat) : Nat := phys
def srcM (m : Nat) : Nat := 0x10 + m
def srcN (n : Nat) : Nat := 0x20 + n
def srcS : Nat := 0x30

/-- Events raise more than their code: which die, which tenant, which step, and whether ALERT_N is asserted with it. -/
structure Note where
  code   : Nat
  source : Nat := srcS
  tenant : Nat := 0xFF
  step   : Nat := 0
  alert  : Bool := false
  detail : Bytes := []
  deriving DecidableEq, Repr

/-- Append to the live bank, overwriting the oldest when it holds 8,192 entries (R454). -/
def State.record (s : State) (n : Note) (flags : Nat) : State :=
  let e : NutEntry := { ref := s.clk.ref, seq := s.nut.next, code := n.code, source := n.source, flags := flags, tenant := n.tenant,
                        window := s.window % 2 ^ 32, step := n.step, detail := fitTo 32 n.detail }
  s.withNut { s.nut with live := (e :: s.nut.live).take 8192, next := (s.nut.next + 1) % 2 ^ 32 }

def State.log (s : State) (n : Note) : State := s.record n (if n.alert then 2 else 0)

/-- An event that freezes the nutshell (R455): the banks exchange and the archive starts, unless one is in progress. -/
def State.logFreeze (s : State) (n : Note) : State :=
  match s.nut.archiving with
  | some _ =>
    let t := s.nut.next
    (s.log n).log { code := 0x1011, detail := leBytes 4 t ++ leBytes 2 n.code }
  | none =>
    let t := s.nut.next
    let s' := s.record n ((if n.alert then 2 else 0) + 1)
    let s' := s'.withNut { s'.nut with frozen := s'.nut.live, live := [], archiving := s'.nut.live.head? }
    s'.log { code := 0x1010, detail := leBytes 4 t ++ leBytes 2 n.code }

/-- Log once for a step, a code and a key: 0, or what tells apart the dies or the evaluations that each log once (R209, R228). -/
def State.logStepKey (s : State) (key : Nat) (n : Note) : State :=
  let k := n.code + 65536 * key
  if (s.stepRec n.step).logged.contains k then s
  else (s.mapStep n.step (fun r => { r with logged := k :: r.logged })).log n

/-- Log once for a step and code (R172, R310). -/
def State.logStepOnce (s : State) (n : Note) : State := s.logStepKey 0 n

/-- Log once in a window. -/
def State.logWindowOnce (s : State) (n : Note) : State :=
  if s.run.windowLog.contains n.code then s
  else (s.withRun { s.run with windowLog := n.code :: s.run.windowLog }).log n

/-- Assert ALERT_N with a cause bit of the alert-cause register (R467). -/
def State.alert (s : State) (cause : Nat) : State :=
  let s' := if s.alerts = 0 then s.withSent (.pin 0 false :: s.sent) else s
  s'.withAlerts (s'.alerts ||| 2 ^ cause)

def State.emit (s : State) (x : Sent) : State := s.withSent (x :: s.sent)

/-- A report to every open Owner session. -/
def State.report (s : State) (status code : Nat) (detail : Bytes) : State := s.emit (.report status code detail)

/-- The next free value (log entry 2). -/
def State.nextFree (s : State) : State := s.withFresh (s.fresh + 1)

/-- Advance the reference count to the instant of an event; while REFCLK is absent it does not advance (R25). -/
def State.advance (s : State) (t : Nat) : State :=
  if s.clk.present && decide (s.clk.ref < t) then s.withClk { s.clk with ref := t, elapsed := s.clk.elapsed + (t - s.clk.ref) } else s

/-- Advance to an instant on the count of REFCLK cycles since power-on, which timers use. -/
def State.advanceTo (s : State) (e : Nat) : State := s.advance (s.clk.ref + (e - s.clk.elapsed))

/-! The logical core number (R3): die * 64 + cluster * 8 + core. -/

def dieOfCore (c : Nat) : Nat := c / 64
def clusterOfCore (c : Nat) : Nat := c / 8

/-- The physical C-die that carries a logical C-die (R13). -/
def State.physDie (s : State) (d : Nat) : Nat := s.dieMap.getD d 0

/-- The rank of the module in its slice. -/
def State.rank (s : State) : Nat :=
  match s.member with
  | some (_, r) => r
  | none => 0

/-- A reset in progress covers a die, by its target code (R428); an L0 or L1 reset covers every die. -/
def State.inReset (s : State) (code : Nat) : Bool :=
  match s.sup.reset with
  | none => false
  | some r => decide (r.level ≤ 1) || (decide (r.level = 2) && r.targets.any (fun t => t.die == code))

/-- Whether the ports of an N-die may come up: no reset covers it, or its stage 4 has completed. -/
def State.nDieUp (s : State) (n : Nat) : Bool :=
  match s.sup.reset with
  | none => true
  | some r => !s.inReset (0x20 + n) || decide (4 < r.stage)

/-- The route table in force for the module's slice (R265). -/
def State.tableInForce (s : State) : Option RouteTable :=
  match s.member with
  | some (sl, _) => (SMap.get SliceTables.blank s.routes sl).current
  | none => none

def State.memberCount (s : State) : Nat :=
  match s.tableInForce with
  | some t => t.members.length
  | none => 1

def State.epoch (s : State) : Nat :=
  match s.tableInForce with
  | some t => t.epoch
  | none => 0

/-- A rank with a module under the table epoch in force (R234). -/
def State.rankKnown (s : State) (r : Nat) : Bool :=
  match s.tableInForce with
  | some t => decide (r < t.members.length)
  | none => decide (r = 0)

end Sys2Proof.Machine
end

