-- ==== Sys2Proof/Machine/Scale.lean ====
section
/-!
DEFINITION. The scale state of a step: estimates, exponents and the entry that holds them (07_training_numerics R153 to R156).
-/

namespace Sys2Proof.Machine

/-- The larger of two non-negative FP32 codes. -/
def maxCodeOf (a b : W32) : W32 := if a.toNat < b.toNat then b else a

/-! Scale state (R153). -/

/-- Whether an estimate is at most L × 2^(t - h). -/
def coversAt (f : Fmt) (h : Nat) (t : Int) (est : W32) : Bool :=
  match decFP32 est with
  | .fin _ m e => magLe m e f.maxFinite.1 (f.maxFinite.2 + t - h)
  | _ => false

/-- The exponent of an estimate and the clamp bits of *Scale state entry*: the smallest t from −127 to 127 that covers it, or 127. -/
def scaleFor (f : Fmt) (h : Nat) (est : W32) : Int × Nat :=
  if (decFP32 est).isZero then (0, 0)
  else
    match (List.range 255).find? (fun (i : Nat) => coversAt f h ((i : Int) - 127) est) with
    | some 0 => (-127, if coversAt f h (-128) est then 4 else 0)
    | some i => ((i : Int) - 127, 0)
    | none => (127, 8)

/-- Whether a format selected for a gradient is scaled by t (R51, R153). -/
def fmtScales (code : Nat) : Bool := code != 2 && code != 6

/-- The combined tables that a step's estimates may use: sealed steps S − W − 1 to S − 2, not below 1 nor from before this RUN_START. -/
def State.historyOf (s : State) (step w : Nat) : List (SMap Range) :=
  (s.num.history.filter (fun e => decide (step ≤ e.1 + w + 1 ∧ e.1 + 2 ≤ step ∧ 1 ≤ e.1 ∧ s.run.sealedBase < e.1))).map (·.2)

/-- est(S), and whether it is initial_amax. -/
def State.estimate (s : State) (p : Policy) (step : Nat) (m : Managed) : W32 × Bool :=
  let a := (s.historyOf step p.history).foldl (fun a t => match SMap.find? t m.id with
    | some r => maxCodeOf a r.amax
    | none => a) 0
  if (decFP32 a).isZero then (m.amax0, true) else (a, false)

/-- The format in force of a managed tensor: its own, or the layer's choice for a format-selected one, which emulation turns off (R154, R163, R169). -/
def Managed.format (m : Managed) (emu : Bool) (formats : SMap Nat) : Nat := if m.fmtSel then (if emu then 2 else SMap.get 2 formats m.layer) else m.fmt

/-- The scale state entry of an estimate (R153, R156). A tensor that is not scale-managed keeps t = 0 and an estimate for its histogram (log entry
40). -/
def Managed.scaleEntry (m : Managed) (h fmt flags : Nat) (est : W32) : ScaleEntry :=
  let r := if m.scaled && !(m.fmtSel && !fmtScales fmt) then scaleFor ((Fmt.ofCode fmt).getD .fp32) h est else (0, 0)
  { t := r.1, fmt := fmt, flags := flags ||| r.2, est := est }

end Sys2Proof.Machine
end

