-- ==== Sys2Proof/Machine/Pairs.lean ====
section
/-!
DEFINITION. Where things lie in module memory: the interleave (08_memory_system R183, R190), the planes of a weight pair (09_near_memory_engines R205,
R206), the master values (07_training_numerics R165) and the version that a space 5 read takes (R207 to R210).
-/

namespace Sys2Proof.Machine

def mib2 : Nat := 2097152

/-- The M-die of a module address (R183), or of a byte of a spill region (R190). -/
def mdieOf (ma : Nat) : Nat := bits ma 10 8 ^^^ bits ma 20 18
def mdieOfSpill (ma : Nat) : Nat := bits ma 14 12 ^^^ bits ma 20 18
/-- The local address (R183). -/
def laOf (ma : Nat) : Nat := ma / 2048 * 256 + ma % 256

/-- The M-die of a byte of memory as its region is interleaved (R183, R190). -/
def State.dieAt (s : State) (ma : Nat) : Nat :=
  if s.mem.regions.any (fun e => e.2.spill != 0 && decide (e.2.base ≤ ma ∧ ma < e.2.base + e.2.size)) then mdieOfSpill ma else mdieOf ma

def State.mdie (s : State) (m : Nat) (f : MDie → MDie) : State :=
  s.withMem { s.mem with mdies := SMap.insert s.mem.mdies m (f (SMap.get MDie.blank s.mem.mdies m)) }

/-- Whether an uncorrectable atom lies in the husk, a weight buffer or a mirror copy (R194). -/
def State.inShard (s : State) (ma : Nat) : Bool :=
  let husk := match s.run.armed with
    | some a => a.husk
    | none => 0
  s.mem.regions.any (fun e => decide (e.2.base ≤ ma ∧ ma < e.2.base + e.2.size) && (e.2.kind == 1 || e.2.kind == 2 || (husk != 0 && e.1 == husk)))

/-- An uncorrectable atom of the shard marks it damaged (R194). -/
def State.markDamaged (s : State) (m ma step : Nat) : State :=
  if s.inShard ma then
    (s.withMem { s.mem with damaged := (ma / 256) :: s.mem.damaged.erase (ma / 256) }).log
      { code := 0x200B, source := srcM m, step := step, detail := leBytes 8 ma }
  else s

/-- An uncorrectable GDDR7 read: counted on its M-die with its address and a syndrome that is free (log entry 60), and logged; an atom of the shard
marks it damaged (R194, R197, R200). -/
def State.countUe (s : State) (ma step : Nat) : State :=
  let m := s.dieAt ma
  let syn := (Config.freeWord s.fresh).toNat % 65536
  let s1 := (s.nextFree.mdie m (fun d => { d with ue := sat32 (d.ue + 1), lastUeMa := some ma, lastUeSyn := syn })).log
    { code := 0x2001, source := srcM m, step := step, detail := leBytes 8 ma }
  s1.markDamaged m ma step

/-- An uncorrectable codeword of an SRAM store of a C-die: counted and logged (R198, R200). -/
def State.countSramUe (s : State) (src step : Nat) : State :=
  (s.withMem { s.mem with sramUe := SMap.insert s.mem.sramUe src (sat32 (SMap.get 0 s.mem.sramUe src + 1)) }).log { code := 0x2002, source := src, step := step }

/-! Shard planes (R205): sections at multiples of 2 MiB; within a section each plane starts at the next multiple of 64 bytes (log entry 9). -/

def plane4 (n : Nat) : Nat := roundUp 64 (4 * n)
def stateBytes (n : Nat) : Nat := 3 * plane4 n + roundUp 64 (2 * n)
def bufferOff (n b : Nat) : Nat := roundUp mib2 (2 * n) + b * roundUp mib2 (stateBytes n)
def pairBytes (n : Nat) : Nat := bufferOff n 0 + 2 * roundUp mib2 (stateBytes n)

/-- Rows and columns of a factored layer; none for a vector layer. -/
def Layer.factors (l : Layer) : Nat := if 1 < l.cols then l.count / l.cols + l.cols else 0
def Job.factorCount (j : Job) : Nat := (j.layers.map Layer.factors).sum
def factorSec (j : Job) (k : Nat) : Nat := k * roundUp mib2 (4 * j.factorCount)

/-- A plane of a state section: 0 W, 1 M1, 2 M2, 3 R (R205). -/
def planeAddr (sec n plane i : Nat) : Nat := sec + plane * plane4 n + (if plane = 3 then 2 * i else 4 * i)

def State.region (s : State) (r : Nat) : Option Region := SMap.find? s.mem.regions r
def State.regionBase (s : State) (r : Nat) : Nat :=
  match s.region r with
  | some g => g.base
  | none => 0

def State.readMem (s : State) (ma n : Nat) : Bytes := Memory.readBytes s.mem.cells ma n

/-- Write bytes. An atom that is written whole is no longer uncorrectable (R194). -/
def State.writeMem (s : State) (ma : Nat) (bs : Bytes) : State :=
  s.withMem { s.mem with cells := Memory.writeBytes s.mem.cells ma bs,
                         bad := SMap.keep (fun a => !decide (ma ≤ 256 * a ∧ 256 * a + 256 ≤ ma + bs.length)) s.mem.bad }

/-- Atoms that an engine has written again, element by element. -/
def State.clearAtoms (s : State) (atoms : List Nat) : State := s.withMem { s.mem with bad := SMap.keep (fun a => !atoms.contains a) s.mem.bad }

/-- The job in force that binds a weight pair (R216). -/
def State.pairJob (s : State) (p : Nat) : Option Job := (s.jobs.find? (fun e => e.2.pair == p)).map (·.2)

def State.pairDie (s : State) (p m : Nat) : PairDie := SMap.get PairDie.blank s.mem.pairs (p * 8 + m)
def State.setPairDie (s : State) (p m : Nat) (d : PairDie) : State := s.withMem { s.mem with pairs := SMap.insert s.mem.pairs (p * 8 + m) d }

def segSize : Nat := 16384

/-- The M-die that works on element i of a pair: the one that holds its W atoms (log entry 10). -/
def State.ownerDie (s : State) (p i : Nat) : Nat := mdieOf (s.regionBase p + 4 * i)

/-- The buffer that version v is written to (R207). -/
def bufOf (v0 v : Nat) : Nat := (v - v0) % 2

def State.v0 (s : State) (p : Nat) : Nat := SMap.get 0 s.mem.pairV0 p

/-- A master value (R165): FP32, or a BF16 hi with a signed remainder in units of q(hi). Without a remainder it is hi itself, so that −0 keeps its
sign (DEDUCED, log entry 65). -/
def masterUlp (hi : Nat) : Int := if bits hi 14 7 = 0 then -149 else (bits hi 14 7 : Int) - 127 - 23
def masterValue (mode w : Nat) : Val :=
  if mode = 0 then fFP32.decode (w % 2 ^ 32)
  else
    let hi := bits w 31 16
    let r := signedOf 16 w
    if r = 0 then fBF16.decode hi else (vAdd (fBF16.decode hi) (.fin (decide (r < 0)) r.natAbs (masterUlp hi))).1

/-- The second moment M2 + R × q (R206); M2 itself where R is 0. -/
def momentUlp (m2 : Nat) : Int := if bits m2 30 23 = 0 then -165 else (bits m2 30 23 : Int) - 127 - 39
def momentValue (m2 r : Nat) : Val :=
  let q := signedOf 16 r
  if q = 0 then fFP32.decode (m2 % 2 ^ 32) else (vAdd (fFP32.decode (m2 % 2 ^ 32)) (.fin (decide (q < 0)) q.natAbs (momentUlp m2))).1

/-- The managed entry of a tensor in a step's policy (R148). -/
def Policy.entry (p : Policy) (tid : Nat) : Option Managed := p.entries.find? (fun e => e.id == tid)
def State.policyOf (s : State) (step : Nat) : Policy := ((s.stepRec step).policy).getD s.num.policy

/-- The WC format and scale exponent of version v of a job (R154, R221): the policy's format and t of step v + 1, worked out from the policy and the
history where that step has not begun (the last step of a run, log entry 203). -/
def State.wcFormat (s : State) (j : Job) (v : Nat) : Fmt × Int :=
  match SMap.find? (s.stepRec (v + 1)).scale j.wcId with
  | some e => ((Fmt.ofCode e.fmt).getD .fp32, e.t)
  | none =>
    let p := s.policyOf (v + 1)
    match p.entry j.wcId with
    | some m => ((Fmt.ofCode m.fmt).getD .fp32, (m.scaleEntry p.headroom m.fmt 0 (s.estimate p (v + 1) m).1).t)
    | none => (.fp32, 0)

def wcWidth (f : Fmt) : Nat := f.elemBits / 8

/-- The number of random bits of a descriptor's k field (R107), or 8 in QM12 emulation (R169). -/
def srBits (emu : Bool) (k : Nat) : Nat := if emu then 8 else if k = 0 then 12 else k

def State.seed (s : State) : Word :=
  match s.run.armed with
  | some a => a.seed
  | none => 0

/-- Rounding of element `index` under the generator inputs of R104. -/
def rounding (emu sr : Bool) (k : Nat) (seed : Word) (step tid stream index draw : Nat) : Rnd :=
  if sr then .sr (srBits emu k) (laneRandom emu seed (BitVec.ofNat 64 step) tid stream (BitVec.ofNat 64 index) (BitVec.ofNat 32 draw)) else .rne

/-- In QM12 emulation a subnormal result is written as a zero with its sign and counts as an underflow (R169). -/
def emuFlush (emu : Bool) (f : Fmt) (c : Conv) : Conv :=
  match emu, f.float? with
  | true, some ff =>
    match ff.decode c.code with
    | .fin s (m + 1) e =>
      if floorLog2 (m + 1) e < 1 - (ff.bias : Int) then { code := if s then ff.signBit else 0, underflow := true } else c
    | _ => c
  | _, _ => c

/-- Conversion to a plain format in force (R65, R66, R169). -/
def convertTo (emu : Bool) (f : Fmt) (t : Int) (nanMode : Bool) (r : Rnd) (v : Val) : Conv := emuFlush emu f (f.convertPlain t nanMode r v)

/-- The WC code of element i of version v, from its master value (R210, R221). -/
def State.wcCode (s : State) (j : Job) (v i : Nat) (x : Val) : Conv :=
  let ft := s.wcFormat j v
  convertTo s.num.emu ft.1 ft.2 j.wcNan (rounding s.num.emu j.wcSr j.srK s.seed v j.wcId 0 i j.wcDraw.toNat) x

/-- Where a space 5 read of version v on an M-die is taken from (R209). -/
inductive PairSource where
  | wc
  | buffer (b : Nat)
  | wait
  | gone
  deriving DecidableEq, Repr

def planeHas (st : PlaneState) (v : Nat) : Bool := st == .held v || st == .writing v

/-- The first case of R209 that applies to an element in segment `seg`. While the WC plane is rebuilt, reads are taken from the buffer (R211). -/
def pairSource (d : PairDie) (v seg : Nat) : PairSource :=
  let ready := fun (st : PlaneState) (x : PairSource) => if st == .held v || decide (seg < d.done) then x else .wait
  if planeHas d.wc v && d.rebuild.isNone then ready d.wc .wc
  else if planeHas d.buf0 v then ready d.buf0 (.buffer 0)
  else if planeHas d.buf1 v then ready d.buf1 (.buffer 1)
  else .gone

/-- The working-format code of element i of version v, where it can be read now. -/
def State.pairCode (s : State) (p v i : Nat) : Nat :=
  match s.pairJob p with
  | none => 0
  | some j =>
    let base := s.regionBase p
    let w := wcWidth (s.wcFormat j v).1
    match pairSource (s.pairDie p (s.ownerDie p i)) v (i / segSize) with
    | .buffer b =>
      let m := leNat (s.readMem (base + planeAddr (bufferOff j.n b) j.n 0 i) 4)
      (s.wcCode j v i (masterValue s.num.policy.masterMode m)).code
    | _ => leNat (s.readMem (base + i * w) w)

end Sys2Proof.Machine
end

