-- ==== Sys2Proof/Machine/Flags.lean ====
section
/-!
DEFINITION. Numeric status, first-event records, conversion counters and range records: 04_matrix_engine R87 to R90, 03_number_formats R67,
07_training_numerics R151, 10_synchronisation R248.
-/

namespace Sys2Proof.Machine

/-! The exceptions of a core (06_core_instruction_set R144). -/

def xShape : Nat := 0x01
def xRange : Nat := 0x02
def xFormat : Nat := 0x03
def xKAlign : Nat := 0x04
def xMxAxis : Nat := 0x05
def xMxAlign : Nat := 0x06
def xUnwritten : Nat := 0x07
def xEcc : Nat := 0x08
def xVersion : Nat := 0x09
def xSpace : Nat := 0x0A
def xDescriptor : Nat := 0x0B
def xFetch : Nat := 0x0C
def xLoopDepth : Nat := 0x0D
def xLoopExit : Nat := 0x0E
def xCallDepth : Nat := 0x0F
def xOverlay : Nat := 0x10
def xLimit : Nat := 0x11
def xTimeout : Nat := 0x12
def xPoisoned : Nat := 0x13
def xSaturate : Nat := 0x14
def xHandle : Nat := 0x15
def xRaise : Nat := 0x16

/-- Place of a kind in the order of R89: INVALID, OVERFLOW, NAN_IN, INF_IN, SATURATE, UNDERFLOW, BLOCK_FLUSH. -/
def kindOrder (k : Nat) : Nat :=
  if k = kInvalid then 0 else if k = kOverflow then 1 else if k = kNanIn then 2 else if k = kInfIn then 3 else if k = kSaturate then 4
  else if k = kUnderflow then 5 else 6

/-- Left-to-right comparison of two keys. -/
def keyLt : List Nat → List Nat → Bool
  | [], [] => false
  | [], _ :: _ => true
  | _ :: _, [] => false
  | a :: as, b :: bs => decide (a < b) || (a == b && keyLt as bs)

/-- What caused events: the engine (0 matrix, 1 vector, 2 load), the output tensor, the operands' tensors, and the clause and instruction index. -/
structure Cause where
  unit   : Nat
  out    : Nat
  a      : Nat
  b      : Nat
  clause : Nat
  index  : Nat
  core   : Nat
  deriving DecidableEq, Repr

def Ev.key (w : Cause) (e : Ev) : List Nat := [w.clause, w.index, e.row, e.col, e.kgroup, kindOrder e.kind]

/-- The 32 bytes of a first-event record (R89). -/
def Ev.record (w : Cause) (e : Ev) : Bytes :=
  leBytes 4 (w.out % 2 ^ 24 + e.kind * 2 ^ 24 + w.unit * 2 ^ 28 + e.pass * 2 ^ 30) ++ leBytes 4 (w.a % 2 ^ 24) ++ leBytes 4 (w.b % 2 ^ 24)
    ++ leBytes 4 e.row ++ leBytes 4 e.col ++ leBytes 4 e.kgroup ++ leBytes 2 w.clause ++ leBytes 2 w.core ++ leBytes 4 w.index

/-- Whether a kind is eligible under CAPTURE_MASK, bits 22:16 of the status word. -/
def captured (status : W32) (kind : Nat) : Bool := bit status.toNat (16 + kind)

/-- Whether a first-event record takes an event: it holds none, or one with a later key (R89). -/
def takes (held : Option (List Nat × Bytes)) (key : List Nat) : Bool :=
  match held with
  | none => true
  | some h => keyLt key h.1

/-- Keep the earlier of the record held and a new event (R89). -/
def earlier (held : Option (List Nat × Bytes)) (key : List Nat) (rec : Bytes) : Option (List Nat × Bytes) :=
  if takes held key then some (key, rec) else held

/-- One event in the program's status word and first-event record (R87, R89); every set of a bit, FE_VALID among them, counts in SET_COUNT (R248). -/
def Core.noteEvent (k : Core) (w : Cause) (e : Ev) : Core :=
  let st := k.status ||| BitVec.ofNat 32 (2 ^ e.kind)
  let held := k.first.map (fun x => (x.key, x.bytes))
  if captured k.status e.kind && takes held (e.key w) then
    { k with status := st ||| 0x80#32, stSets := min (k.stSets + 2) 0xFFFFFF, first := some { key := e.key w, bytes := e.record w } }
  else { k with status := st, stSets := min (k.stSets + 1) 0xFFFFFF }

/-- One event in a step copy, under the capture mask in force (R88). -/
def StepCopy.note (c : StepCopy) (status : W32) (w : Cause) (e : Ev) : StepCopy :=
  { bits := c.bits ||| 2 ^ e.kind,
    first := if captured status e.kind then earlier c.first (e.key w) (e.record w) else c.first }

def EntryRun.isEval (e : EntryRun) : Bool :=
  match e.kind with
  | .evaluation _ => true
  | .training _ => false

def EntryRun.lag (e : EntryRun) : Nat :=
  match e.kind with
  | .training l => l
  | .evaluation _ => 0

/-- Events of an instruction of an entry: the program's copy always, the step copy for a training entry (R88). -/
def State.noteEvents (s : State) (c : Nat) (e : EntryRun) (w : Cause) (evs : List Ev) : State :=
  if evs.isEmpty then s
  else
    let status := (s.core c).status
    let s' := s.setCore c (evs.foldl (fun k ev => k.noteEvent w ev) (s.core c))
    if e.isEval then s'
    else s'.mapStep e.step (fun r =>
      { r with copies := SMap.insert r.copies c (evs.foldl (fun q ev => q.note status w ev) (SMap.get StepCopy.blank r.copies c)) })

/-! Conversion counters (R67). -/

def addSat (n d : Nat) : Nat × Bool := if n + d < 0xFFFFFFFF then (n + d, false) else (if d = 0 then (n, false) else (0xFFFFFFFF, true))

/-- Counter increments of a conversion. -/
structure Charge where
  sat   : Nat := 0
  nan   : Nat := 0
  flush : Nat := 0
  under : Nat := 0
  clamp : Nat := 0
  deriving DecidableEq, Repr

def Charge.add (a b : Charge) : Charge :=
  { sat := a.sat + b.sat, nan := a.nan + b.nan, flush := a.flush + b.flush, under := a.under + b.under, clamp := a.clamp + b.clamp }

def Counters.charge (k : Counters) (c : Charge) (nanMode : Bool) : Counters :=
  let a := addSat k.sat c.sat
  let b := addSat k.nan c.nan
  let d := addSat k.flush c.flush
  let u := addSat k.under c.under
  let l := addSat k.clamp c.clamp
  { sat := a.1, nan := b.1, flush := d.1, under := u.1, clamp := l.1, stopped := k.stopped || a.2 || b.2 || d.2 || u.2 || l.2, nanMode := nanMode }

/-- Charge a step's counters for a tensor; tensor ID 0 has none (R67, *Tensor descriptor*). -/
def State.charge (s : State) (step tid : Nat) (c : Charge) (nanMode : Bool) : State :=
  if tid = 0 then s
  else s.mapStep step (fun r => { r with counters := SMap.insert r.counters tid ((SMap.get Counters.blank r.counters tid).charge c nanMode) })

/-- Status kinds and counter increments of one plain conversion (R65, R66). -/
def Conv.kinds (c : Conv) : List Nat :=
  kindIf (c.sat || c.satNan) kSaturate ++ kindIf c.overflow kOverflow ++ kindIf c.underflow kUnderflow ++ kindIf c.infIn kInfIn
def Conv.charge (c : Conv) : Charge := { sat := bitNat c.sat, nan := bitNat c.nanOut + bitNat c.satNan, under := bitNat c.underflow }

/-! Range records (R151). -/

/-- The magnitude of a finite value rounded towards +infinity to FP32, as a code. -/
def amaxCode (v : Val) : W32 :=
  match vAbs v with
  | .fin _ m e =>
    if m = 0 then 0
    else
      let q := fFP32.lsbOf m e
      let d := m * 2 ^ (e - q).toNat
      let sh := 2 ^ (q - e).toNat
      let n := if q ≤ e then d else (m + sh - 1) / sh
      encFP32 (.fin false n q)
  | _ => 0

def histSlot (rho : Int) (m : Nat) (e : Int) : Nat := (max 0 (min 31 (rho - floorLog2 m e))).toNat

/-- Add one value to a range record; `rho` is given for a format-selected tensor. -/
def Range.add (r : Range) (rho : Option Int) (v : Val) : Range :=
  match v with
  | .fin _ m e =>
    if m = 0 then r
    else
      let h := match rho with
        | some p => let j := histSlot p m e; SMap.insert r.hist j (sat32 (SMap.get 0 r.hist j + 1))
        | none => r.hist
      { r with amax := maxCodeOf r.amax (amaxCode v), nonzero := sat32 (r.nonzero + 1), hist := h }
  | _ => r

/-- floor(log2 est) for the estimate in force, or 0 where it is zero (R151). -/
def rhoOf (est : W32) : Int :=
  match decFP32 est with
  | .fin _ m e => if m = 0 then 0 else floorLog2 m e
  | _ => 0

/-- Group positioned values into blocks of 32 along dimension 0: the block of logical index i is (i / e0, i mod e0 / 32). -/
def blocksAlong0 (e0 : Nat) : List (Nat × Val) → List (List Val)
  | [] => []
  | (i, v) :: rest =>
    let tail := blocksAlong0 e0 rest
    match rest, tail with
    | (j, _) :: _, b :: bs => if i / e0 = j / e0 ∧ i % e0 / 32 = j % e0 / 32 then (v :: b) :: bs else [v] :: b :: bs
    | _, _ => [v] :: tail

/-- Values that an encoding to MXFP8 E4M3 would flush (R151, mx_lost). -/
def mxLost (vals : List Val) : Nat := (encodeMxBlock .mxE4M3 false (fun _ => .rne) vals).flushed.length

/-- Charge a step's range record for the values converted into a managed tensor; `pos` gives logical indices. -/
def State.noteRange (s : State) (step tid e0 : Nat) (vals : List (Nat × Val)) : State :=
  match (s.policyOf step).entry tid with
  | none => s
  | some m =>
    s.mapStep step (fun r =>
      let rho := if m.fmtSel then some (match SMap.find? r.scale tid with
        | some e => rhoOf e.est
        | none => 0) else none
      let g := vals.foldl (fun g p => g.add rho p.2) (SMap.get Range.blank r.ranges tid)
      let g := if m.fmtSel then { g with mxLost := sat32 (g.mxLost + ((blocksAlong0 e0 vals).map mxLost).sum) } else g
      { r with ranges := SMap.insert r.ranges tid g })

end Sys2Proof.Machine
end

