-- ==== Sys2Proof/Machine/Operands.lean ====
section
/-!
DEFINITION. Operand forms of a core: tensor descriptors (06_core_instruction_set R126, R127), the spaces they name, reading elements (R50 to R53,
R115, R116, R209), writing elements with conversion (R65 to R68, R86, R104 to R107, R133, R192), and scalar and address operands.
-/

namespace Sys2Proof.Machine

/-- A tensor descriptor's fields. -/
structure Desc where
  tid      : Nat
  fmt      : Fmt
  t        : Int
  space    : Nat
  residual : Bool
  axis1    : Bool
  nanMode  : Bool
  sr       : Bool
  k        : Nat
  dims     : Nat
  region   : Nat
  draw     : Nat
  base     : Nat
  scale    : Nat
  e0       : Nat
  e1       : Nat
  e2       : Nat
  e3       : Nat
  s1       : Nat
  s2       : Nat
  s3       : Nat
  deriving DecidableEq, Repr

def Desc.parse (b : Bytes) : Desc :=
  let fl := field b 7 1
  { tid := bits (field b 0 4) 23 0, fmt := (Fmt.ofCode (bits (field b 4 1) 3 0)).getD .fp32, t := signedOf 8 (field b 5 1),
    space := bits (field b 6 1) 2 0, residual := bit fl 0, axis1 := bit fl 1, nanMode := bit fl 2, sr := bit fl 3, k := field b 8 1,
    dims := bits (field b 9 1) 2 0, region := field b 10 2, draw := field b 12 4, base := field b 16 8, scale := field b 24 8,
    e0 := field b 32 4, e1 := field b 36 4, e2 := field b 40 4, e3 := field b 44 4, s1 := field b 48 4, s2 := field b 52 4, s3 := field b 56 4 }

/-- The first fault of a descriptor's bytes, as an offset (*Tensor descriptor*, R48, R51, R107, R109). -/
def descFault (b : Bytes) : Option Nat :=
  let d := Desc.parse b
  let dimsOk := decide (1 ≤ d.dims ∧ d.dims ≤ 4)
  let extOk := fun (i e : Nat) => if i < d.dims then decide (1 ≤ e ∧ e ≤ 2 ^ 24) else decide (e = 1)
  let srOk := d.k == 0 || decide (4 ≤ d.k ∧ d.k ≤ 16)
  let regOk :=
    if d.space = 2 then decide (d.region / 256 < 8 ∧ d.region % 256 < 8)
    else if d.space = 4 ∨ d.space = 5 then decide (1 ≤ d.region ∧ d.region ≤ 4095)
    else decide (d.region = 0)
  let tOk := if d.fmt.scaled then decide (d.t ≠ -128) else decide (d.t = 0)
  let checks : List (Bool × Nat) :=
    [ (allZero b 3 1, 0), ((Fmt.ofCode (field b 4 1)).isSome, 4), (tOk, 5), (decide (field b 6 1 ≤ 6), 6),
      (decide (field b 7 1 < 16) && (!d.residual || (d.fmt == .fp32 && !d.sr)), 7), (srOk, 8), (dimsOk && decide (field b 9 1 < 8), 9),
      (regOk, 10), (decide (d.base % 64 = 0), 16), (d.fmt.isMx || d.scale == 0, 24), (extOk 0 d.e0, 32), (extOk 1 d.e1, 36),
      (extOk 2 d.e2, 40), (extOk 3 d.e3, 44), (decide (d.s1 % 64 = 0), 48), (decide (d.s2 % 64 = 0), 52), (decide (d.s3 % 64 = 0), 56),
      (allZero b 60 4, 60) ]
  (checks.find? (fun c => !c.1)).map (·.2)

def Desc.count (d : Desc) : Nat := d.e0 * d.e1 * d.e2 * d.e3

/-- Coordinates of logical index i (R126). -/
def Desc.coords (d : Desc) (i : Nat) : Nat × Nat × Nat × Nat :=
  (i % d.e0, i / d.e0 % d.e1, i / (d.e0 * d.e1) % d.e2, i / (d.e0 * d.e1 * d.e2))

/-- A row offset along dimension 1 (R128). -/
def Desc.move (d : Desc) (rows : Nat) : Desc :=
  let blocks := if !d.fmt.isMx then 0 else if d.axis1 then rows / 32 * d.e0 else rows * ceilDiv d.e0 32
  { d with base := d.base + rows * d.s1, scale := if d.fmt.isMx then d.scale + blocks else d.scale }

/-- Byte address of a plain element. -/
def Desc.addr (d : Desc) (i : Nat) : Nat :=
  let c := d.coords i
  d.base + c.1 * (d.fmt.elemBits / 8) + c.2.1 * d.s1 + c.2.2.1 * d.s2 + c.2.2.2 * d.s3

/-- The block of an MX element: its place in the block, its record's address, its scale byte's address (R126). -/
def Desc.block (d : Desc) (i : Nat) : Nat × Nat × Nat :=
  let c := d.coords i
  let hi := c.2.2.1 * d.s2 + c.2.2.2 * d.s3
  let up := c.2.2.1 + d.e2 * c.2.2.2
  if d.axis1 then
    (c.2.1 % 32, d.base + (c.2.1 / 32 * 32) * d.s1 + hi + c.1 * d.fmt.recordBytes,
      d.scale + c.1 + d.e0 * (c.2.1 / 32 + ceilDiv d.e1 32 * up))
  else
    (c.1 % 32, d.base + c.2.1 * d.s1 + hi + c.1 / 32 * d.fmt.recordBytes,
      d.scale + c.1 / 32 + ceilDiv d.e0 32 * (c.2.1 + d.e1 * up))

/-- The byte spans that element i occupies. -/
def Desc.spans (d : Desc) (i : Nat) : List (Nat × Nat) :=
  if d.fmt.isMx then [((d.block i).2.1, d.fmt.recordBytes), ((d.block i).2.2, 1)] else [(d.addr i, d.fmt.elemBits / 8)]

/-- Elements first to first + n - 1. -/
def elems (first n : Nat) : List Nat := (List.range n).map (first + ·)

/-- A place that a descriptor's addresses count in (*Descriptor spaces*). -/
inductive Place where
  | own (c : Nat)
  | cluster (n : Nat)
  | staging
  | mem (base size : Nat)
  | recast (base size : Nat)
  | pair (region version size : Nat)
  deriving DecidableEq, Repr

/-- The overlay area of a core in bytes: units of 64 KiB (R138). -/
def overlayBytes (k : Core) : Nat :=
  match k.prog with
  | some p => roundUp 65536 (8 * p.overlay.length)
  | none => 0

/-- The cluster store left for data (R138). -/
def State.clusterSize (s : State) (n : Nat) : Nat := 16777216 - ((List.range 8).map (fun k => overlayBytes (s.core (8 * n + k)))).sum

/-- The own husk slot that holds a step (R283, R285). -/
def State.huskSlot (s : State) (step : Nat) : Option Nat :=
  (List.range 3).find? (fun i => match s.run.husk[i]? with
    | some h => h.state != .free && h.step == step
    | none => false)

def State.huskEntrySize (s : State) : Nat :=
  match s.run.armed with
  | some a => match s.region a.husk with
    | some g => g.size / 6 / mib2 * mib2
    | none => 0
  | none => 0

def State.huskBase (s : State) (slot : Nat) : Nat :=
  match s.run.armed with
  | some a => s.regionBase a.husk + slot * s.huskEntrySize
  | none => 0

/-- The version a space 5 read wants: S - 1, or the sealed version of an evaluation (R127). -/
def EntryRun.version (e : EntryRun) : Nat := if e.isEval then e.step else e.step - 1

/-- The place of a descriptor, or the exception that naming it raises (R127). -/
def State.place (s : State) (c : Nat) (e : EntryRun) (d : Desc) : Except Nat Place :=
  match d.space with
  | 0 => .ok (.own c)
  | 1 => .ok (.cluster (clusterOfCore c))
  | 2 => .ok (.cluster (d.region / 256 * 8 + d.region % 256))
  | 3 => .ok .staging
  | 4 => match s.region d.region with
    | some g => .ok (if g.spill = 2 then .recast g.base g.size else .mem g.base g.size)
    | none => .error xRange
  | 5 => match s.pairJob d.region with
    | some j => .ok (.pair d.region e.version (j.n * wcWidth (s.wcFormat j e.version).1))
    | none => .error xRange
  | _ => if e.isEval then .error xSpace else
    match s.huskSlot e.step with
    | some i => .ok (.mem (s.huskBase i) s.huskEntrySize)
    | none => .error xRange

def State.placeSize (s : State) : Place → Nat
  | .own _ => 0x400000
  | .cluster n => s.clusterSize n
  | .staging => 1920 * 1048576
  | .mem _ z => z
  | .recast _ z => z
  | .pair _ _ z => z

def State.clusterStore (s : State) (n : Nat) : Store := SMap.get Store.blank s.mem.clusters n

def State.storeOf (s : State) : Place → Option Store
  | .own c => some (s.core c).store
  | .cluster n => some (s.clusterStore n)
  | .staging => some s.mem.staging
  | _ => none

/-- A number that names an SRAM store, for its uncorrectable codewords. -/
def Place.unit : Place → Nat
  | .own c => c
  | .cluster n => 512 + n
  | .staging => 576
  | _ => 577

/-- Where an uncorrectable codeword was read, beside the exception code: 256 in an operand store, 512 in a cluster store, 768 in the staging store, each
with 1,024 times its line; in GDDR7 nothing, with 1,024 times the atom's number and one. -/
def Place.eccWhere : Place → Nat
  | .own _ => 256
  | .cluster _ => 512
  | .staging => 768
  | _ => 0

/-- The lines of an SRAM store that a write covers whole hold what it wrote; they are no longer uncorrectable. -/
def State.mendStore (s : State) (unit a n : Nat) : State :=
  s.withMem { s.mem with badStore := SMap.keep (fun k => !(k / 2 ^ 32 == unit && decide (a ≤ 64 * (k % 2 ^ 32) ∧ 64 * (k % 2 ^ 32) + 64 ≤ a + n))) s.mem.badStore }

/-- What stands in the way of a read of `n` bytes at `a`: an exception, or a wait (`none` inside the error) (R115, R116, R194, R209). -/
def State.readCheck (s : State) (p : Place) (a n : Nat) : Except (Option Nat) Unit :=
  match s.storeOf p with
  | some st =>
    if !st.readable a n then .error (some xUnwritten)
    else
      match (linesOf a n).find? (fun l => SMap.get false s.mem.badStore (p.unit * 2 ^ 32 + l)) with
      | some l => .error (some (xEcc + p.eccWhere + 1024 * l))
      | none => .ok ()
  | none =>
    let read := fun (ma len : Nat) => match ((elems (ma / 256) ((ma + len - 1) / 256 - ma / 256 + 1)).find? (fun i => SMap.get false s.mem.bad i)) with
      | some i => (.error (some (xEcc + 1024 * (i + 1))) : Except (Option Nat) Unit)
      | none => .ok ()
    match p with
    | .mem b _ => read (b + a) n
    | .recast b _ => read (b + a) n
    | .pair r v _ =>
      match s.pairJob r with
      | none => .error (some xVersion)
      | some j =>
        let w := wcWidth (s.wcFormat j v).1
        let i := a / w
        match pairSource (s.pairDie r (s.ownerDie r i)) v (i / segSize) with
        | .gone => .error (some xVersion)
        | .wait => .error none
        | .wc => read (s.regionBase r + a) n
        | .buffer k => read (s.regionBase r + planeAddr (bufferOff j.n k) j.n 0 i) 4
    | _ => .ok ()

/-- Bytes of a place. -/
def State.placeBytes (s : State) (p : Place) (a n : Nat) : Bytes :=
  match s.storeOf p with
  | some st => st.read a n
  | none =>
    match p with
    | .mem b _ => s.readMem (b + a) n
    | .recast b _ => s.readMem (b + a) n
    | .pair r v _ =>
      match s.pairJob r with
      | some j =>
        let w := wcWidth (s.wcFormat j v).1
        leBytes n (s.pairCode r v (a / w))
      | none => zeros n
    | _ => zeros n

def State.writePlace (s : State) (p : Place) (a : Nat) (bs : Bytes) : State :=
  match p with
  | .own c => (s.setCore c { s.core c with store := (s.core c).store.write a bs }).mendStore c a bs.length
  | .cluster n => (s.withMem { s.mem with clusters := SMap.insert s.mem.clusters n ((s.clusterStore n).write a bs) }).mendStore (512 + n) a bs.length
  | .staging => (s.withMem { s.mem with staging := s.mem.staging.write a bs }).mendStore 576 a bs.length
  | .mem b _ => s.writeMem (b + a) bs
  | .recast b _ => s.writeMem (b + a) bs
  | .pair _ _ _ => s

/-- Atoms whose every byte lies in the stretches just written hold data again (R194). -/
def State.mendAtoms (s : State) (spans : List (Nat × Nat)) : State :=
  let whole := fun (a : Nat) => (List.range 256).all (fun k => spans.any (fun x => decide (x.1 ≤ 256 * a + k ∧ 256 * a + k < x.1 + x.2)))
  s.withMem { s.mem with bad := SMap.keep (fun a => !whole a) s.mem.bad }

/-- The same for stretches of a place in module memory. -/
def State.mendPlace (s : State) (p : Place) (spans : List (Nat × Nat)) : State :=
  match p with
  | .mem b _ => s.mendAtoms (spans.map (fun x => (b + x.1, x.2)))
  | .recast b _ => s.mendAtoms (spans.map (fun x => (b + x.1, x.2)))
  | _ => s

/-- Every listed element lies inside the place (R128, R184). -/
def State.inside (s : State) (p : Place) (d : Desc) (is : List Nat) : Bool :=
  is.all (fun i => (d.spans i).all (fun x => decide (x.1 + x.2 ≤ s.placeSize p)))

/-- The first obstacle to reading the listed elements. -/
def State.checkElems (s : State) (p : Place) (d : Desc) (is : List Nat) : Except (Option Nat) Unit :=
  (is.flatMap d.spans).foldlM (fun _ x => s.readCheck p x.1 x.2) ()

/-- The exact value of element i (R50 to R52). In a re-cast region it is the stored block element (R192). -/
def State.elemValue (s : State) (p : Place) (d : Desc) (i : Nat) : Val :=
  match p with
  | .recast b _ =>
    match SMap.find? s.mem.recast (b + d.addr i) with
    | some x => (d.fmt.convertPlain d.t false .rne (mxValue .mxE4M3 x.1 x.2)).code |> d.fmt.decodePlain d.t
    | none => .fin false 0 0
  | _ =>
    if d.fmt.isMx then
      let bl := d.block i
      mxValue d.fmt (leNat (s.placeBytes p bl.2.2 1)) (recordCode d.fmt (s.placeBytes p bl.2.1 d.fmt.recordBytes) bl.1)
    else d.fmt.decodePlain d.t (leNat (s.placeBytes p (d.addr i) (d.fmt.elemBits / 8)))

/-- Charge a read of a re-cast region: the reading tensor's conversion (R192). -/
def State.recastCharge (s : State) (p : Place) (d : Desc) (e : EntryRun) (is : List Nat) : State :=
  match p with
  | .recast b _ =>
    if e.isEval then s
    else
      let cs := is.filterMap (fun i => (SMap.find? s.mem.recast (b + d.addr i)).map (fun x =>
        (d.fmt.convertPlain d.t false .rne (mxValue .mxE4M3 x.1 x.2)).charge))
      s.charge e.step d.tid (cs.foldl Charge.add {}) d.nanMode
  | _ => s

/-! Writing with conversion. -/

/-- One written element: its number, the value before conversion, its key index. -/
structure Item where
  i   : Nat
  v   : Val
  idx : Nat
  deriving DecidableEq, Repr

/-- The outcome of converting items: places to write, events by element, and the charge. -/
structure Written where
  writes : List (Nat × Bytes)
  events : List (Nat × List Nat)
  charge : Charge
  deriving DecidableEq, Repr

def Desc.rnd (d : Desc) (emu : Bool) (seed : Word) (e : EntryRun) (idx : Nat) : Rnd :=
  rounding emu d.sr d.k seed e.step d.tid (if e.isEval then 0x80 else 0) idx d.draw

/-- Plain formats: each element on its own (R65). -/
def Desc.convertItems (d : Desc) (emu : Bool) (rnd : Nat → Rnd) (items : List Item) : Written :=
  let cs := items.map (fun x => (x, convertTo emu d.fmt d.t d.nanMode (rnd x.idx) x.v))
  { writes := cs.map (fun p => (d.addr p.1.i, leBytes (d.fmt.elemBits / 8) p.2.code)),
    events := (cs.filter (fun p => !p.2.kinds.isEmpty)).map (fun p => (p.1.i, p.2.kinds)),
    charge := (cs.map (fun p => p.2.charge)).foldl Charge.add {} }

/-- How many elements the block of element i has (R86: a short block at the tensor's edge). -/
def Desc.blockLen (d : Desc) (i : Nat) : Nat :=
  let c := d.coords i
  let x := if d.axis1 then c.2.1 else c.1
  min 32 ((if d.axis1 then d.e1 else d.e0) - x / 32 * 32)

/-- The items of one block, by scale byte address. -/
def Desc.blockItems (d : Desc) (items : List Item) (sa : Nat) : List Item := items.filter (fun x => (d.block x.i).2.2 == sa)

def dedup (l : List Nat) : List Nat := l.foldl (fun acc x => if acc.contains x then acc else acc ++ [x]) []

/-- One MX block of a write (R54 to R58). -/
def Desc.encodeBlock (d : Desc) (rnd : Nat → Rnd) (xs : List Item) (sa : Nat) : Written :=
  let bl := encodeMxBlock d.fmt d.nanMode (fun j => rnd ((xs[j]?.map (·.idx)).getD 0)) (xs.map (·.v))
  let ra := ((xs.head?.map (fun x => (d.block x.i).2.1)).getD 0)
  let evAt : Nat → List Nat → List (Nat × List Nat) := fun k l => l.filterMap (fun j => (xs[j]?).map (fun x => (x.i, [k])))
  { writes := [(ra, packRecord d.fmt bl.codes), (sa, leBytes 1 bl.scale)],
    events := evAt kSaturate (bl.sat ++ bl.satNan) ++ evAt kFlush bl.flushed ++ evAt kInfIn bl.infIn,
    charge := { sat := bl.sat.length, nan := bl.nanOut, flush := bl.flushed.length, clamp := bitNat bl.clamped } }

/-- MX formats: block by block; an incomplete block spans instructions and raises MX_ALIGN (R86, log entry 11). -/
def Desc.convertBlocks (d : Desc) (rnd : Nat → Rnd) (items : List Item) : Except Nat Written :=
  let sas := dedup (items.map (fun x => (d.block x.i).2.2))
  if sas.any (fun sa =>
      let xs := d.blockItems items sa
      xs.length != ((xs.head?.map (fun x => d.blockLen x.i)).getD 0)) then .error xMxAlign
  else
    .ok (sas.foldl (fun acc sa =>
      let w := d.encodeBlock rnd (d.blockItems items sa) sa
      { writes := acc.writes ++ w.writes, events := acc.events ++ w.events, charge := acc.charge.add w.charge })
      { writes := [], events := [], charge := {} })

/-- The row and column of an element within its tensor (R89): dimension 1 with the outer dimensions folded in, and dimension 0. -/
def Desc.rowCol (d : Desc) (idx : Nat) : Nat × Nat := (idx / d.e0, idx % d.e0)

/-- Re-cast the blocks of 32 along dimension 0 that the items touch, merging with what is stored (R190, R192). -/
def State.writeRecast (s : State) (base : Nat) (d : Desc) (items : List Item) : State × Charge :=
  let starts := dedup (items.map (fun x => x.i / d.e0 * d.e0 + x.i % d.e0 / 32 * 32))
  starts.foldl (fun acc b =>
    let val := fun (j : Nat) =>
      match items.find? (fun x => x.i == b + j) with
      | some x => (d.fmt.convertPlain d.t d.nanMode .rne x.v).code |> d.fmt.decodePlain d.t
      | none => match SMap.find? acc.1.mem.recast (base + d.addr (b + j)) with
        | some y => mxValue .mxE4M3 y.1 y.2
        | none => .fin false 0 0
    let bl := encodeMxBlock .mxE4M3 false (fun _ => .rne) ((List.range 32).map val)
    let m := (List.range 32).foldl (fun m j => SMap.insert m (base + d.addr (b + j)) (bl.scale, bl.codes.getD j 0)) acc.1.mem.recast
    (acc.1.withMem { acc.1.mem with recast := m },
      acc.2.add { sat := bl.sat.length, nan := bl.nanOut, flush := bl.flushed.length, clamp := bitNat bl.clamped }))
    (s, {})

/-- Convert and write items into a tensor: the bytes, the status events, the counters and the range record (R65 to R68, R87 to R89, R151). -/
def State.storeItems (s : State) (c : Nat) (e : EntryRun) (p : Place) (d : Desc) (unit a b index : Nat) (items : List Item) : Except Nat State :=
  let rnd := d.rnd s.num.emu e.seed e
  let conv : Except Nat Written := if d.fmt.isMx then d.convertBlocks rnd items else .ok (d.convertItems s.num.emu rnd items)
  match conv with
  | .error x => .error x
  | .ok w =>
    let s0 : State := match p with
      | .recast base _ => (s.writeRecast base d items).1
      | _ => w.writes.foldl (fun (st : State) (x : Nat × Bytes) => st.writePlace p x.1 x.2) s
    let s1 := s0.mendPlace p (w.writes.map (fun x => (x.1, x.2.length)))
    let extra : Charge := match p with
      | .recast base _ => (s.writeRecast base d items).2
      | _ => ({} : Charge)
    let s2 := if e.isEval then s1 else (s1.charge e.step d.tid (w.charge.add extra) d.nanMode)
    let s3 := if e.isEval then s2 else s2.noteRange e.step d.tid d.e0 (items.map (fun (x : Item) => (x.idx, x.v)))
    let cause : Cause := { unit := unit, out := d.tid, a := a, b := b, clause := e.clause, index := index, core := c }
    let evs := w.events.flatMap (fun x => x.2.map (fun k =>
      let idx := ((items.find? (fun y => y.i == x.1)).map (·.idx)).getD 0
      let rc := d.rowCol idx
      ({ kind := k, row := rc.1, col := rc.2, kgroup := noGroup, pass := 0 } : Ev)))
    .ok (s3.noteEvents c e cause evs)

/-- Events of decoding values of a tensor at their own row and column (R60, R96). -/
def decodeKinds (v : Val) : List Nat := kindIf v.isNan kNanIn ++ kindIf v.isInf kInfIn

/-- A value brought into an FP32 lane: exact within range, else rounded (R96). -/
def laneIn (v : Val) : Val × List Nat :=
  let r := toFP32 false v
  (r.1, r.2 ++ decodeKinds v)

/-- The step whose scale state a clause entry uses: its own, or V + 1 for an evaluation of sealed version V (R154, R155). -/
def EntryRun.scaleStep (e : EntryRun) : Nat := if e.isEval then e.step + 1 else e.step

def setByte (b : Bytes) (off v : Nat) : Bytes := b.set off (BitVec.ofNat 8 v)

/-- A descriptor of the image with the managed fields of the entry's step: scale_exp, and the format of a format-selected tensor with the MXFP8
scale plane of R164 (R154; off in QM12 emulation for formats, R169). -/
def State.managedDesc (s : State) (e : EntryRun) (b : Bytes) : Bytes :=
  let d := Desc.parse b
  match (s.policyOf e.scaleStep).entry d.tid with
  | none => b
  | some m =>
    let r := s.stepRec e.scaleStep
    let sc := SMap.find? r.scale d.tid
    let b1 := match sc with
      | some x => if m.scaled || m.fmtSel then setByte b 5 (natOfInt 8 x.t) else b
      | none => b
    if m.fmtSel && !s.num.emu then
      let f := SMap.get 2 r.formats m.layer
      let b2 := setByte b1 4 f
      if f = 6 then b2.take 24 ++ leBytes 8 (d.base + d.e1 * d.s1) ++ b2.drop 32 else b2
    else b1

/-! Scalar operands (R123). -/

/-- The second operand: register b, or imm32 sign-extended. -/
def secondOf (x : ScalarOp) (k : Core) : Word := if x.imm then x.imm32.signExtend 64 else k.s x.b

end Sys2Proof.Machine
end

