-- ==== Sys2Proof/Machine/Issue.lean ====
section
/-!
DEFINITION. Issue and exceptions of a core's sequencer (06_core_instruction_set R119 to R125, R144 to R147): which command a core offers next, what
an exception records, and how the program counter moves, hardware loops included.
-/

namespace Sys2Proof.Machine

/-- What an instruction did at issue: its effect with the sequential successor, its effect with a chosen successor, an exception (code, detail), an exception with what its
unit counted, or a stall, which changes timing only (R122). -/
inductive Issued where
  | done (s : State)
  | goto (s : State) (pc : Nat)
  | raise (code detail : Nat)
  | raiseIn (s : State) (code detail : Nat)
  | stall
  deriving Repr

/-- Where the sequencer goes after reaching index `pc`: a loop whose body ends there starts its next iteration or is left (R124). -/
def settle : List LoopLevel → Nat → List LoopLevel × Nat
  | [], pc => ([], pc)
  | l :: ls, pc =>
    if pc = l.stop then
      if l.index + 1 < l.count then ({ l with index := l.index + 1 } :: ls, l.start) else settle ls pc
    else (l :: ls, pc)

/-- The physical C-die of a logical core's die is kept by the die map of the module; its code is the source of core events (R147, R454). -/
def State.coreSource (s : State) (c : Nat) : Nat := srcC (s.physDie (dieOfCore c))

/-- Whether a new exception replaces the record held: a later window, or the same entry with a lower instruction index (R146, log entry 13). -/
def replacesExc (held : Option ExcRecord) (window entry index : Nat) : Bool :=
  match held with
  | none => true
  | some x => x.window != window || (x.entry == entry && decide (index < x.index))

/-- Add a term to the shadow digest of the entry in progress and of its shadow (R337). -/
def EntryRun.digest (e : EntryRun) (t : Word) : EntryRun := { e with fold := e.fold + t, shadow := e.shadow.map (· + t) }

/-- The digest term of a line: its address under its space code, and its eight words (R337). -/
def lineTerm (space a : Nat) (bs : Bytes) : Word :=
  let h := (List.range 8).foldl (fun (t : Word) j => t + mix64 (BitVec.ofNat 64 (field bs (8 * j) 8) + BitVec.ofNat 64 j)) 0
  mix64 (mixNat (space * 2 ^ 56 + a) ^^^ h)

/-- The lines that a transfer wrote outside space 0 enter the digest (R337, log entry 22). -/
def State.digestLines (s : State) (c space : Nat) (p : Place) (lines : List Nat) : State :=
  if space = 0 then s
  else
    match (s.core c).entry with
    | none => s
    | some e =>
      let e' := lines.foldl (fun (q : EntryRun) l => q.digest (lineTerm space (64 * l) (s.placeBytes p (64 * l) 64))) e
      s.setCore c { s.core c with entry := some e' }

/-- 600 s in reference cycles. -/
def failSpan : Nat := 60000000000

/-- One more of the events of which two within 600 s fail a core (R319). -/
def twice (ref : Nat) (old : List Nat) : List Nat := ref :: old.filter (fun t => decide (ref < t + failSpan))

/-- An uncorrectable codeword that a core has read is counted and logged: in GDDR7, in the staging store of an M-die, or in an SRAM store of its C-die,
where one of the core's own operand store counts towards its failure (R194, R197, R198, R319). `wh` and `loc` are those of the exception's code. -/
def State.noteUeAt (s : State) (c step wh loc : Nat) : State :=
  if wh = 0 then (if loc = 0 then s else s.countUe (256 * (loc - 1)) step)
  else if wh = 3 then
    let m := mdieOf (64 * loc)
    (s.mdie m (fun d => { d with stagingUe := sat32 (d.stagingUe + 1) })).log { code := 0x2002, source := srcM m, step := step, detail := leBytes 2 c }
  else
    let src := s.coreSource c
    let s2 := s.countSramUe src step
    if wh = 1 then
      s2.withRecov { s2.recov with badReads := SMap.insert s2.recov.badReads c (twice s.clk.elapsed (SMap.get [] s2.recov.badReads c)) }
    else s2

/-- Record an exception and stop the entry's issue (R145 item 1, R146, R147). The code carries, for an uncorrectable read, where it was made. -/
def State.raiseExc (s0 : State) (c : Nat) (e : EntryRun) (codeAt detail index : Nat) (word : Word) : State :=
  let code := codeAt % 256
  let s := s0.noteUeAt c e.step (codeAt / 256 % 4) (codeAt / 1024)
  let k := s.core c
  let cls := bits word.toNat 63 60
  let r : ExcRecord := { code := code, cls := cls, clause := e.clause, index := index, word := word, step := e.step, core := c, entry := e.object,
                         detail := detail % 2 ^ 32, ref := s.clk.ref, window := e.window, sregs := k.sregs, aregs := k.aregs,
                         loops := k.loops, calls := k.calls }
  let first := match k.exc with
    | none => true
    | some x => x.window != e.window
  let k' := { k with exc := if replacesExc k.exc e.window e.object index then some r else k.exc, entry := some { (e.digest (mixNat (2 ^ 63 + code))) with stopped := true }, wait := none }
  let s1 := s.setCore c k'
  let s2 := if code = xEcc ∧ ¬ e.isEval then s1.failStep e.step fEcc else s1
  if first then
    s2.log { code := 0x500A, source := s.coreSource c, step := e.step,
             detail := leBytes 1 code ++ leBytes 1 cls ++ leBytes 2 e.clause ++ leBytes 4 index ++ leBytes 2 c ++ leBytes 2 e.object ++ leBytes 4 detail }
  else s2

/-- Count an issued instruction and move the program counter. -/
def Core.retire (k : Core) (target : Option Nat) : Core :=
  match k.entry with
  | none => k
  | some e =>
    match target with
    | some pc => { k with entry := some { e with issued := e.issued + 1, pc := pc } }
    | none =>
      let n := settle k.loops (e.pc + 1)
      { k with entry := some { e with issued := e.issued + 1, pc := n.2 }, loops := n.1 }

/-- Offer one instruction to a core: the core must have an entry in progress that is not stopped, ended or waiting, and the word at its program counter
must spell this instruction. INSTR_LIMIT and FETCH_INVALID are found first (R125, R144). -/
def issue (c : Nat) (i : Instr) (body : Core → EntryRun → State → Issued) (s : State) : Out :=
  let k := s.core c
  match k.entry with
  | none => notNow "no clause entry in progress on this core"
  | some e =>
    if 512 ≤ c ∨ e.stopped = true ∨ e.ended = true ∨ k.wait.isSome = true then notNow "the core issues nothing now"
    else if e.limit ≠ 0 ∧ e.limit ≤ e.issued then .next (s.raiseExc c e xLimit 0 e.issued ((k.word e.pc).getD 0))
    else
      match k.word e.pc with
      | none => .next (s.raiseExc c e xFetch 0 e.issued 0)
      | some w =>
        if decodeWord c w ≠ some i then notNow "the word at the program counter is another instruction"
        else
          match body k e s with
          | .done s' => .next (s'.setCore c ((s'.core c).retire none))
          | .goto s' pc => .next (s'.setCore c ((s'.core c).retire (some pc)))
          | .raise code detail => .next (s.raiseExc c e code detail e.issued w)
          | .raiseIn s' code detail => .next (s'.raiseExc c e code detail e.issued w)
          | .stall => .next s

/-- An instruction that completes at issue and changes only its own core's registers. -/
def issueReg (c : Nat) (i : Instr) (f : Core → Core) (s : State) : Out := issue c i (fun k _ st => .done (st.setCore c (f k))) s

end Sys2Proof.Machine
end

