-- ==== Sys2Proof/Machine/SyncObjects.lean ====
section
/-!
DEFINITION. Sync objects (10_synchronisation R231 to R249): handles, signals, owners, poisoning and the return to zero.
-/

namespace Sys2Proof.Machine

/-- The key of an object: scope, unit (logical core, cluster or die) and index. -/
def objKey (scope unit index : Nat) : Nat := scope * 4194304 + unit * 2048 + index
def keyScope (key : Nat) : Nat := key / 4194304
def keyUnit (key : Nat) : Nat := key / 2048 % 2048
def keyIndex (key : Nat) : Nat := key % 2048

def keyDie (key : Nat) : Nat :=
  if keyScope key = 0 then keyUnit key / 64 else if keyScope key = 1 then keyUnit key / 8 else keyUnit key

/-- The handle of an object in named form (R232). -/
def objHandle (key : Nat) : Nat :=
  let u := keyUnit key
  keyScope key * 2 ^ 28 + 2 ^ 27 + (if keyScope key = 0 then u * 2 ^ 18 else if keyScope key = 1 then u * 2 ^ 21 else u * 2 ^ 24) + keyIndex key

/-- What a handle names: an object of this module, or a die object of another module (R232, R233). -/
inductive HandleRef where
  | obj (key : Nat)
  | far (rank die index : Nat)
  deriving DecidableEq, Repr

/-- Resolve a handle for a core; `none` where it names no object (R234). -/
def State.resolveHandle (s : State) (c h : Nat) : Option HandleRef :=
  let hb := BitVec.ofNat 32 h
  if !handleLayoutOk hb then none
  else
    let scope := bits h 31 28
    let named := bit h 27
    let index := bits h 10 0
    if scope = 3 then
      if s.rankKnown (bits h 27 14) then some (.far (bits h 27 14) (bits h 13 11) index) else none
    else
      let die := if named then bits h 26 24 else c / 64
      let cl := if named then bits h 26 21 else c / 8
      let co := if named then bits h 26 18 else c
      some (.obj (objKey scope (if scope = 0 then co else if scope = 1 then cl else die) index))

/-- The objects a core may wait on: its own core's, its own cluster's and its own die's (R134, R234). -/
def mayWait (c key : Nat) : Bool :=
  if keyScope key = 0 then keyUnit key == c else if keyScope key = 1 then keyUnit key == c / 8 else keyUnit key == c / 64

def State.obj (s : State) (key : Nat) : SyncObj := SMap.get SyncObj.blank s.sync key
def State.setObj (s : State) (key : Nat) (o : SyncObj) : State := s.withSync (SMap.insert s.sync key o)

/-- The cluster and die objects that a core's image names by immediate handle in a SIG (R242). -/
def State.fixedOwned (s : State) (c : Nat) : List Nat :=
  match (s.core c).prog with
  | none => []
  | some p =>
    dedup ((p.resident ++ p.overlay).filterMap (fun w =>
      match decodeWord c w with
      | some (.sig _ x) =>
        if x.imm then
          match s.resolveHandle c x.handle.toNat with
          | some (.obj key) => if keyScope key = 0 then none else some key
          | _ => none
        else none
      | _ => none))

/-- Every object a core owns: its 64 core objects, the objects its program names, and the ones it has signalled otherwise (R242). -/
def State.owned (s : State) (c : Nat) : List Nat :=
  dedup ((List.range 64).map (objKey 0 c) ++ s.fixedOwned c ++ (s.sync.filter (fun e => e.2.owners.contains c)).map (·.1))

/-- The logical cores that own an object. -/
def State.ownersOf (s : State) (key : Nat) : List Nat :=
  if keyScope key = 0 then [keyUnit key]
  else (List.range 512).filter (fun c => (s.obj key).owners.contains c || (s.fixedOwned c).contains key)

/-- The cores that wait on an object. -/
def State.waiters (s : State) (key : Nat) : List Nat :=
  (s.cores.filter (fun e => match e.2.wait with
    | some w => w.key == key
    | none => false)).map (·.1)

/-- A wait of a core ends in an exception (R135, R240). The WAIT is still at the program counter and has been counted as issued. -/
def State.failWait (s : State) (c code : Nat) : State :=
  let k := s.core c
  match k.entry, k.wait with
  | some e, some w => s.raiseExc c e code (objHandle w.key) (e.issued - 1) ((k.word e.pc).getD 0)
  | _, _ => s

/-- A wait of a core completes, and the core goes on after its WAIT (R135). -/
def State.passWait (s : State) (c : Nat) : State :=
  let k := s.core c
  match k.entry with
  | some e =>
    let n := settle k.loops (e.pc + 1)
    s.setCore c { k with wait := none, loops := n.1, entry := some { e with pc := n.2 } }
  | none => s

/-- Whether the counter has reached the target of a core's wait. -/
def State.reached (s : State) (c : Nat) : Bool :=
  match (s.core c).wait with
  | some w => decide (w.target ≤ (s.obj w.key).value)
  | none => false

/-- Poison an object for the failure of a core: once, every waiter raises WAIT_POISONED, SYNC_POISONED is logged (R240, R241, R243). A waiter whose
target the value had reached before has been satisfied. The event's detail is the first waiter, the handle, its target, the value, the last
signaller and the poisoner (log entry 18). -/
def State.poison (s : State) (by_ : Option Nat) (key : Nat) : State :=
  let o := s.obj key
  if o.poisoned then s
  else
    let ok := (s.waiters key).filter s.reached
    let ws := (s.waiters key).filter (fun c => !s.reached c)
    let w0 := ws.head?
    let tgt := match w0 with
      | some c => (match (s.core c).wait with
        | some w => w.target
        | none => 0)
      | none => 0
    let s1 := s.setObj key { o with poisoned := true, poisoner := by_ }
    let s2 := s1.log { code := 0x500C, source := srcC (s.physDie (keyDie key)),
                       detail := leBytes 2 (w0.getD 0xFFFF) ++ leBytes 4 (objHandle key) ++ leBytes 4 tgt
                         ++ leBytes 4 o.value ++ leBytes 2 o.lastWho ++ leBytes 2 (by_.getD 0xFFFF) }
    ws.foldl (fun st c => st.failWait c xPoisoned) (ok.foldl State.passWait s2)

/-- Poison every object a core owns, as for a pre-empted owner (R243). -/
def State.poisonOwned (s : State) (c : Nat) : State := (s.owned c).foldl (fun st key => st.poison (some c) key) s

def sat24 (n : Nat) : Nat := min n 0xFFFFFF

/-- What applying one signal did. -/
inductive Applied where
  | added
  | refused
  | ignored
  deriving DecidableEq, Repr

/-- Apply one signal to an object (R235 to R238): `src` is 0 SIG, 1 load engine, 2 remote. -/
def State.applySignal (s : State) (key count src who die : Nat) : State × Applied :=
  let o := s.obj key
  if o.poisoned then (s.setObj key { o with ignored := sat32 (o.ignored + 1) }, .ignored)
  else if 0xFFFFFFFF < o.value + count then
    ((s.setObj key { o with ignored := sat32 (o.ignored + 1) }).log
      { code := 0x500D, source := srcC (s.physDie (keyDie key)), detail := leBytes 4 (objHandle key) ++ leBytes 2 who }, .refused)
  else
    (s.setObj key { o with value := o.value + count, lastSrc := src, lastWho := who, lastDie := die, lastCnt := count, lastRef := s.clk.ref,
                           signals := sat32 (o.signals + 1) }, .added)

/-- An object returns to zero for the windows up to `w`, and held remote signals of window w + 1 are applied (R244, R247). -/
def State.objToZero (s : State) (w key : Nat) : State :=
  let o := s.obj key
  let now := o.held.filter (fun h => decide (h.window ≤ w + 1))
  let later := o.held.filter (fun h => decide (w + 1 < h.window))
  let s1 := s.setObj key { SyncObj.blank with window := w + 1, held := later }
  now.foldl (fun st h =>
    let r := st.applySignal key h.count 2 h.rank h.die
    match r.2 with
    | .added => r.1.mapStep h.step (fun q => { q with sigApplied := SMap.insert q.sigApplied h.rank (SMap.get 0 q.sigApplied h.rank + h.count) })
    | _ => r.1.mapStep h.step (fun q => { q with sigBad := q.sigBad + h.count })) s1

/-- Every object of a unit returns to zero. -/
def State.unitToZero (s : State) (w scope unit : Nat) : State :=
  (s.sync.filter (fun e => keyScope e.1 == scope && keyUnit e.1 == unit)).foldl (fun st e => st.objToZero w e.1) s

/-- Counts of signals to local objects, per C-die of the signaller, for the local audit (R292). -/
def State.countSignal (s : State) (step die : Nat) (f : Nat × Nat × Nat × Nat → Nat × Nat × Nat × Nat) : State :=
  s.mapStep step (fun r => { r with dieSig := SMap.insert r.dieSig die (f (SMap.get (0, 0, 0, 0) r.dieSig die)) })

/-- A core has made a signal to a local object: it is counted for the local audit, and it enters the shadow digest (R292, R337). -/
def State.signalled (s : State) (c : Nat) (e : EntryRun) (handle count : Nat) : State :=
  let e' := e.digest (mixNat (handle * 2 ^ 8 + count))
  let s1 := s.setCore c { s.core c with entry := some e' }
  if e.isEval then s1 else s1.countSignal e.step (dieOfCore c) (fun q => (q.1 + count, q.2))

end Sys2Proof.Machine
end

