-- ==== Sys2Proof/Machine/FabricOps.lean ====
section
/-!
DEFINITION. The shared operations of the fabric (11_fabric_and_collectives R253 to R269): headers, routes, credits and retry buffers of a port, opening
an operation, and abandoning or completing it.
-/

namespace Sys2Proof.Machine

/-! Frame types and the header's fields (R254). -/

def tCollective : Nat := 1
def tTransfer : Nat := 2
def tSignal : Nat := 3
def tAck : Nat := 4
def tExchange : Nat := 5
def tTick : Nat := 6
def tService : Nat := 7
def tLink : Nat := 8
def tNeighbour : Nat := 9

/-- The virtual channel of a type; unsequenced types have none. -/
def vcOf (t : Nat) : Option Nat :=
  if t = 1 then some 0 else if t = 2 ∨ t = 3 then some 1 else if t = 4 ∨ t = 5 ∨ t = 6 then some 2 else if t = 7 then some 3 else none

/-- The credits granted for each virtual channel (*Virtual channels*). -/
def vcGrant : Nat → Nat
  | 0 => 8192
  | 1 => 4096
  | _ => 1024

/-- The fields of a header that the opening die fills. -/
structure HdrIn where
  typ    : Nat
  slice  : Nat
  dst    : Nat
  src    : Nat
  epoch  : Nat
  tag    : Nat
  frag   : Nat
  words  : Nat
  object : Nat
  window : Nat
  flags  : Nat
  cls    : Nat
  rank   : Nat
  offset : Nat
  deriving DecidableEq, Repr

/-- The check bits of the two header codewords (R255). -/
def headerCheck (h : Bytes) : Bytes :=
  leBytes 2 (q144Encode (field h 0x10 16)).toNat ++ leBytes 2 (q144Encode (field h 0x20 16)).toNat

def makeHeader (x : HdrIn) : Bytes :=
  let lane := match vcOf x.typ with
    | some v => v + 4
    | none => 0
  let h := [1#8, BitVec.ofNat 8 x.typ, BitVec.ofNat 8 lane, 0#8] ++ zeros 12 ++ leBytes 2 x.slice ++ leBytes 2 x.dst ++ leBytes 2 x.src
    ++ leBytes 2 (x.epoch % 65536) ++ leBytes 4 x.tag ++ leBytes 2 x.frag ++ leBytes 2 x.words ++ leBytes 4 x.object ++ leBytes 4 (x.window % 2 ^ 32)
    ++ [BitVec.ofNat 8 x.flags, BitVec.ofNat 8 x.cls] ++ leBytes 2 x.rank ++ leBytes 4 x.offset
  h ++ headerCheck h ++ zeros 4

def hTyp (h : Bytes) : Nat := field h 1 1
def hVc (h : Bytes) : Nat := bits (field h 2 1) 1 0
def hSeq (h : Bytes) : Nat := field h 8 4
def hAck (h : Bytes) : Nat := field h 0xC 4
def hSlice (h : Bytes) : Nat := field h 0x10 2
def hDst (h : Bytes) : Nat := field h 0x12 2
def hSrc (h : Bytes) : Nat := field h 0x14 2
def hEpoch (h : Bytes) : Nat := field h 0x16 2
def hTag (h : Bytes) : Nat := field h 0x18 4
def hFrag (h : Bytes) : Nat := field h 0x1C 2
def hWords (h : Bytes) : Nat := field h 0x1E 2
def hObject (h : Bytes) : Nat := field h 0x20 4
def hWindow (h : Bytes) : Nat := field h 0x24 4
def hFlags (h : Bytes) : Nat := field h 0x28 1
def hCls (h : Bytes) : Nat := field h 0x29 1
def hRank (h : Bytes) : Nat := field h 0x2A 2
def hOffset (h : Bytes) : Nat := field h 0x2C 4

/-- Set the link fields, which each hop rewrites (R255). -/
def withLink (h : Bytes) (credit : List Nat) (seq ack : Nat) : Bytes :=
  h.take 4 ++ (List.range 4).map (fun v => BitVec.ofNat 8 (credit.getD v 0)) ++ leBytes 4 seq ++ leBytes 4 ack ++ h.drop 16

/-- Frame bytes from the destination address to the FCS (R254). -/
def frameLen (f : HFrame) : Nat := 14 + 56 + 18 * hWords f.hdr + 4
def frameCost (f : HFrame) : Nat := ceilDiv (frameLen f) 64

/-- The MAC address of a module's port (R253). -/
def portMac (modId p : Nat) : Bytes := [0x02, 0x57, 0x51] ++ beBytes 2 modId ++ [BitVec.ofNat 8 p]
def neighbourMac : Bytes := [0x01, 0x80, 0xC2, 0x00, 0x00, 0x0E]

/-- Payload codewords: 16 data bytes and their check bits (R254, R255). -/
def codewords : Nat → Bytes → Bytes
  | 0, _ => []
  | n + 1, d => let w := fitTo 16 d; w ++ leBytes 2 (q144Encode (leNat w)).toNat ++ codewords n (d.drop 16)

def State.port (s : State) (p : Nat) : Port := SMap.get Port.blank s.fab.ports p
def State.setPort (s : State) (p : Nat) (x : Port) : State := s.withFab { s.fab with ports := SMap.insert s.fab.ports p x }
def State.ndie (s : State) (n : Nat) : NDie := SMap.get NDie.blank s.fab.ndies n
def State.setNDie (s : State) (n : Nat) (x : NDie) : State := s.withFab { s.fab with ndies := SMap.insert s.fab.ndies n x }

/-- Count on a port: the counter at an offset of *Fabric port counters*. -/
def Port.count (x : Port) (off n : Nat) : Port := { x with cnt := SMap.insert x.cnt off (SMap.get 0 x.cnt off + n) }
def NDie.count (x : NDie) (off n : Nat) : NDie := { x with cnt := SMap.insert x.cnt off (SMap.get 0 x.cnt off + n) }

def addAt (l : List Nat) (i n : Nat) : List Nat := l.set i (l.getD i 0 + n)

/-- The whole frame as it leaves a port, up to the FCS (log entry 23). -/
def wire (modId p : Nat) (peer : Option Peer) (f : HFrame) : Bytes :=
  let dst := match peer with
    | some q => portMac q.modId q.port
    | none => neighbourMac
  dst ++ portMac modId p ++ [0x88, 0xB5] ++ f.hdr ++ codewords (hWords f.hdr) f.data

def Port.avail (x : Port) (v : Nat) : Nat := vcGrant v + x.back.getD v 0 - x.spent.getD v 0
def Port.retained (x : Port) : Nat := (x.retry.map (fun o => frameLen o.frame)).sum

/-- Credits to return with the next frame, at most 255 on each channel (R254, R260). -/
def Port.toReturn (x : Port) : List Nat := x.owed.map (min 255)
def Port.returnNow (x : Port) : Port :=
  { x with returned := (x.returned.zip x.toReturn).map (fun p => p.1 + p.2), owed := (x.owed.zip x.toReturn).map (fun p => p.1 - p.2) }

/-- Send the first waiting frame of a channel that credits, the retry buffer and the port's state allow (R257, R260). -/
def State.pushFrame (s : State) (p : Nat) (o : OutFrame) : State :=
  let x := s.port p
  let f : HFrame := { o.frame with hdr := withLink o.frame.hdr x.toReturn x.txSeq x.rxSeq }
  let x1 := (x.returnNow).count 0x08 1
  let x2 := { x1 with txSeq := (x.txSeq + 1) % 2 ^ 32, spent := addAt x1.spent o.vc o.cost,
                      retry := x1.retry ++ [{ o with seq := x.txSeq, frame := f }] }
  (s.setPort p x2).emit (.fabric p (wire s.modId p x.peer f))

/-- Whether a port can send this frame now. -/
def Port.ready (x : Port) (o : OutFrame) : Bool :=
  x.state == 2 && decide (o.cost ≤ x.avail o.vc) && decide (x.retained + frameLen o.frame ≤ 1048576)

/-- Send waiting frames in order, each channel on its own. -/
def State.flushPort (s : State) (p : Nat) : State :=
  let q := (s.port p).queue
  let r := q.foldl (fun (acc : State × List OutFrame × List Nat) (o : OutFrame) =>
    if !acc.2.2.contains o.vc && ((acc.1.port p).ready o) then (acc.1.pushFrame p o, acc.2.1, acc.2.2)
    else (acc.1, acc.2.1 ++ [o], o.vc :: acc.2.2)) (s, [], [])
  r.1.setPort p { r.1.port p with queue := r.2.1 }

/-- Hand a sequenced frame to a port. -/
def State.sendOn (s : State) (p : Nat) (f : HFrame) : State :=
  let x := s.port p
  (s.setPort p { x with queue := x.queue ++ [{ seq := 0, vc := hVc f.hdr, cost := frameCost f, frame := f }] }).flushPort p

/-! Routes (R265 to R269). -/

def State.sliceTables (s : State) (sl : Nat) : SliceTables := SMap.get SliceTables.blank s.routes sl

/-- The table of a frame's own epoch: the current or the previous one (R256, R269). -/
def SliceTables.ofEpoch (t : SliceTables) (e16 : Nat) : Option RouteTable :=
  match t.current with
  | some c => if c.epoch % 65536 = e16 then some c else
    (match t.previous with
     | some q => if q.epoch % 65536 = e16 then some q else none
     | none => none)
  | none => none

def RouteTable.entry (t : RouteTable) (dst cls : Nat) : Option RouteRange :=
  t.ranges.find? (fun r => decide (r.lo ≤ dst ∧ dst ≤ r.hi) && bit r.cls cls)

/-- The ports of a mask that are UP, in ascending order; a quarantined port is out of every mask (R266, R280). -/
def State.livePorts (s : State) (mask : Nat) : List Nat := (List.range 16).filter (fun p => bit mask p && (s.port p).state == 2 && !(s.port p).quar)

/-- The port that fragment f of slot sl leaves on, or none: NO_ROUTE (R266). -/
def State.routePort (s : State) (t : RouteTable) (dst cls frag slot : Nat) : Option Nat :=
  match t.entry dst cls with
  | none => none
  | some r =>
    let ps := s.livePorts (r.ports &&& t.allow)
    if ps.isEmpty then none else ps[(frag + slot) % ps.length]?

/-! Operations. -/

/-- The lag-0 or lag-1 step of a window (R264). -/
def State.stepOfWindow (s : State) (w lag : Nat) : Option Nat :=
  match SMap.find? s.fab.steps (w % 2 ^ 32) with
  | some p => if lag = 0 then p.1 else p.2
  | none => none

def opFold (object src dst : Nat) : Word := mixNat (object * 2 ^ 32 + src * 2 ^ 16 + dst)

/-- Count an operation completed as source or destination for its step (R264). -/
def State.countOp (s : State) (step : Option Nat) (sent : Bool) (object src dst : Nat) : State :=
  match step with
  | none => s
  | some n => s.mapStep n (fun r =>
      if sent then { r with ops := { r.ops with sent := r.ops.sent + 1, sentFold := r.ops.sentFold + opFold object src dst } }
      else { r with ops := { r.ops with received := r.ops.received + 1, recvFold := r.ops.recvFold + opFold object src dst } })

/-- The frame that carries fragment f of an operation. -/
def OpSlot.frame (o : OpSlot) (modId rank f : Nat) (resend : Bool) : HFrame :=
  let d := o.frags.getD f []
  let last := decide (f + 1 = o.frags.length)
  { hdr := makeHeader { typ := o.typ, slice := o.slice, dst := o.dstMod, src := modId, epoch := o.epoch, tag := o.tag, frag := f,
                        words := ceilDiv d.length 16, object := o.object, window := o.window,
                        flags := o.lag + (if last then 2 else 0) + (if resend then 4 else 0), cls := o.cls, rank := rank, offset := 256 * f },
    data := padTo 16 d }

/-- An abandoned operation: its slot is freed, OP_ABANDONED is logged, and its step does not seal (R263). -/
def State.abandonOp (s : State) (n slot : Nat) : State :=
  match SMap.find? (s.ndie n).slots slot with
  | none => s
  | some o =>
    let x := s.ndie n
    let s1 := s.setNDie n { x with slots := SMap.erase x.slots slot, abandoned := x.abandoned + 1 }
    let s2 := s1.log { code := 0x3006, source := srcN n, step := o.step.getD 0, detail := leBytes 4 o.tag ++ leBytes 4 o.object }
    match o.step with
    | some k => (s2.failStep k fOp).failStep k (if o.nak then fEcc else 0)
    | none => s2

/-- Send a fragment of an operation on the port its entry gives; without a route the operation is abandoned at once (R263, R266). -/
def State.sendFragment (s : State) (n slot f : Nat) (resend : Bool) : State :=
  match SMap.find? (s.ndie n).slots slot with
  | none => s
  | some o =>
    match (s.sliceTables o.slice).ofEpoch (o.epoch % 65536) with
    | none => s.abandonOp n slot
    | some t =>
      match s.routePort t o.dstMod o.cls f slot with
      | none =>
        let r := (s.ndie n).count 0x100 1
        ((s.setNDie n r).log { code := 0x3007, source := srcN n }).abandonOp n slot
      | some p =>
        let o' := { o with sends := o.sends.set f (o.sends.getD f 0 + 1), lastSent := s.clk.elapsed }
        let x := s.ndie n
        (s.setNDie n { x with slots := SMap.insert x.slots slot o' }).sendOn p (o.frame s.modId s.rank f resend)

/-- The lowest free slot of an N-die. -/
def NDie.freeSlot (x : NDie) : Option Nat := (List.range (x.slots.length + 1)).find? (fun i => (SMap.find? x.slots i).isNone && decide (i < 8192))

/-- Place an operation in a slot and send its fragments: N0's slots first, then N1's; with none free it waits (R262, log entry 24). -/
def State.placeOp (s : State) (o : OpSlot) : State :=
  let pick : Option (Nat × Nat) :=
    match (s.ndie 0).freeSlot with
    | some i => some (0, i)
    | none => ((s.ndie 1).freeSlot).map (fun i => (1, i))
  match pick with
  | none => s.withFab { s.fab with waitOps := s.fab.waitOps ++ [o] }
  | some (n, i) =>
    let x := s.ndie n
    let reuse := (SMap.get 0 x.reuse i + 1) % 2 ^ 18
    let o' := { o with tag := i + n * 8192 + reuse * 16384 }
    let x1 := { x with slots := SMap.insert x.slots i o', reuse := SMap.insert x.reuse i reuse, opened := x.opened + 1 }
    let x2 := { x1 with cnt := SMap.insert x1.cnt 0x02 (max (SMap.get 0 x1.cnt 0x02) x1.slots.length) }
    (List.range o.frags.length).foldl (fun st f => st.sendFragment n i f false) (s.setNDie n x2)

/-- Cut a payload into fragments of 4,096 bytes; an empty payload is one empty fragment. -/
def fragments : Nat → Bytes → List Bytes
  | 0, _ => []
  | n + 1, d => d.take 4096 :: fragments n (d.drop 4096)

def fragmentsOf (d : Bytes) : List Bytes := fragments (max 1 (ceilDiv d.length 4096)) d

/-- What an operation carries and for whom. -/
structure Send where
  typ     : Nat
  cls     : Nat
  object  : Nat := 0
  window  : Nat := 0
  lag     : Nat := 0
  dstRank : Nat
  data    : Bytes
  step    : Option Nat := none
  coll    : Option Nat := none
  husk    : Option Nat := none
  deriving DecidableEq, Repr

/-- The operations of a send, each of at most 65,536 fragments, in ascending offset (R262). -/
def opsOf (sl epoch dstMod : Nat) (x : Send) : List OpSlot :=
  let fs := fragmentsOf x.data
  (List.range (ceilDiv fs.length 65536)).map (fun k =>
    let part := (fs.drop (k * 65536)).take 65536
    { tag := 0, typ := x.typ, cls := x.cls, object := x.object, window := x.window, lag := x.lag, slice := sl, epoch := epoch, dstRank := x.dstRank,
      dstMod := dstMod, frags := part, sends := part.map (fun _ => 0), lastSent := 0, nak := false, step := x.step, coll := x.coll, husk := x.husk })

/-- Open the operations of a send to another rank under the current epoch (R262, R269). A fenced module opens none but SERVICE (R325). -/
def State.openSend (s : State) (x : Send) : State :=
  match s.member, s.tableInForce with
  | some (sl, _), some t =>
    if s.isFenced && x.typ != tService then s
    else
      match t.members[x.dstRank]? with
      | none => s
      | some m => (opsOf sl t.epoch m x).foldl State.placeOp s
  | _, _ => s

/-- An acknowledged operation: its slot is freed for a waiting one, and it is counted as source for its step (R262, R264). -/
def State.finishOp (s : State) (n slot : Nat) : State :=
  match SMap.find? (s.ndie n).slots slot with
  | none => s
  | some o =>
    let x := s.ndie n
    let s1 := s.setNDie n { x with slots := SMap.erase x.slots slot, completed := x.completed + 1 }
    let s2 := s1.countOp o.step true o.object s.rank o.dstRank
    let s3 := match o.husk with
      | some i => s2.withRun { s2.run with husk := s2.run.husk.modify i (fun h => { h with acked := true }) }
      | none => s2
    match s3.fab.waitOps with
    | w :: ws => (s3.withFab { s3.fab with waitOps := ws }).placeOp w
    | [] => s3

/-- Every open operation of a step is abandoned without being counted (R299). -/
def State.dropOpsOf (s : State) (p : Nat → Bool) : State :=
  let keep := fun (o : OpSlot) => match o.step with
    | some k => !p k
    | none => true
  let dropIn := fun (x : NDie) => { x with slots := x.slots.filter (fun e => keep e.2),
                                           abandoned := x.abandoned + (x.slots.filter (fun e => !keep e.2)).length }
  let f := s.fab
  s.withFab { f with ndies := f.ndies.map (fun e => (e.1, dropIn e.2)), waitOps := f.waitOps.filter keep,
                     ins := f.ins.filter (fun o => match o.step with
                       | some k => !p k
                       | none => true) }

end Sys2Proof.Machine
end

