-- ==== Sys2Proof/Machine/Load.lean ====
section
/-!
DEFINITION. The load-engine class (06_core_instruction_set R128 to R130; 08_memory_system R184 to R190): copies and conversions are made at issue in
program order; LOAD_TRANSFER_COMPLETE frees the queue place and starts the completion signal (log entry 15).
-/

namespace Sys2Proof.Machine

def MatRun.reads (m : MatRun) (t : Nat) : Bool :=
  m.op.a.toNat == t || m.op.b.toNat == t || (decide (m.op.mode.extractLsb' 4 2 = 2) && m.op.c.toNat == t)
def MatRun.converts (m : MatRun) : Bool := m.op.mode.getLsbD 6
def MatRun.half (m : MatRun) : Bool := m.op.mode.getLsbD 7
def MatRun.writes (m : MatRun) (t : Nat) : Bool := m.converts && m.op.out.toNat == t

/-- The interlocks of a load-engine transfer (R74, R122): a full queue, a matrix instruction that reads the destination, and a conversion still to
write a tensor that the transfer names (log entry 16). -/
def loadHeld (k : Core) (dst : Nat) (src : Option Nat) : Bool :=
  decide (8 ≤ k.loadQ.length) || k.matQ.any (fun m => m.reads dst || m.writes dst)
    || (match src with
        | some t => k.matQ.any (fun m => m.writes t)
        | none => false)

/-- The lines of the SRAM store that a tensor's elements touch, for the contents of an abandoned transfer (R145 item 2). -/
def tensorLines (d : Desc) (is : List Nat) : List Nat := dedup ((is.flatMap d.spans).flatMap (fun x => linesOf x.1 x.2))

/-- The completion signal's object: scopes 0 to 2 only, else SYNC_HANDLE (R235). -/
def completionKey (s : State) (c : Nat) (want : Bool) (h : Word) : Except Nat (Option Nat) :=
  if !want then .ok none
  else
    match s.resolveHandle c (h.toNat % 2 ^ 32) with
    | some (.obj key) => .ok (some key)
    | _ => .error xHandle

/-- Whether an element of the staging space has contributions of an earlier clause still to drain (R187). -/
def pendingBefore (s : State) (e : EntryRun) (p : Place) (d : Desc) (is : List Nat) : Bool :=
  match p with
  | .staging =>
    s.mem.adds.any (fun q => (decide (q.window < e.window) || (q.window == e.window && decide (q.clause < e.clause)))
      && is.any (fun i => (d.spans i).any (fun x => decide (x.1 ≤ q.sa + 7 ∧ q.sa < x.1 + x.2))))
  | _ => false

/-- Atoms of the master plane that a space 5 read takes from a buffer, by M-die (R209 case 3, R229). -/
def State.countFallback (s : State) (p : Place) (d : Desc) (is : List Nat) : State :=
  match p with
  | .pair r v _ =>
    match s.pairJob r with
    | none => s
    | some j =>
      let w := wcWidth (s.wcFormat j v).1
      let els := is.map (fun i => d.addr i / w)
      let hit := els.filter (fun i => match pairSource (s.pairDie r (s.ownerDie r i)) v (i / segSize) with
        | .buffer _ => true
        | _ => false)
      let atoms := dedup (hit.map (fun i => (s.regionBase r + 4 * i) / 256))
      atoms.foldl (fun st a =>
        let m := mdieOf (a * 256)
        let n := SMap.get NearCounters.blank st.mem.near m
        st.withMem { st.mem with near := SMap.insert st.mem.near m { n with fallback := sat32 (n.fallback + 1) } }) s
  | _ => s

/-- A refused space 5 read (R209 case 4): counted on the first M-die that refuses it, logged there once for the step or the evaluation. -/
def State.noteGone (s : State) (e : EntryRun) (p : Place) (d : Desc) (is : List Nat) : State :=
  match p with
  | .pair r v _ =>
    let w := match s.pairJob r with
      | some j => wcWidth (s.wcFormat j v).1
      | none => 1
    let gone := fun (i : Nat) => pairSource (s.pairDie r (s.ownerDie r i)) v (i / segSize) == .gone
    let m := s.ownerDie r (((is.map (fun i => d.addr i / w)).find? gone).getD 0)
    let n := SMap.get NearCounters.blank s.mem.near m
    let s1 := s.withMem { s.mem with near := SMap.insert s.mem.near m { n with versionGone := sat32 (n.versionGone + 1) } }
    let ev := match e.kind with
      | .evaluation i => i
      | .training _ => 0
    let key := match e.kind with
      | .evaluation i => 16 * (i + 1) + m + 1
      | .training _ => m + 1
    s1.logStepKey key { code := 0x200C, source := srcM m, step := e.step, detail := leBytes 2 r ++ leBytes 8 v ++ leBytes 8 ev }
  | _ => s

/-- The shape and place checks of a transfer's destination (R127, R128). -/
def destCheck (s : State) (c : Nat) (e : EntryRun) (t : Nat) (d : Desc) (rows : Nat) : Except (Nat × Nat) Place :=
  if d.space = 5 ∨ d.space = 6 then .error (xSpace, 0)
  else if d.fmt.isMx && d.axis1 && rows % 32 != 0 then .error (xMxAlign, 0)
  else
    match s.place c e d with
    | .error x => .error (x, t)
    | .ok p => if s.inside p (d.move rows) (elems 0 d.count) then .ok p else .error (xRange, t)

def srcCheck (s : State) (c : Nat) (e : EntryRun) (t : Nat) (d : Desc) (rows : Nat) : Except (Nat × Nat) Place :=
  if d.fmt.isMx && d.axis1 && rows % 32 != 0 then .error (xMxAlign, 0)
  else
    match s.place c e d with
    | .error x => .error (x, t)
    | .ok p => if s.inside p (d.move rows) (elems 0 d.count) then .ok p else .error (xRange, t)

/-- Whether the stored codes are copied unchanged (R128). -/
def sameCodes (a b : Desc) (pa pb : Place) : Bool :=
  a.fmt == b.fmt && a.t == b.t && (!a.fmt.isMx || a.axis1 == b.axis1)
    && (match pa with
        | .recast _ _ => false
        | _ => true)
    && (match pb with
        | .recast _ _ => false
        | _ => true)

/-- Copy element codes, and scale bytes for an MX tensor. An A48 container's bits 63:48 are written as zero (R64). -/
def copyElem (s : State) (pa pb : Place) (a b : Desc) (st : State) (i : Nat) : State :=
  ((a.spans i).zip (b.spans i)).foldl (fun st x =>
    let bs := s.placeBytes pa x.1.1 x.1.2
    st.writePlace pb x.2.1 (if a.fmt == .a48 then leBytes 8 (leNat bs % 2 ^ 48) else bs)) st

def State.pushLoad (s : State) (c : Nat) (l : LoadRun) : State := s.setCore c { s.core c with loadQ := (s.core c).loadQ ++ [l] }

/-- A load-engine decode of NaN sets NAN_IN at the destination element (R60, log entry 17). -/
def nanEvents (d : Desc) (items : List Item) : List Ev :=
  (items.filter (fun x => x.v.isNan)).map (fun x => { kind := kNanIn, row := (d.rowCol x.idx).1, col := (d.rowCol x.idx).2, kgroup := noGroup, pass := 0 })

/-- LD: checks, interlocks, then the copy or the conversion (R128). -/
def ldBody (c : Nat) (x : LoadOp) (k : Core) (e : EntryRun) (s : State) : Issued :=
  let td := x.dst.toNat
  let ts := x.src.toNat
  let dd := Desc.parse (k.desc td)
  let ds := Desc.parse (k.desc ts)
  let rd := (k.a x.dstRow).toNat
  let rs := (k.a x.srcRow).toNat
  if loadHeld k td (some ts) then .stall
  else if dd.e0 ≠ ds.e0 ∨ dd.e1 ≠ ds.e1 ∨ dd.e2 ≠ ds.e2 ∨ dd.e3 ≠ ds.e3 then .raise xShape 0
  else
    match destCheck s c e td dd rd, srcCheck s c e ts ds rs, completionKey s c x.signal (k.s x.handle) with
    | .error y, _, _ => .raise y.1 y.2
    | _, .error y, _ => .raise y.1 y.2
    | _, _, .error y => .raise y (k.s x.handle).toNat
    | .ok pd, .ok ps, .ok key =>
      let md := dd.move rd
      let ms := ds.move rs
      let is := elems 0 dd.count
      if pendingBefore s e ps ms is then .stall
      else
        match s.checkElems ps ms is with
        | .error none => .stall
        | .error (some y) => if y = xVersion then .raiseIn (s.noteGone e ps ms is) y 0 else .raise y 0
        | .ok _ =>
          let s1 := (s.recastCharge ps ms e is).countFallback ps ms is
          let items : List Item := is.map (fun i => { i := i, v := s.elemValue ps ms i, idx := rd * dd.e0 + i })
          let run : LoadRun := { dst := td, src := some ts, index := e.issued, space := pd.unit, lines := tensorLines md is, signal := key,
                                 word := (k.word e.pc).getD 0 }
          if sameCodes ds dd ps pd then .done ((((is.foldl (copyElem s ps pd ms md) s1).mendPlace pd (is.flatMap md.spans)).pushLoad c run).digestLines c dd.space pd run.lines)
          else
            match s1.storeItems c e pd md 2 ds.tid 0 e.issued items with
            | .error y => .raise y td
            | .ok s2 =>
              let cause : Cause := { unit := 2, out := dd.tid, a := ds.tid, b := 0, clause := e.clause, index := e.issued, core := c }
              .done (((s2.noteEvents c e cause (nanEvents dd items)).pushLoad c run).digestLines c dd.space pd run.lines)

def execLd (c : Nat) (x : LoadOp) (s : State) : Out := issue c (.ld c x) (ldBody c x) s

/-- What a full store holds: 1 Mi contributions in the working area and 16 Mi in the overflow area of each M-die (R189). -/
def addCapacity : Nat := 17 * 1048576

/-- One contribution to the M-die that holds its staging address (R186, R189). -/
def State.addPending (s : State) (q : Pending) : State :=
  let m := mdieOf q.sa
  let n := (s.mem.adds.filter (fun y => mdieOf y.sa == m)).length
  if addCapacity ≤ n then
    (s.failStep q.step fEntry).logStepOnce { code := 0x2008, source := srcM m, step := q.step }
  else
    let d := SMap.get MDie.blank s.mem.mdies m
    s.withMem { s.mem with adds := s.mem.adds ++ [q], mdies := SMap.insert s.mem.mdies m { d with addPeak := max d.addPeak (n + 1) } }

/-- LDADD: each source element, decoded exactly, becomes a pending contribution (R129, R186). -/
def ldaddBody (c : Nat) (x : LoadOp) (k : Core) (e : EntryRun) (s : State) : Issued :=
  let td := x.dst.toNat
  let ts := x.src.toNat
  let dd := Desc.parse (k.desc td)
  let ds := Desc.parse (k.desc ts)
  let rd := (k.a x.dstRow).toNat
  let rs := (k.a x.srcRow).toNat
  if loadHeld k td (some ts) then .stall
  else if dd.space ≠ 3 then .raise xSpace 0
  else if dd.fmt ≠ .a48 then .raise xFormat 0
  else if dd.e0 ≠ ds.e0 ∨ dd.e1 ≠ ds.e1 ∨ dd.e2 ≠ ds.e2 ∨ dd.e3 ≠ ds.e3 then .raise xShape 0
  else
    match destCheck s c e td dd rd, srcCheck s c e ts ds rs, completionKey s c x.signal (k.s x.handle) with
    | .error y, _, _ => .raise y.1 y.2
    | _, .error y, _ => .raise y.1 y.2
    | _, _, .error y => .raise y (k.s x.handle).toNat
    | .ok pd, .ok ps, .ok key =>
      let md := dd.move rd
      let ms := ds.move rs
      let is := elems 0 dd.count
      if pendingBefore s e ps ms is then .stall
      else
        match s.checkElems ps ms is with
        | .error none => .stall
        | .error (some y) => if y = xVersion then .raiseIn (s.noteGone e ps ms is) y 0 else .raise y 0
        | .ok _ =>
          let s1 := (s.recastCharge ps ms e is).countFallback ps ms is
          let s2 := is.foldl (fun st i => st.addPending
            { window := e.window, clause := e.clause, core := c, place := e.place, ldadd := e.ldadds, index := i, sa := md.addr i,
              value := encA48 (s.elemValue ps ms i), step := e.step }) s1
          let run : LoadRun := { dst := td, src := some ts, index := e.issued, space := pd.unit, lines := [], signal := key,
                                 word := (k.word e.pc).getD 0 }
          let s3 := s2.pushLoad c run
          .done (s3.setCore c { s3.core c with entry := (s3.core c).entry.map (fun q => { q with ldadds := q.ldadds + 1 }) })

def execLdadd (c : Nat) (x : LoadOp) (s : State) : Out := issue c (.ldadd c x) (ldaddBody c x) s

/-- LDZERO: +0 codes, with scale 0x00 for MX (R128). -/
def execLdzero (c : Nat) (x : ZeroOp) (s : State) : Out :=
  issue c (.ldzero c x) (fun k e st =>
    let td := x.dst.toNat
    let dd := Desc.parse (k.desc td)
    let rd := (k.a x.dstRow).toNat
    if loadHeld k td none then .stall
    else
      match destCheck st c e td dd rd, completionKey st c x.signal (k.s x.handle) with
      | .error y, _ => .raise y.1 y.2
      | _, .error y => .raise y (k.s x.handle).toNat
      | .ok pd, .ok key =>
        let md := dd.move rd
        let is := elems 0 dd.count
        let s1 := (is.flatMap md.spans).foldl (fun q sp => q.writePlace pd sp.1 (zeros sp.2)) st
        let s2 := match pd with
          | .recast b _ => s1.withMem { s1.mem with recast := is.foldl (fun m i => SMap.insert m (b + md.addr i) (0, 0)) s1.mem.recast }
          | _ => s1
        let s3 := s2.mendPlace pd (is.flatMap md.spans)
        .done ((s3.pushLoad c { dst := td, src := none, index := e.issued, space := pd.unit, lines := tensorLines md is, signal := key,
                                word := (k.word e.pc).getD 0 }).digestLines c dd.space pd (tensorLines md is))) s

/-- The oldest transfer writes its last line, frees its queue place and starts its signal (R122, R128). -/
def execLoadTransferComplete (c : Nat) (s : State) : Out :=
  let k := s.core c
  match k.loadQ with
  | [] => notNow "no load-engine transfer is unfinished on this core"
  | l :: rest =>
    let sq := match l.signal with
      | some key => k.sigQ ++ [{ key := key, remote := false, count := 1, index := l.index, handle := objHandle key, load := true, dyn := true, word := l.word }]
      | none => k.sigQ
    let s1 := s.setCore c { k with loadQ := rest, sigQ := sq }
    match l.signal, k.entry with
    | some key, some e => .next (s1.signalled c e (objHandle key) 1)
    | _, _ => .next s1

/-- The offset and size of the descriptor fields that DSET writes (R130). -/
def dsetField : Nat → Nat × Nat
  | 0 => (16, 8)
  | 1 => (24, 8)
  | 2 => (12, 4)
  | 3 => (32, 4)
  | 4 => (36, 4)
  | 5 => (40, 4)
  | 6 => (44, 4)
  | _ => (10, 2)

/-- A region that R127 allows in a space: allocated to the Owner, and for space 5 a weight pair that a job in force binds. -/
def State.regionAllowed (s : State) (space r : Nat) : Bool :=
  match s.region r with
  | none => false
  | some g => g.tenant == 0 && (if space = 5 then g.kind == 1 && (s.pairJob r).isSome else true)

/-- Whether an issued instruction that names the descriptor is unfinished. -/
def descBusy (k : Core) (t : Nat) : Bool :=
  k.loadQ.any (fun l => l.dst == t || l.src == some t) || k.matQ.any (fun m => m.reads t || m.writes t)

/-- DSET: the low bits of a scalar register into a field; DESCRIPTOR where the value breaks a rule of the descriptor (R130). -/
def execDset (c : Nat) (desc : BitVec 6) (fld : BitVec 4) (src : BitVec 5) (s : State) : Out :=
  issue c (.dset c desc fld src) (fun k _ st =>
    let t := desc.toNat
    if descBusy k t then .stall
    else
      let f := dsetField fld.toNat
      let b := k.desc t
      let b' := b.take f.1 ++ leBytes f.2 (k.s src).toNat ++ b.drop (f.1 + f.2)
      let d := Desc.parse b'
      let regBad := decide (fld.toNat = 7) && (d.space == 4 || d.space == 5) && !st.regionAllowed d.space d.region
      if (descFault b').isSome || regBad then .raise xDescriptor t
      else .done (st.setCore c { k with descs := SMap.insert k.descs t b' })) s

/-- The descriptor of the program image that an entry runs, zero where the image gives none (R119). -/
def imageDesc (i : Image) (t : Nat) : Bytes := i.descs.getD t (zeros 64)

/-- DRST restores a descriptor from the program image (R130), with the managed fields of R154 as at the entry's start. -/
def execDrst (c : Nat) (desc : BitVec 6) (s : State) : Out :=
  issue c (.drst c desc) (fun k e st =>
    if descBusy k desc.toNat then .stall
    else .done (st.setCore c { k with descs := SMap.insert k.descs desc.toNat (st.managedDesc e (imageDesc e.image desc.toNat)) })) s

end Sys2Proof.Machine
end

