-- ==== Sys2Proof/Machine/Quota.lean ====
section
/-!
DEFINITION. Quotas (15_host_transport_mailboxes R373 to R375): what each tenant uses, and the over-quota bits. The four quotas are mailbox slots,
evaluation pool in MiB, telemetry in MB/s and power in W; index i of a tenant's quota list is bit i of its over-quota bits.
-/

namespace Sys2Proof.Machine

/-- Sum of a list of numbers. -/
def sumNat (l : List Nat) : Nat := l.foldl (· + ·) 0

/-- The four uses of a tenant (*Quotas*). -/
def State.uses (s : State) (t : Nat) : List Nat :=
  let x := s.host.tenants.getD t Tenant.blank
  [ x.slots.length,
    sumNat ((s.mem.regions.filter (fun e => e.2.tenant == t)).map (fun e => e.2.size / 1048576)),
    sumNat ((s.host.sessions.filter (fun y => y.tenant == t)).flatMap (fun y => y.streams.map (fun z => z.2.rate))),
    sumNat ((s.evals.filter (fun v => v.tenant == t && decide (v.phase ≤ 1))).map (fun v => v.power)) ]

def Tenant.quotaAt (x : Tenant) (i : Nat) : Nat := x.quota.getD i 0

/-- Which quotas a tenant carries: tenant 1 all four, tenants 2 and 3 slots and telemetry; tenant 0 has 16 slots and no quota. -/
def carries (t i : Nat) : Bool := if t = 1 then decide (i < 4) else decide (t = 2 ∨ t = 3) && (i == 0 || i == 2)

/-- The over-quota bits that stay: each clears when its use falls below its quota (R375). -/
def stillOver (x : Tenant) (us : List Nat) : Nat :=
  (List.range 4).foldl (fun m i => if bit x.over_ i && decide (x.quotaAt i ≤ us.getD i 0) then m + 2 ^ i else m) 0

/-- Clear the over-quota bits whose use has fallen below its quota; the flag clears, and QUOTA_CLEARED is logged, when no bit is left. -/
def State.refreshQuota (s : State) (t : Nat) : State :=
  let x := s.host.tenants.getD t Tenant.blank
  let m := stillOver x (s.uses t)
  if m = x.over_ then s
  else
    let s1 := s.withHost { s.host with tenants := s.host.tenants.modify t (fun y => { y with over_ := m }) }
    if m = 0 then s1.log { code := 0x6006, tenant := t } else s1

end Sys2Proof.Machine
end

