-- ==== Sys2Proof/Machine/Schedule.lean ====
section
/-!
DEFINITION. Schedule entries of the windows in progress (02_clause_frame R29 to R37): their keys, targets and order, how they finish, and how a core's
clause entry starts and is pre-empted (06_core_instruction_set R119, 10_synchronisation R243).
-/

namespace Sys2Proof.Machine

/-! The key of a schedule entry: its window and its place in the table. -/

def entryKey (w i : Nat) : Nat := w * 65536 + i
def keyWindow (k : Nat) : Nat := k / 65536
def keyPlace (k : Nat) : Nat := k % 65536

def clsCore : Nat := 1
def clsOpt : Nat := 2
def clsMirror : Nat := 3
def clsColl : Nat := 4
def clsVerdict : Nat := 5
def clsEval : Nat := 6
def clsCkpt : Nat := 7

/-- The targets of an entry (R29, R31). -/
def TableEntry.units (e : TableEntry) : List Nat :=
  if e.cls = clsEval ∧ e.target = 0xFFFF then List.range 512
  else if e.cls = clsOpt ∨ e.cls = clsMirror ∨ e.cls = clsCkpt then (List.range 8).filter (fun m => bit e.target m)
  else [e.target]

/-- Core segments and evaluation slots share targets; the other classes stand alone (R31). -/
def TableEntry.group (e : TableEntry) : Nat := if e.cls = clsEval then clsCore else e.cls

def State.entryAt (s : State) (k : Nat) : Option EntrySt := SMap.find? s.run.entries k
def State.setEntry (s : State) (k : Nat) (e : EntrySt) : State := s.withRun { s.run with entries := SMap.insert s.run.entries k e }

def EntrySt.live (e : EntrySt) : Bool := e.state == .ready || e.state == .running
/-- Not finished, or still to become ready. -/
def EntrySt.open_ (e : EntrySt) : Bool := e.live || e.state == .waiting

/-- The oldest entry at a table place that waits to start on a unit (R31). -/
def State.readyKey (s : State) (i cls u : Nat) : Option Nat :=
  (s.run.entries.find? (fun e => keyPlace e.1 == i && e.2.entry.cls == cls && e.2.live && e.2.entry.units.contains u && !e.2.started.contains u)).map (·.1)

/-- Whether an earlier entry of the same target has not finished there (R31, R35). -/
def State.blocked (s : State) (k u : Nat) (group : Nat) : Bool :=
  s.run.entries.any (fun e => decide (e.1 < k) && e.2.entry.group == group && e.2.live && e.2.entry.units.contains u && !e.2.done.contains u)

/-- Nothing starts outside a run, nor once a combined record has been missed (R297, R325). While a record is late, the next window has no entries yet. -/
def State.mayStart (s : State) : Bool := s.inRun && !(s.run.stalled && decide (2 ≤ s.run.missed))

/-- An entry starts on a unit. -/
def State.startUnit (s : State) (k u : Nat) : State :=
  match s.entryAt k with
  | none => s
  | some e => s.setEntry k { e with state := .running, started := e.started ++ [u], startRef := if e.started.isEmpty then s.clk.ref else e.startRef }

/-- Reference counts to microseconds, saturating at 65,535 (R37). -/
def usOf (cycles : Nat) : Nat := min 65535 (ceilDiv cycles 100)

/-- The comma that closes an entry's clause. -/
def EntrySt.closeRef (e : EntrySt) : Nat := e.openRef + e.interval * 100

/-- An entry finishes on a unit: when it has finished on all of them it is finished, its occupancy, overrun and budget are taken (R31, R35, R37). -/
def State.finishUnit (s : State) (k u : Nat) : State :=
  match s.entryAt k with
  | none => s
  | some e =>
    let done := if e.done.contains u then e.done else e.done ++ [u]
    let all := e.entry.units.all (fun x => done.contains x)
    let s1 := s.setEntry k { e with done := done, state := if all then .finished else e.state }
    if !all then s1
    else
      let ovr := if e.overran then usOf (s.clk.ref - e.closeRef) else 0
      let occ := usOf (s.clk.ref - e.openRef)
      let late := decide (e.entry.budget ≠ 0) && decide (e.entry.budget * 100 < s.clk.ref - e.startRef)
      s1.withFrame { s.frame with measO := max s.frame.measO ovr, measU := max s.frame.measU occ,
                                  budgets := if late then sat32 (s.frame.budgets + 1) else s.frame.budgets }

/-! Clause entries of a core. -/

/-- A core's place among its entries of a clause (R186). -/
def State.placeOf (s : State) (k c : Nat) : Nat :=
  match s.entryAt k with
  | none => 0
  | some e => (s.run.entries.filter (fun x => decide (x.1 < k) && keyWindow x.1 == keyWindow k && x.2.entry.clause == e.entry.clause
      && x.2.entry.group == clsCore && x.2.entry.units.contains c)).length

/-- R119: the registers, masks, stacks, descriptors and accumulators at the start of a clause entry. The status word, the stores and the instruction
memory are left. -/
def Core.begin (k : Core) (e : EntryRun) (descs : SMap Bytes) : Core :=
  { k with entry := some e, wait := none, sregs := [], aregs := [], vregs := [], masks := [], acc := [], closed := [], loops := [], calls := [],
           descs := descs, matQ := [], loadQ := [], sigQ := [] }

/-- Start a clause entry on a core, with the managed fields of its step (R119, R154). -/
def State.startCore (s : State) (c : Nat) (e : EntryRun) : State :=
  let descs := (e.image.descs.zipIdx).map (fun p => (p.2, s.managedDesc e p.1))
  s.setCore c ((s.core c).begin e descs)

/-- Whether a core may begin an entry of a window: it holds none, and its objects have returned to zero for the window before (R245). -/
def State.coreFree (s : State) (c w : Nat) : Bool :=
  (s.core c).entry.isNone && decide (w ≤ (s.core c).cleared + 1) && decide (w ≤ SMap.get 0 s.syncWin (65536 + clusterOfCore c) + 1)
    && decide (w ≤ SMap.get 0 s.syncWin (131072 + dieOfCore c) + 1)

/-- The status code of an evaluation (R415, R416): an exception code, or the code of a stop. -/
def State.setEval (s : State) (id : Nat) (f : Eval → Eval) : State := s.withEvals (s.evals.map (fun v => if v.id = id then f v else v))

/-- Finish evaluations: the unfinished ones stand first, in order of acceptance, then the last 64 finished, the latest last (R415). -/
def finishEvals (p : Eval → Bool) (f : Eval → Eval) (l : List Eval) : List Eval :=
  let q := fun (v : Eval) => decide (v.phase ≤ 1) && p v
  let done := l.filter (fun v => decide (1 < v.phase)) ++ (l.filter q).map f
  l.filter (fun v => decide (v.phase ≤ 1) && !p v) ++ done.drop (done.length - 64)

/-- An unfinished evaluation ends: failed, or stopped by a reset or fence (R145, R416). -/
def State.failEval (s : State) (id phase status : Nat) : State :=
  (s.withEvals (finishEvals (fun v => v.id == id) (fun v => { v with phase := phase, status := status }) s.evals)).refreshQuota 1

/-- An entry leaves its core. -/
def State.clearEntry (s : State) (c : Nat) : State :=
  let k := s.core c
  s.setCore c { k with entry := none, wait := none, matQ := [], loadQ := [], sigQ := [] }

/-- A core's entry is stopped before its END: its objects are poisoned, what it had in flight is dropped, and its schedule entry ends (R243). -/
def State.preempt (s : State) (c : Nat) : State :=
  match (s.core c).entry with
  | none => s
  | some e =>
    let s1 := (s.clearEntry c).poisonOwned c
    let s2 := match e.kind with
      | .evaluation i => s1.failEval i 4 0
      | .training _ => s1
    s2.finishUnit e.tableKey c

end Sys2Proof.Machine
end

