-- ==== Sys2Proof/Machine/Entries.lean ====
section
/-!
DEFINITION. Core segments and evaluation slots (02_clause_frame R31, R33; 06_core_instruction_set R119, R137, R145; 13_mirror_spares_recovery R336,
R337; 16_vuhal_command_reference R415).
-/

namespace Sys2Proof.Machine

/-- Whether the core's cluster shadows it in a window (R336): on probation, with the spare core free, core w mod 8. -/
def State.shadowed (s : State) (c w : Nat) : Bool :=
  s.recov.probation && !SMap.get false s.recov.spareUsed (clusterOfCore c) && c % 8 == w % 8

def entryRun (s : State) (k : Nat) (e : EntrySt) (c : Nat) (kind : EntryKind) (seed : Word) (i : Image) (start limit : Nat) : EntryRun :=
  { kind := kind, step := e.step, window := e.window, clause := e.entry.clause, tableKey := k, object := e.entry.object, place := s.placeOf k c,
    seed := seed, limit := limit, issued := 0, ldadds := 0, pc := start, stopped := false, ended := false, image := i, fold := 0,
    shadow := if s.shadowed c e.window then some 0 else none }

/-- Whether a core, or its logical die, runs no entries in a window (R322, R430). -/
def State.dieOff (s : State) (c w : Nat) : Bool :=
  decide (w < SMap.get 0 s.recov.offDie (dieOfCore c)) || decide (w < SMap.get 0 s.recov.offCore c)

/-- A core segment starts on its logical core. One of a step that an exception has stopped on this core in this window does not run (R145 item 4), and
none runs on a die that is being swapped, whose steps carry ENTRY_FAILED (R322). -/
def execCoreSegment (idx : Nat) (at' : Nat) (s0 : State) : Out :=
  let s := s0.advance at'
  match (s.run.entries.find? (fun e => keyPlace e.1 == idx && e.2.entry.cls == clsCore && e.2.state == .ready)) with
  | none => notNow "no core segment of this table place is ready"
  | some (k, e) =>
    let c := e.entry.target
    if s.mayStart = false ∨ s.blocked k c clsCore = true ∨ s.coreFree c e.window = false then notNow "the core cannot begin this entry"
    else if (s.core c).banned.contains (e.window, e.step) then .next ((s.startUnit k c).finishUnit k c)
    else if s.dieOff c e.window then .next (((s.startUnit k c).finishUnit k c).failStep e.step fEntry)
    else
      match (s.core c).prog with
      | none => notNow "no program is in force on this core"
      | some p =>
        match p.entries[e.entry.object]? with
        | none => notNow "the program has no such clause entry"
        | some r => .next ((s.startUnit k c).startCore c (entryRun s k e c (.training e.entry.lag) s.seed p r.1 r.2))

/-- The evaluation that runs in a window. -/
def State.evalOf (s : State) (w : Nat) : Option Eval := s.evals.find? (fun v => v.phase == 1 && v.window == w)

/-- Place an evaluation image's instructions from load_index (R415). -/
def placeImage (m : SMap Word) (at' : Nat) (ws : List Word) : SMap Word := ws.zipIdx.foldl (fun m p => SMap.insert m (at' + p.2) p.1) m

/-- An evaluation slot starts on a core: it reads the version latched at the comma that opened its clause (R33) and its own seed. -/
def execEvaluationSlot (idx : Nat) (core : Nat) (at' : Nat) (s0 : State) : Out :=
  let s := s0.advance at'
  match s.readyKey idx clsEval core with
  | none => notNow "no evaluation slot of this table place is ready on this core"
  | some k =>
    match s.entryAt k with
    | none => notNow "no such entry"
    | some e =>
      if s.mayStart = false ∨ s.blocked k core clsCore = true ∨ s.coreFree core e.window = false then notNow "the core cannot begin this entry"
      else if s.dieOff core e.window then .next ((s.startUnit k core).finishUnit k core)
      else
        match s.evalOf e.window with
        | none => notNow "no evaluation runs in this window"
        | some v =>
          match v.image with
          | none => notNow "the evaluation image is not in force"
          | some p =>
            match p.entries[e.entry.object]? with
            | none => .next (((s.startUnit k core).finishUnit k core).failEval v.id 3 0)
            | some r =>
              let q := s.core core
              let s1 := s.setCore core { q with overlay := placeImage q.overlay v.loadIndex p.resident }
              let s2 := s1.setEval v.id (fun y => { y with version := e.step })
              .next ((s2.startUnit k core).startCore core (entryRun s k e core (.evaluation v.id) v.seed p (v.loadIndex + r.1) r.2))

/-- The last slot entry of an evaluation ends: the digest of the results is taken (R415). -/
def State.closeEval (s : State) (w : Nat) : State :=
  if s.run.entries.any (fun x => keyWindow x.1 == w && x.2.entry.cls == clsEval && x.2.open_) then s
  else
    match s.evalOf w with
    | none => s
    | some v =>
      let d := sha256 (s.readMem (s.regionBase v.resultReg) v.resultBytes)
      (s.withEvals (finishEvals (fun y => y.id == v.id) (fun y => { y with phase := 2, status := 0, outDigest := d }) s.evals)).refreshQuota 1

/-- Unequal shadow digests: SHADOW for the step, or the evaluation fails (R337). -/
def State.compareShadow (s : State) (c : Nat) (e : EntryRun) : State :=
  match e.shadow with
  | none => s
  | some f =>
    if f = e.fold then s
    else
      let s1 := s.withRecov { s.recov with shadowBad := sat32 (s.recov.shadowBad + 1) }
      match e.kind with
      | .evaluation i => (s1.log { code := 0x8013, source := s.coreSource c, step := e.step, detail := leBytes 2 c }).failEval i 3 0x0601
      | .training _ => (s1.failStep e.step fShadow).log { code := 0x8013, source := s.coreSource c, step := e.step, detail := leBytes 2 c }

/-- An entry whose END has issued leaves its core: the entry has finished (R137). -/
def execEntryEnd (core : Nat) (at' : Nat) (s0 : State) : Out :=
  let s := s0.advance at'
  match (s.core core).entry with
  | none => notNow "no clause entry in progress on this core"
  | some e =>
    if e.ended = false then notNow "the entry has not reached its END"
    else
      let s1 := (s.compareShadow core e).clearEntry core
      let s2 := s1.finishUnit e.tableKey core
      .next (if e.isEval then s2.closeEval e.window else s2)

end Sys2Proof.Machine
end

