-- ==== Sys2Proof/Machine/Optimizer.lean ====
section
/-!
DEFINITION. The arithmetic of the optimizer engine (09_near_memory_engines R206, R218 to R222; 07_training_numerics R165, R169): operations in A48,
the built-in optimizers, micro-programs, and how masters and second moments are written.
-/

namespace Sys2Proof.Machine

/-- A value and the status bits set on the way to it. -/
abbrev OVal := Val × Nat

/-- Round an exact result once: to A48, or to FP32 in QM12 emulation; a nonzero result that rounds to zero sets no status (R218, R169). -/
def oRound (emu : Bool) (v : Val) (invalid : Bool) (m : Nat) : OVal :=
  let r := if emu then fFP32.round .rne v else fA48.round .rne v
  (r.1, m ||| (if invalid then 1 else 0) ||| (if r.2.1 then 2 else 0))

def oBin (emu : Bool) (f : Val → Val → Val × Bool) (a b : OVal) : OVal := let r := f a.1 b.1; oRound emu r.1 r.2 (a.2 ||| b.2)
def oAdd (emu : Bool) : OVal → OVal → OVal := oBin emu vAdd
def oSub (emu : Bool) : OVal → OVal → OVal := oBin emu vSub
def oMul (emu : Bool) : OVal → OVal → OVal := oBin emu vMul
def oDiv (emu : Bool) : OVal → OVal → OVal := oBin emu vDiv
def oSqrt (emu : Bool) (a : OVal) : OVal := let r := vSqrt a.1; oRound emu r.1 r.2 a.2
def oRsqrt (emu : Bool) (a : OVal) : OVal := let r := vRsqrt a.1; oRound emu r.1 r.2 a.2
def oFma (emu : Bool) (a b c : OVal) : OVal := let r := vFma a.1 b.1 c.1; oRound emu r.1 r.2 (a.2 ||| b.2 ||| c.2)

def oOne : OVal := (.fin false 1 0, 0)
def oZero : OVal := (.fin false 0 0, 0)
def oNat (n : Nat) : OVal := (.fin false n 0, 0)
def oF (w : W32) : OVal := (decFP32 w, 0)

/-- β^S by square-and-multiply over the bits of S from the most significant (R218). -/
def oPow (emu : Bool) (b : OVal) : Nat → Nat → OVal
  | 0, _ => oOne
  | fuel + 1, s =>
    if s = 0 then oOne
    else if s = 1 then b
    else
      let h := oPow emu b fuel (s / 2)
      let q := oMul emu h h
      if s % 2 = 1 then oMul emu q b else q

/-- −1, ±0 or +1; NaN for NaN (R219, *Micro-ops*). -/
def oSign (a : OVal) : OVal :=
  if a.1.isNan || a.1.isZero then a else (.fin a.1.neg 1 0, a.2)

/-- The constants of a layer for step S (R219, R222). -/
structure LayerC where
  eta   : OVal
  beta1 : OVal
  beta2 : OVal
  eps   : OVal
  lam   : OVal
  one1  : OVal    -- 1 − β1
  one2  : OVal    -- 1 − β2
  corr1 : OVal    -- 1 − β1^S
  corr2 : OVal    -- 1 − β2^S
  scale : OVal    -- grad_scale
  decay : Bool
  deriving DecidableEq, Repr

def layerC (emu : Bool) (l : Layer) (step : Nat) (lrScale gradScale : W32) : LayerC :=
  let pow := fun (b : OVal) => oPow emu b (step.log2 + 2) step
  { eta := oMul emu (oF l.lr) (oF lrScale), beta1 := oF l.beta1, beta2 := oF l.beta2, eps := oF l.eps, lam := oF l.lambda,
    one1 := oSub emu oOne (oF l.beta1), one2 := oSub emu oOne (oF l.beta2), corr1 := oSub emu oOne (pow (oF l.beta1)),
    corr2 := oSub emu oOne (pow (oF l.beta2)), scale := oF gradScale, decay := l.decay }

/-- What an element's update reads: the version read, the values that phase 1 wrote, the gradient, and its factors and layer sums. -/
structure ElemIn where
  w    : Val
  m    : Val
  v    : Val
  m1   : Val      -- M1 and M2 + R as phase 1 wrote them
  v1   : Val
  g    : Val
  row  : OVal     -- r_i' and c_j', mean(r'), for the factored optimizer
  col  : OVal
  mean : OVal
  rowF : Val      -- the row and column factors of the version read (micro-programs)
  colF : Val
  sums : List (BitVec 48)
  deriving DecidableEq, Repr

/-- What it gives: the new values it writes, factor writes, and what it adds to the layer sums by slot. -/
structure ElemOut where
  w    : Option OVal := none
  m    : Option OVal := none
  v    : Option OVal := none
  row  : Option OVal := none
  col  : Option OVal := none
  wc   : Option OVal := none
  sums : List (Nat × OVal) := []
  mask : Nat := 0
  deriving DecidableEq, Repr

/-- Add the λ × w term where weight decay applies (R219). -/
def withDecay (emu : Bool) (c : LayerC) (w u : OVal) : OVal := if c.decay then oAdd emu u (oMul emu c.lam w) else u
/-- w − η × u. -/
def descend (emu : Bool) (c : LayerC) (w u : OVal) : OVal := oSub emu w (oMul emu c.eta u)

def newM (emu : Bool) (c : LayerC) (m g : OVal) : OVal := oAdd emu (oMul emu c.beta1 m) (oMul emu c.one1 g)
def newV (emu : Bool) (c : LayerC) (v g : OVal) : OVal := oAdd emu (oMul emu c.beta2 v) (oMul emu (oMul emu c.one2 g) g)
def adamDir (emu : Bool) (c : LayerC) (m v : OVal) : OVal :=
  oDiv emu (oDiv emu m c.corr1) (oAdd emu (oSqrt emu (oDiv emu v c.corr2)) c.eps)

/-- *Built-in optimizers* (R219). -/
def builtin (emu : Bool) (opt phase : Nat) (factored : Bool) (c : LayerC) (x : ElemIn) : ElemOut :=
  let w : OVal := (x.w, 0)
  let m : OVal := (x.m, 0)
  let v : OVal := (x.v, 0)
  let g := oMul emu (x.g, 0) c.scale
  match opt, phase with
  | 1, _ =>
    let m' := newM emu c m g
    let v' := newV emu c v g
    { w := some (descend emu c w (withDecay emu c w (adamDir emu c m' v'))), m := some m', v := some v' }
  | 2, 1 =>
    let m' := newM emu c m g
    let v' := newV emu c v g
    let r := withDecay emu c w (adamDir emu c m' v')
    { m := some m', v := some v', sums := [(0, oMul emu w w), (1, oMul emu r r)] }
  | 2, _ =>
    let r := withDecay emu c w (adamDir emu c (x.m1, 0) (x.v1, 0))
    let sw : OVal := (decA48 (x.sums.getD 0 0).toNat, 0)
    let sr : OVal := (decA48 (x.sums.getD 1 0).toNat, 0)
    let rho := if sw.1.isZero || sr.1.isZero then oOne else oDiv emu (oSqrt emu sw) (oSqrt emu sr)
    { w := some (oSub emu w (oMul emu (oMul emu c.eta rho) r)) }
  | 3, _ =>
    let s := oSign (newM emu c m g)
    { w := some (descend emu c w (withDecay emu c w s)), m := some (oAdd emu (oMul emu c.beta2 m) (oMul emu c.one2 g)) }
  | 4, _ =>
    let m' := oAdd emu (oMul emu c.beta1 m) g
    { w := some (descend emu c w (withDecay emu c w m')), m := some m' }
  | 5, 1 => if factored then { sums := [(0, oAdd emu (oMul emu g g) c.eps)] } else {}
  | 5, _ =>
    if factored then
      let vhat := oDiv emu (oMul emu x.row x.col) x.mean
      let m' := newM emu c m (oDiv emu g (oSqrt emu vhat))
      { w := some (descend emu c w (withDecay emu c w m')), m := some m' }
    else
      let v' := newV emu c v g
      let m' := newM emu c m (oDiv emu g (oAdd emu (oSqrt emu v') c.eps))
      { w := some (descend emu c w (withDecay emu c w m')), m := some m', v := some v' }
  | _, _ => {}

/-! Micro-programs (R222). -/

/-- The value of an operand: element registers, then constants. -/
def microArg (c : LayerC) (j : Job) (x : ElemIn) (step : Nat) (e : List OVal) (n : Nat) : OVal :=
  if n < 16 then e.getD n oZero
  else
    match n with
    | 32 => c.eta
    | 33 => c.beta1
    | 34 => c.beta2
    | 35 => c.eps
    | 36 => if c.decay then c.lam else oZero
    | 37 => oRound false (.fin false step 0) false 0
    | 38 => c.scale
    | 39 => c.corr1
    | 40 => c.corr2
    | k =>
      if 41 ≤ k ∧ k ≤ 47 then (decA48 (x.sums.getD (k - 41) 0).toNat, 0)
      else if 48 ≤ k ∧ k ≤ 51 then oF (j.consts.getD (k - 48) 0)
      else oZero

/-- The planes that a phase writes with STP, and those it reads with LDP (R222). -/
def microPlanes (op : Nat) (ws : List W32) : List Nat := (ws.filter (fun w => bits w.toNat 31 26 == op)).map (fun w => bits w.toNat 3 0)

/-- One micro-op on the element registers and the outputs so far. `draw` gives RAND's random word by its stream. -/
def microStep (emu : Bool) (c : LayerC) (j : Job) (x : ElemIn) (step : Nat) (draw : Nat → W32) (st : List OVal × ElemOut) (w : W32) : List OVal × ElemOut :=
  let n := w.toNat
  let d := bits n 25 22
  let arg := microArg c j x step st.1
  let a := arg (bits n 21 16)
  let b := arg (bits n 15 10)
  let q := arg (bits n 9 4)
  let aux := bits n 3 0
  let set := fun (v : OVal) => (st.1.set d v, { st.2 with mask := st.2.mask ||| v.2 })
  match bits n 31 26 with
  | 0x01 => set (oAdd emu a b)
  | 0x02 => set (oSub emu a b)
  | 0x03 => set (oMul emu a b)
  | 0x04 => set (oFma emu a b q)
  | 0x05 => set (oDiv emu a b)
  | 0x06 => set (oSqrt emu a)
  | 0x07 => set (oRsqrt emu a)
  | 0x08 => set (vMax a.1 b.1, a.2 ||| b.2)
  | 0x09 => set (vMin a.1 b.1, a.2 ||| b.2)
  | 0x0A => set (vAbs a.1, a.2)
  | 0x0B => set (vNeg a.1, a.2)
  | 0x0C => set (oSign a)
  | 0x0D => set (if vLt (.fin false 0 0) q.1 then a else b)
  | 0x10 =>
    let v := match aux with
      | 0 => x.w
      | 1 => x.m
      | 2 => x.v
      | 3 => x.g
      | 4 => x.rowF
      | _ => x.colF
    set (oRound emu v false 0)
  | 0x11 =>
    let o := { st.2 with mask := st.2.mask ||| a.2 }
    (st.1, match aux with
      | 0 => { o with w := some a }
      | 1 => { o with m := some a }
      | 2 => { o with v := some a }
      | 4 => { o with row := some a }
      | 5 => { o with col := some a }
      | _ => { o with wc := some a })
  | 0x12 => set (.fin false ((draw aux).toNat / 256) (-24), 0)
  | 0x13 => (st.1, { st.2 with sums := st.2.sums ++ [(aux, a)], mask := st.2.mask ||| a.2 })
  | _ => st

/-- The planes W, M1, M2 and R (0 to 3) of the version read that a phase of a job reads for an element, those of the version written that it reads back,
whether it reads G, and the planes it writes; `vec` is a layer without factors (R219, R222, *Throughput*). -/
structure PhaseUse where
  old  : List Nat
  back : List Nat
  grad : Bool
  new  : List Nat
  deriving DecidableEq, Repr

def Job.use (j : Job) (phase : Nat) (vec : Bool) : PhaseUse :=
  let ws := j.micro.getD (phase - 1) []
  let rd := microPlanes 0x10 ws
  let wr := microPlanes 0x11 ws
  match j.optimizer, phase with
  | 1, _ => { old := [0, 1, 2, 3], back := [], grad := true, new := [0, 1, 2, 3] }
  | 2, 1 => { old := [0, 1, 2, 3], back := [], grad := true, new := [1, 2, 3] }
  | 2, _ => { old := [0], back := [1, 2, 3], grad := false, new := [0] }
  | 5, 1 => { old := [], back := [], grad := !vec, new := [] }
  | 5, _ => if vec then { old := [0, 1, 2, 3], back := [], grad := true, new := [0, 1, 2, 3] } else { old := [0, 1], back := [], grad := true, new := [0, 1] }
  | 0x80, _ => { old := rd.filter (· ≤ 2) ++ (if rd.contains 2 then [3] else []), back := [], grad := rd.contains 3,
                 new := wr.filter (· ≤ 2) ++ (if wr.contains 2 then [3] else []) }
  | _, _ => { old := [0, 1], back := [], grad := true, new := [0, 1] }

/-- A phase of a micro-program runs once for the element, straight through. -/
def micro (emu : Bool) (phase : Nat) (c : LayerC) (j : Job) (x : ElemIn) (step : Nat) (draw : Nat → W32) : ElemOut :=
  ((j.micro.getD (phase - 1) []).foldl (microStep emu c j x step draw) (List.replicate 16 oZero, {})).2

/-! Writing a master under master_mode 1 and a second moment (R165, R206). -/

/-- What a write of a value with remainder gives: the high part's code, the remainder, the value stored, the status bits, and whether it was
clamped. -/
structure SplitOut where
  hi     : Nat
  rem    : Int
  stored : Val
  mask   : Nat
  deriving DecidableEq, Repr

/-- The magnitude code of the finite value nearest (−1)^s × m × 2^e, ties towards +∞ (R165 step 1). -/
def nearestUp (f : FloatFmt) (s : Bool) (m : Nat) (e : Int) : Nat :=
  if m = 0 then 0
  else
    let q := f.lsbOf m e
    let n :=
      if q ≤ e then alignTo q m e
      else
        let d := (q - e).toNat
        let quot := m / 2 ^ d
        let rest := m % 2 ^ d
        if 2 ^ d < 2 * rest ∨ (2 ^ d = 2 * rest ∧ s = false) then quot + 1 else quot
    min (f.magCode n q) f.maxCode

/-- The unit of the remainder: 2^(E − sh) for a normal high part, 2^low for a subnormal or zero one. -/
def remUlp (f : FloatFmt) (sh : Int) (low : Int) (mag : Nat) : Int :=
  if mag < 2 ^ f.manBits then low else (mag / 2 ^ f.manBits : Nat) - (f.bias : Int) - sh

/-- The remainder of a value against a high part, as an integer. -/
def remainder (f : FloatFmt) (sh low : Int) (r : Rnd) (v : Val) (s : Bool) (mag : Nat) : Int :=
  match vScale (-(remUlp f sh low mag)) (vSub v (f.decode (mag + if s then f.signBit else 0))).1 with
  | .fin ds m e => let n := roundAt r 0 m e; if ds then -(n : Int) else n
  | _ => 0

/-- The FP32 overflow threshold: the largest finite value plus half a unit (R165 step 4). -/
def aboveFP32 (m : Nat) (e : Int) : Bool := magLe (2 ^ 25 - 1) 103 m e

def splitWrite (f : FloatFmt) (sh low : Int) (r : Rnd) (v : Val) : SplitOut :=
  match v with
  | .nan => { hi := f.nanCode, rem := 0, stored := .nan, mask := 0 }
  | .inf s => { hi := f.infCode + (if s then f.signBit else 0), rem := 0, stored := .inf s, mask := 2 }
  | .fin s m e =>
    if aboveFP32 m e then { hi := f.infCode + (if s then f.signBit else 0), rem := 0, stored := .inf s, mask := 2 }
    else
      let c0 := nearestUp f s m e
      let r0 := remainder f sh low r v s c0
      let up : Bool × Nat := if s then (if c0 = 0 then (false, 1) else (true, c0 - 1)) else (false, c0 + 1)
      let sc : Bool × Nat := if r0 = 32768 ∧ ¬ (s = false ∧ c0 = f.maxCode) then up else (s, c0)
      let r1 := if r0 = 32768 then remainder f sh low r v sc.1 sc.2 else r0
      let r2 := max (-32768) (min 32767 r1)
      let hi := sc.2 + (if sc.1 then f.signBit else 0)
      let part : Val := .fin (decide (r2 < 0)) r2.natAbs (remUlp f sh low sc.2)
      { hi := hi, rem := r2, stored := if r2 = 0 then f.decode hi else (vAdd (f.decode hi) part).1, mask := if r2 = r1 then 0 else 4 }

/-- A new master: its 32-bit code, the value stored, status and charge (R165, R221). -/
structure PlaneOut where
  code   : Nat
  low    : Nat := 0
  stored : Val
  mask   : Nat
  charge : Charge
  deriving DecidableEq, Repr

def kindMask (l : List Nat) : Nat := l.foldl (fun a k => a ||| 2 ^ k) 0

def plainPlane (emu : Bool) (r : Rnd) (v : Val) : PlaneOut :=
  let c := convertTo emu .fp32 0 false r v
  { code := c.code, stored := fFP32.decode c.code, mask := kindMask c.kinds, charge := c.charge }

/-- A clamped remainder sets SATURATE, but is no element saturated under R65, which saturate_count counts (R67, R165). -/
def splitCharge (o : SplitOut) : Charge := { nan := bitNat o.stored.isNan }

def masterPlane (emu : Bool) (mode : Nat) (r : Rnd) (v : Val) : PlaneOut :=
  if mode = 0 then plainPlane emu r v
  else
    let o := splitWrite fBF16 23 (-149) r v
    { code := o.hi * 65536 + natOfInt 16 o.rem, stored := o.stored, mask := o.mask, charge := splitCharge o }

/-- M2 and R (R206): `low` holds the remainder. -/
def momentPlane (r : Rnd) (v : Val) : PlaneOut :=
  let o := splitWrite fFP32 39 (-165) r v
  { code := o.hi, low := natOfInt 16 o.rem, stored := o.stored, mask := o.mask, charge := splitCharge o }

/-! Sums over layers. -/

/-- Where a layer's sums are kept: the partial sums of the M-dies under places 0 to 7, the combined ones under place 8 (R220). -/
def sumKey (job layer place : Nat) : Nat := (job * 1024 + layer) * 16 + place

/-- The tree of R274 over partial sums: pairs left to right, an absent child passing the other on. -/
def treePairs (f : Val → Val → Val) : List (Option Val) → List (Option Val)
  | a :: b :: rest =>
    (match a, b with
      | some x, some y => some (f x y)
      | some x, none => some x
      | none, y => y) :: treePairs f rest
  | l => l

def treeFold (f : Val → Val → Val) : Nat → List (Option Val) → Option Val
  | 0, l => l.headD none
  | n + 1, l => if l.length ≤ 1 then l.headD none else treeFold f n (treePairs f l)

def addA48 (a b : Val) : Val := (rneA48 (vAdd a b).1).1

/-- The A48 sum of partial sums in the fixed tree (R274). -/
def treeSum (l : List (Option (BitVec 48))) : BitVec 48 :=
  match treeFold addA48 l.length (l.map (fun x => x.map (fun y => decA48 y.toNat))) with
  | some v => encA48 v
  | none => 0

end Sys2Proof.Machine
end

