-- ==== Sys2Proof/Machine/Damage.lean ====
section
/-!
DEFINITION. Damaged state and its restoration from the mirror pair (13_mirror_spares_recovery R317): what a damaged atom is a part of, the request to the
partner, its answer, and the rewrite. The forms of the request and of the answer, and the moments at which a request leaves, are the model's (log
entry 30).
-/

namespace Sys2Proof.Machine

/-- What a damaged atom is a part of: 1 the own buffer of a version, 2 the mirror of a version, 3 the own husk entry of a step, 4 the copy of the
partner's; the pair region of 1 and 2; the version or the step; and the atom's offset. -/
structure DamagedPart where
  kind    : Nat
  pair    : Nat
  version : Nat
  off     : Nat
  deriving DecidableEq, Repr

def DamagedPart.bytes (x : DamagedPart) : Bytes := leBytes 2 x.kind ++ leBytes 2 x.pair ++ zeros 4 ++ leBytes 8 x.version ++ leBytes 8 x.off
def damagedOf (d : Bytes) : DamagedPart := { kind := field d 0 2, pair := field d 2 2, version := field d 8 8, off := field d 16 8 }

def PairDie.bufferIs (d : PairDie) (b v : Nat) : Bool := decide ((if b = 0 then d.buf0 else d.buf1) = .held v)

/-- The first element whose bytes lie in an atom of a section; 0 where the atom spans two planes. -/
def firstElem (n off : Nat) : Nat :=
  let p := min 3 (off / plane4 n)
  let o := off - p * plane4 n
  if p < 3 ∧ plane4 n < o + 256 then 0 else o / (if p = 3 then 2 else 4)

/-- The own buffer that holds a version. -/
def State.bufferPlace (s : State) (x : DamagedPart) : Option Nat :=
  match s.pairJob x.pair with
  | none => none
  | some j =>
    let b := bufOf (s.v0 x.pair) x.version
    let a := s.regionBase x.pair + bufferOff j.n b + x.off
    if (s.pairDie x.pair (mdieOf a)).bufferIs b x.version && decide (x.off < stateBytes j.n) then some a else none

/-- The mirror, HELD at the version, or, for an answer, at the next version with the atom's elements still to be written. -/
def State.mirrorPlace (s : State) (x : DamagedPart) (answer : Bool) : Option Nat :=
  match s.pairJob x.pair, SMap.find? s.recov.mirror x.pair with
  | some j, some m =>
    let mine := s.mem.jobRuns.filter (fun r => r.mirror && (match SMap.find? s.jobs r.job with
      | some q => q.pair == x.pair
      | none => false))
    let before := !mine.isEmpty && mine.all (fun r => r.phase == 1 && decide (r.segs ≤ firstElem j.n x.off / segSize))
    let ok : Bool := (match m with
      | .held v => v == x.version
      | .writing v => answer && v == x.version + 1 && before
      | .stale => false)
    if ok && j.mirror != 0 && decide (x.off < stateBytes j.n) then some (s.regionBase j.mirror + x.off) else none
  | _, _ => none

/-- A husk entry, own or the partner's, by its step. -/
def State.entryPlace (s : State) (x : DamagedPart) (base : Nat) : Option Nat :=
  match (List.range 3).find? (fun i => match s.run.husk[base + i]? with
      | some h => (h.state == .closed || h.state == .active) && h.step == x.version
      | none => false) with
  | some i => if x.off < s.huskEntrySize then some (s.huskBase (base + i) + x.off) else none
  | none => none

/-- Where a part stands here, and where its counterpart for the partner stands. -/
def State.partPlace (s : State) (x : DamagedPart) : Option Nat :=
  if x.kind = 1 then s.bufferPlace x else if x.kind = 2 then s.mirrorPlace x false else if x.kind = 3 then s.entryPlace x 0 else s.entryPlace x 3

def State.copyPlace (s : State) (x : DamagedPart) : Option Nat :=
  if x.kind = 1 then s.mirrorPlace x true else if x.kind = 2 then s.bufferPlace x else if x.kind = 3 then s.entryPlace x 3 else s.entryPlace x 0

/-- The part that an atom of the shard belongs to, where the pair may still hold it: the buffer of the latest sealed version, a HELD mirror, a husk entry
and the copy of one. -/
def State.damagedPart (s : State) (a : Nat) : Option DamagedPart :=
  let inside := fun (lo len : Nat) => decide (lo ≤ a ∧ a < lo + len)
  let own := s.jobs.findSome? (fun e =>
    let j := e.2
    let b := bufOf (s.v0 j.pair) s.run.sealed
    let lo := s.regionBase j.pair + bufferOff j.n b
    if inside lo (stateBytes j.n) && (s.pairDie j.pair (mdieOf a)).bufferIs b s.run.sealed then
      some ({ kind := 1, pair := j.pair, version := s.run.sealed, off := a - lo } : DamagedPart) else none)
  let mir := s.jobs.findSome? (fun e =>
    let j := e.2
    match SMap.find? s.recov.mirror j.pair with
    | some (.held v) =>
      if j.mirror != 0 && inside (s.regionBase j.mirror) (stateBytes j.n) then
        some ({ kind := 2, pair := j.pair, version := v, off := a - s.regionBase j.mirror } : DamagedPart) else none
    | _ => none)
  let husk := (List.range 6).findSome? (fun i => match s.run.husk[i]? with
    | some h =>
      if (h.state == .closed || h.state == .active) && inside (s.huskBase i) s.huskEntrySize then
        some ({ kind := if i < 3 then 3 else 4, pair := 0, version := h.step, off := a - s.huskBase i } : DamagedPart) else none
    | none => none)
  match own, mir with
  | some x, _ => some x
  | none, some x => some x
  | none, none => husk

/-- Ask the partner for each damaged atom that the pair may still hold; an atom of no such part waits in the list while it is damaged. -/
def State.askPartner (s : State) : State :=
  match s.recov.partner, s.member with
  | some q, some _ =>
    let open_ := s.mem.damaged.filter (fun x => SMap.get false s.mem.bad x)
    let ask := open_.filterMap (fun x => s.damagedPart (256 * x))
    if s.isFenced || open_.isEmpty then s
    else ask.foldl (fun st x => st.openSend { typ := tTransfer, cls := 9, object := 1, dstRank := q, data := x.bytes })
      (s.withMem { s.mem with damaged := open_.filter (fun x => (s.damagedPart (256 * x)).isNone) })
  | _, _ => s

/-- Answer the partner with the atom, where this module holds it whole. -/
def State.answerPartner (s : State) (rank : Nat) (d : Bytes) : State :=
  if s.recov.partner ≠ some rank ∨ d.length ≠ 24 then s
  else
    match s.copyPlace (damagedOf d) with
    | some a => if SMap.get false s.mem.bad (a / 256) then s
                else s.openSend { typ := tTransfer, cls := 9, object := 2, dstRank := rank, data := d ++ s.readMem (a / 256 * 256) 256 }
    | none => s

/-- The partner's answer: the whole atom is written, where the part still stands and is still damaged, and STATE_RESTORED is logged. -/
def State.restoreAtom (s : State) (rank : Nat) (d : Bytes) : State :=
  if s.recov.partner ≠ some rank ∨ d.length ≠ 280 then s
  else
    match s.partPlace (damagedOf d) with
    | some a => if SMap.get false s.mem.bad (a / 256) then
                  (s.writeMem (a / 256 * 256) (d.drop 24)).log { code := 0x8005, source := srcM (s.dieAt a), detail := leBytes 8 (a / 256 * 256) }
                else s
    | none => s

end Sys2Proof.Machine
end

