-- ==== Sys2Proof/Machine/JobOps.lean ====
section
/-!
DEFINITION. What an optimizer or mirror job does to one segment on one M-die (09_near_memory_engines R205 to R208, R218 to R225; 07_training_numerics
R151, R165, R166), and the conversion of a working copy from its master (R210, R211).
-/

namespace Sys2Proof.Machine

/-- Segments of a pair of n elements. -/
def segCount (n : Nat) : Nat := ceilDiv n segSize

/-- The elements of a segment that an M-die works on, in ascending order (log entry 10). -/
def State.segElems (s : State) (pair n m seg : Nat) : List Nat :=
  (elems (seg * segSize) (min segSize (n - seg * segSize))).filter (fun i => s.ownerDie pair i == m)

/-- Where a job phase reads and writes. -/
structure JobEnv where
  idx    : Nat
  j      : Job
  step   : Nat
  mirror : Bool
  phase  : Nat
  last   : Bool       -- this phase writes W
  old    : Nat        -- the section of the version read, and of the version written
  new    : Nat
  facOld : Nat
  facNew : Nat
  grad   : Nat
  wc     : Nat
  lr     : W32
  gs     : W32
  deriving DecidableEq, Repr

/-- The phase of a job that writes W and WC: the only one, or the second of LAMB and of the factored optimizer, or a micro-program's last (R219, R222). -/
def Job.lastPhase (j : Job) : Nat := j.phases

/-- The lr_scale and grad_scale of a step, from its own entry or from the partner's copy (R218, R223, *Husk entry*). -/
def State.scalesOf (s : State) (mirror : Bool) (step : Nat) : W32 × W32 :=
  let slot := if mirror then ((List.range 3).find? (fun i => match s.run.husk[i + 3]? with
      | some h => h.state != .free && h.step == step
      | none => false)).map (· + 3) else s.huskSlot step
  match slot with
  | some i => (BitVec.ofNat 32 (leNat (s.readMem (s.huskBase i + 0x20) 4)), BitVec.ofNat 32 (leNat (s.readMem (s.huskBase i + 0x24) 4)))
  | none => (0, 0)

/-- The buffer of a pair that an M-die holds whole for a version. -/
def PairDie.holds (d : PairDie) (v : Nat) : Option Nat := if d.buf0 = .held v then some 0 else if d.buf1 = .held v then some 1 else none

def PairDie.buf (d : PairDie) (b : Nat) : PlaneState := if b = 0 then d.buf0 else d.buf1
def PairDie.setBuf (d : PairDie) (b : Nat) (x : PlaneState) : PairDie := if b = 0 then { d with buf0 := x } else { d with buf1 := x }

def State.jobEnv (s : State) (r : JobRun) (j : Job) (base : Nat) : JobEnv :=
  let tgt := bufOf (s.v0 j.pair) r.step
  let sc := s.scalesOf r.mirror r.step
  let p := s.regionBase j.pair
  let f := s.regionBase j.factor
  { idx := r.job, j := j, step := r.step, mirror := r.mirror, phase := r.phase, last := r.phase == j.lastPhase,
    old := if r.mirror then s.regionBase j.mirror else p + bufferOff j.n base,
    new := if r.mirror then s.regionBase j.mirror else p + bufferOff j.n tgt,
    facOld := f + factorSec j (if r.mirror then 2 else base), facNew := f + factorSec j (if r.mirror then 2 else tgt),
    grad := s.regionBase j.grad, wc := p, lr := sc.1, gs := sc.2 }

def State.mem4 (s : State) (a : Nat) : Nat := leNat (s.readMem a 4)
def State.mem2 (s : State) (a : Nat) : Nat := leNat (s.readMem a 2)

/-- Master, first and second moment of element i in a section (R219). -/
def State.masterAt (s : State) (mode sec n i : Nat) : Val := masterValue mode (s.mem4 (planeAddr sec n 0 i))
def State.firstAt (s : State) (sec n i : Nat) : Val := fFP32.decode (s.mem4 (planeAddr sec n 1 i))
def State.secondAt (s : State) (sec n i : Nat) : Val := momentValue (s.mem4 (planeAddr sec n 2 i)) (s.mem2 (planeAddr sec n 3 i))

/-! Factored layers (R205, R219). -/

/-- The number of factor elements of the layers before layer k. -/
def Job.factorStart (j : Job) (k : Nat) : Nat := ((j.layers.take k).map Layer.factors).sum

def factorAddr (sec : Nat) (j : Job) (k i : Nat) : Nat := sec + 4 * (j.factorStart k + i)

/-- The combined layer sums of a two-phase job (R220). -/
def State.layerSums (s : State) (job layer : Nat) : List (BitVec 48) := SMap.get [] s.mem.sums (sumKey job layer 8)

/-- The new factors of a layer and the mean of the new row factors. -/
structure FactorC where
  rows : List OVal
  cols : List OVal
  mean : OVal
  deriving DecidableEq, Repr

def State.factorC (s : State) (emu : Bool) (env : JobEnv) (k : Nat) (l : Layer) (c : LayerC) : FactorC :=
  if l.cols ≤ 1 then { rows := [], cols := [], mean := oZero }
  else
    let rn := l.count / l.cols
    let sums := s.layerSums env.idx k
    let at' := fun (i div : Nat) =>
      let a : OVal := (decA48 (sums.getD i 0).toNat, 0)
      let old : OVal := (fFP32.decode (s.mem4 (factorAddr env.facOld env.j k i)), 0)
      oAdd emu (oMul emu c.beta2 old) (oDiv emu (oMul emu c.one2 a) (oNat div))
    let rows := (List.range rn).map (fun i => at' i l.cols)
    { rows := rows, cols := (List.range l.cols).map (fun i => at' (rn + i) rn),
      mean := oDiv emu (rows.foldl (oAdd emu) oZero) (oNat rn) }

/-- A layer with what is constant over it. -/
structure LayerRun where
  k : Nat
  l : Layer
  c : LayerC
  f : FactorC
  deriving DecidableEq, Repr

def State.layerRuns (s : State) (env : JobEnv) : List LayerRun :=
  env.j.layers.zipIdx.map (fun p =>
    let c := layerC s.num.emu p.1 env.step env.lr env.gs
    { k := p.2, l := p.1, c := c, f := if env.j.optimizer = 5 ∧ env.phase = 2 then s.factorC s.num.emu env p.2 p.1 c
                                        else { rows := [], cols := [], mean := oZero } })

/-! One element. -/

/-- What a segment's elements add up to. -/
structure SegAcc where
  st    : State
  mask  : Nat
  mc    : Charge
  wc    : Charge
  vals  : List (Nat × Val)
  fold  : Word
  watch : SMap (BitVec 48 × BitVec 48)

def addSlot (l : List (BitVec 48)) (i : Nat) (v : Val) : List (BitVec 48) :=
  let l' := l ++ List.replicate (i + 1 - l.length) 0
  l'.set i (encA48 (addA48 (decA48 (l'.getD i 0).toNat) v))

def State.addSum (s : State) (key i : Nat) (v : Val) : State :=
  s.withMem { s.mem with sums := SMap.insert s.mem.sums key (addSlot (SMap.get [] s.mem.sums key) i v) }

/-- Whether the update watch follows a layer (R166, R168). -/
def State.watched (s : State) (step layer : Nat) : Bool :=
  match SMap.find? s.num.watch layer with
  | some e => e.on
  | none => (s.policyOf step).entries.any (fun e => e.layer == layer && e.role == 1)

/-- Σ of squares: each square formed exactly, each addition rounded once (R166). -/
def addSquare (a : BitVec 48) (v : Val) : BitVec 48 := encA48 (rneA48 (vAdd (decA48 a.toNat) (vMul v v).1).1).1

/-- The fold term of element i of a state section as it stands (R224). -/
def State.elemFold (s : State) (step sec n i : Nat) : Word :=
  match s.run.armed with
  | none => 0
  | some a => foldTerm a.keyLo a.keyHi (BitVec.ofNat 64 step) i (BitVec.ofNat 32 (s.mem4 (planeAddr sec n 0 i)))
      (BitVec.ofNat 32 (s.mem4 (planeAddr sec n 1 i))) (BitVec.ofNat 32 (s.mem4 (planeAddr sec n 2 i))) (BitVec.ofNat 16 (s.mem2 (planeAddr sec n 3 i)))

/-- The fold term of factor element i, indexed from n: w0 its FP32 bits, w1 zero (R224). -/
def State.factorFold (s : State) (step i : Nat) (w : W32) : Word :=
  match s.run.armed with
  | none => 0
  | some a => foldTerm a.keyLo a.keyHi (BitVec.ofNat 64 step) i w 0 0 0

/-- The inputs of element i (R219). -/
def State.elemIn (s : State) (env : JobEnv) (q : LayerRun) (mode i : Nat) (g : Val) : ElemIn :=
  let n := env.j.n
  let rn := if q.l.cols = 0 then 0 else q.l.count / q.l.cols
  let r := if q.l.cols = 0 then 0 else (i - q.l.first) / q.l.cols
  let c := if q.l.cols = 0 then 0 else (i - q.l.first) % q.l.cols
  let fac := fun (k : Nat) => if 1 < q.l.cols then fFP32.decode (s.mem4 (factorAddr env.facOld env.j q.k k)) else .fin false 0 0
  { w := s.masterAt mode env.old n i, m := s.firstAt env.old n i, v := s.secondAt env.old n i,
    m1 := s.firstAt env.new n i, v1 := s.secondAt env.new n i, g := g,
    row := q.f.rows.getD r oZero, col := q.f.cols.getD c oZero, mean := q.f.mean, rowF := fac r, colF := fac (rn + c),
    sums := s.layerSums env.idx q.k }

/-- The rounding of a plane's write (R221): 0 W, 1 M1, 2 M2, 3 the factors. -/
def State.planeRnd (s : State) (env : JobEnv) (plane i : Nat) : Rnd :=
  rounding s.num.emu env.j.srWrites env.j.srK s.seed env.step env.j.masterId 0 i plane

/-- Write a factor element (R221). -/
def State.writeFactor (s : State) (env : JobEnv) (k i : Nat) (v : Val) : State × PlaneOut :=
  let p := plainPlane s.num.emu (s.planeRnd env 3 (env.j.n + env.j.factorStart k + i)) v
  (s.writeMem (factorAddr env.facNew env.j k i) (leBytes 4 p.code), p)

/-- Compute and write one element of a phase (R218 to R225). The working copy is converted from the value as the master plane holds it, so that R210
gives its bits again (log entry 36). -/
def SegAcc.elem (env : JobEnv) (runs : List LayerRun) (mode m : Nat) (acc : SegAcc) (x : Nat × Val) : SegAcc :=
  let i := x.1
  let s := acc.st
  let emu := s.num.emu
  let n := env.j.n
  match runs.find? (fun q => decide (q.l.first ≤ i ∧ i < q.l.first + q.l.count)) with
  | none => acc
  | some q =>
    let inp := s.elemIn env q mode i x.2
    let draw := fun (aux : Nat) =>
      laneRandom emu s.seed (BitVec.ofNat 64 env.step) env.j.masterId (if emu then 0 else 0x40 + aux) (BitVec.ofNat 64 i) Config.microDraw
    let out := if env.j.optimizer = 0x80 then micro emu env.phase q.c env.j inp env.step draw
               else builtin emu env.j.optimizer env.phase (decide (1 < q.l.cols)) q.c inp
    let wp := out.w.map (fun v => (masterPlane emu mode (s.planeRnd env 0 i) v.1, v.2))
    let mp := out.m.map (fun v => (plainPlane emu (s.planeRnd env 1 i) v.1, v.2))
    let vp := out.v.map (fun v => (momentPlane (s.planeRnd env 2 i) v.1, v.2))
    let put := fun (st : State) (p : Option (PlaneOut × Nat)) (plane : Nat) => match p with
      | some y => st.writeMem (planeAddr env.new n plane i) (leBytes 4 y.1.code)
      | none => st
    let s1 := put (put (put s wp 0) mp 1) vp 2
    let s2 := match vp with
      | some y => s1.writeMem (planeAddr env.new n 3 i) (leBytes 2 y.1.low)
      | none => s1
    let mask := [wp, mp, vp].foldl (fun a p => match p with
      | some y => a ||| y.1.mask ||| y.2
      | none => a) (acc.mask ||| out.mask)
    let mc := [wp, mp, vp].foldl (fun a p => match p with
      | some y => a.add y.1.charge
      | none => a) acc.mc
    let fac := fun (st : State × Nat × Charge) (v : Option OVal) (k : Nat) => match v with
      | some y => let w := st.1.writeFactor env q.k k y.1; (w.1, st.2.1 ||| w.2.mask ||| y.2, st.2.2.add w.2.charge)
      | none => st
    let rn := if q.l.cols = 0 then 0 else q.l.count / q.l.cols
    let r := if q.l.cols = 0 then 0 else (i - q.l.first) / q.l.cols
    let c := if q.l.cols = 0 then 0 else (i - q.l.first) % q.l.cols
    let t := fac (fac (s2, mask, mc) out.row r) out.col (rn + c)
    let s3 := if env.mirror then t.1
              else out.sums.foldl (fun st y =>
                if env.j.optimizer = 5 then (st.addSum (sumKey env.idx q.k m) r y.2.1).addSum (sumKey env.idx q.k m) (rn + c) y.2.1
                else st.addSum (sumKey env.idx q.k m) y.1 y.2.1) t.1
    let sumMask := out.sums.foldl (fun a y => a ||| y.2.2) t.2.1
    let acc1 := { acc with st := s3, mask := sumMask, mc := t.2.2 }
    let acc2 := match wp with
      | none => acc1
      | some y =>
        let w0 := SMap.get (0, 0) acc.watch q.l.id
        let d := (rneA48 (vSub y.1.stored inp.w).1).1
        let follow := s.watched env.step q.l.id && env.last && !env.mirror
        { acc1 with fold := acc.fold + s3.elemFold env.step env.new n i,
                    watch := if follow then SMap.insert acc.watch q.l.id (addSquare w0.1 d, addSquare w0.2 y.1.stored) else acc.watch }
    match (if env.j.optimizer = 0x80 then out.wc.map (fun v => (masterPlane emu mode (s.planeRnd env 0 i) v.1).stored) else wp.map (fun y => y.1.stored)),
        env.mirror with
    | some v, false =>
      let cv := s3.wcCode env.j env.step i v
      let wd := wcWidth (s3.wcFormat env.j env.step).1
      { acc2 with st := s3.writeMem (env.wc + wd * i) (leBytes wd cv.code), mask := sumMask ||| kindMask cv.kinds, wc := acc.wc.add cv.charge,
                  vals := acc.vals ++ [(i, v)] }
    | _, _ => acc2

/-- The use that a phase makes of element i (R219). -/
def JobEnv.useAt (env : JobEnv) (i : Nat) : PhaseUse :=
  env.j.use env.phase (env.j.layers.any (fun l => decide (l.first ≤ i ∧ i < l.first + l.count ∧ l.cols ≤ 1)))

/-- A whole segment of a phase on an M-die. The partial fold of what it wrote is answered beside the state. -/
def State.runSegment (s : State) (env : JobEnv) (m : Nat) (grads : List (Nat × Val)) : State × Word :=
  let w0 := (s.stepRec env.step).watch.filter (fun e => decide (e.1 / 65536 = m))
  let acc0 : SegAcc := { st := s, mask := 0, mc := {}, wc := {}, vals := [], fold := 0, watch := w0.map (fun e => (e.1 % 65536, e.2)) }
  let acc := grads.foldl (SegAcc.elem env (s.layerRuns env) (s.policyOf env.step).masterMode m) acc0
  let s1 := acc.st.mapStep env.step (fun r =>
    { r with mcopies := SMap.insert r.mcopies m (SMap.get 0 r.mcopies m ||| acc.mask),
             watch := acc.watch.foldl (fun w e => SMap.insert w (m * 65536 + e.1) e.2) r.watch })
  let wd := wcWidth (s1.wcFormat env.j env.step).1
  let atoms := grads.flatMap (fun x => (env.useAt x.1).new.map (fun p => planeAddr env.new env.j.n p x.1 / 256))
    ++ acc.vals.map (fun x => (env.wc + wd * x.1) / 256)
  let s2 := ((s1.clearAtoms atoms).charge env.step env.j.masterId acc.mc false).charge env.step env.j.wcId acc.wc env.j.wcNan
  (if acc.vals.isEmpty then s2 else s2.noteRange env.step env.j.wcId env.j.n acc.vals, acc.fold)

/-- One new factor, with its status on M-die 0 and its conversion charged to master_tensor_id (R218). -/
def State.putFactor (s : State) (env : JobEnv) (k i : Nat) (v : OVal) : State :=
  let w := s.writeFactor env k i v.1
  (w.1.mapStep env.step (fun r => { r with mcopies := SMap.insert r.mcopies 0 (SMap.get 0 r.mcopies 0 ||| w.2.mask ||| v.2) })).charge
    env.step env.j.masterId w.2.charge false

/-- When the phase that writes W has ended on every M-die of its entry, the new factors of a factored job are written; every factor element is folded
as it stands (R219, R224). -/
def State.writeFactors (s : State) (env : JobEnv) : State × Word :=
  (s.layerRuns env).foldl (fun (a : State × Word) q =>
    let vals := if env.j.optimizer = 5 then q.f.rows ++ q.f.cols else []
    let s1 := vals.zipIdx.foldl (fun st v => st.putFactor env q.k v.2 v.1) a.1
    (s1, (elems 0 q.l.factors).foldl (fun f i =>
      f + s1.factorFold env.step (env.j.n + env.j.factorStart q.k + i) (BitVec.ofNat 32 (s1.mem4 (factorAddr env.facNew env.j q.k i)))) a.2)) (s, 0)

/-! Rebuild of a working copy (R210, R211). -/

/-- Convert version v's masters on an M-die into the WC plane; charged to step v + 1. -/
def State.rebuildWc (s : State) (j : Job) (m v b : Nat) : State :=
  let is := (elems 0 j.n).filter (fun i => s.ownerDie j.pair i == m)
  let base := s.regionBase j.pair
  let mode := (s.policyOf (v + 1)).masterMode
  let wd := wcWidth (s.wcFormat j v).1
  let vals := is.map (fun i => (i, s.masterAt mode (base + bufferOff j.n b) j.n i))
  let cs := vals.map (fun p => (p.1, s.wcCode j v p.1 p.2))
  let s1 := (cs.foldl (fun st p => st.writeMem (base + wd * p.1) (leBytes wd p.2.code)) s).clearAtoms (is.map (fun i => (base + wd * i) / 256))
  let s2 := s1.charge (v + 1) j.wcId ((cs.map (fun p => p.2.charge)).foldl Charge.add {}) j.wcNan
  s2.noteRange (v + 1) j.wcId j.n vals

end Sys2Proof.Machine
end

