-- ==== Sys2Proof/Machine/NearMemory.lean ====
section
/-!
DEFINITION. The near-memory engines' events: job phases and their segments, gradient deliveries, WC rebuilds, the region guard and the mirror
(09_near_memory_engines R207 to R228; 13_mirror_spares_recovery R313 to R315), and the drain of add-on-writes (08_memory_system R185 to R188).
-/

namespace Sys2Proof.Machine

/-! Counters. -/

def State.near (s : State) (m : Nat) (f : NearCounters → NearCounters) : State :=
  s.withMem { s.mem with near := SMap.insert s.mem.near m (f (SMap.get NearCounters.blank s.mem.near m)) }

/-- A WC rebuild from a version starts on an M-die under R211: it is counted and logged (R229, R230). -/
def State.noteRebuild (s : State) (pair v m : Nat) : State :=
  (s.near m (fun n => { n with rebuild := sat32 (n.rebuild + 1) })).log
    { code := 0x2010, source := srcM m, step := v + 1, detail := leBytes 2 pair ++ leBytes 8 v }

/-- The job phases of discarded steps that still run stop under R211: they are counted and logged (R229, R230). -/
def State.noteStopped (s : State) (p : Nat → Bool) : State :=
  (s.mem.jobRuns.filter (fun r => p r.step && !r.ended)).foldl (fun st r =>
    (st.near r.mdie (fun n => { n with jobsStopped := sat32 (n.jobsStopped + 1) })).log
      { code := 0x2011, source := srcM r.mdie, step := r.step, detail := leBytes 2 r.job }) s

/-! Starting a phase (R208, R219, R223). -/

/-- Which phase of its job an entry runs: one more than the earlier entries of its window and class that name the job (R220). -/
def State.phaseOf (s : State) (k : Nat) (e : EntrySt) : Nat :=
  (s.run.entries.filter (fun x => decide (x.1 < k) && keyWindow x.1 == keyWindow k && x.2.entry.cls == e.entry.cls
    && x.2.entry.object == e.entry.object)).length + 1

def State.addRun (s : State) (r : JobRun) : State := s.withMem { s.mem with jobRuns := s.mem.jobRuns ++ [r] }

def newRun (k : Nat) (e : EntrySt) (m phase : Nat) (mirror : Bool) : JobRun :=
  { tableKey := k, job := e.entry.object, mdie := m, step := e.step, mirror := mirror, phase := phase, segs := 0, fold := 0, ended := false, stall := none }

/-- A job that finds neither buffer of its base version writes nothing and fails its step (R208). -/
def State.jobGone (s : State) (k m pair step : Nat) : State :=
  let s1 := ((s.startUnit k m).finishUnit k m).failStep step fEntry
  s1.logStepKey (m + 1) { code := 0x200C, source := srcM m, step := step,
                                         detail := leBytes 2 pair ++ leBytes 8 (step - 1) ++ leBytes 8 0 }

/-- An optimizer entry starts its phase on an M-die of its mask; the layer sums of phase 1 start from nothing. -/
def execOptimizerJobPhase (idx : Nat) (mdie : Nat) (at' : Nat) (s0 : State) : Out :=
  let s := s0.advance at'
  match s.readyKey idx clsOpt mdie with
  | none => notNow "no optimizer entry of this table place is ready on this M-die"
  | some k =>
    match s.entryAt k with
    | none => notNow "no such entry"
    | some e =>
      match SMap.find? s.jobs e.entry.object with
      | none => notNow "no such job is in force"
      | some j =>
        if s.mayStart = false ∨ s.blocked k mdie clsOpt = true then notNow "the M-die cannot begin this entry"
        else
          let d := s.pairDie j.pair mdie
          let tgt := bufOf (s.v0 j.pair) e.step
          let phase := s.phaseOf k e
          if (d.holds (e.step - 1)).isNone ∨ (phase ≠ 1 ∧ d.buf tgt ≠ .writing e.step) then .next (s.jobGone k mdie j.pair e.step)
          else
            let s1 := s.setPairDie j.pair mdie { (if phase = 1 then (d.setBuf tgt (.writing e.step)) else d) with
              wc := .writing e.step, done := 0, rebuild := none }
            let s2 := if phase = 1 then s1.withMem { s1.mem with sums := s1.mem.sums.filter (fun x => ¬ (x.1 / 16 / 1024 = e.entry.object ∧ x.1 % 16 = mdie)) }
                      else s1
            .next ((s2.startUnit k mdie).addRun (newRun k e mdie phase false))

/-- A mirror entry starts its phase on an M-die of its mask; the mirror is WRITING from its first write (R223, R313). It waits for a refresh that is
still to arrive (R316). -/
def execMirrorJobPhase (idx : Nat) (mdie : Nat) (at' : Nat) (s0 : State) : Out :=
  let s := s0.advance at'
  match s.readyKey idx clsMirror mdie with
  | none => notNow "no mirror entry of this table place is ready on this M-die"
  | some k =>
    match s.entryAt k with
    | none => notNow "no such entry"
    | some e =>
      match SMap.find? s.jobs e.entry.object with
      | none => notNow "no such job is in force"
      | some j =>
        if s.mayStart = false ∨ s.blocked k mdie clsMirror = true ∨ s.recov.refreshing.contains j.pair = true then
          notNow "the M-die cannot begin this entry"
        else .next ((s.startUnit k mdie).addRun (newRun k e mdie (s.phaseOf k e) true))

/-! Segments (R213 to R215, R223, R227). -/

def segKey (step m pair seg : Nat) : Nat := ((step % 2 * 8 + m) * 4096 + pair) * 262144 + seg
def State.segCounts (s : State) (step m pair seg : Nat) : SegCount := SMap.get SegCount.blank s.mem.segs (segKey step m pair seg)

def State.setRunOf (s : State) (r : JobRun) (f : JobRun → JobRun) : State :=
  s.withMem { s.mem with jobRuns := s.mem.jobRuns.map (fun q => if q = r then f q else q) }

/-- The job fold of R312 over the jobs in force. -/
def jobWords (j : Job) : List Word :=
  let b := padTo 8 j.raw
  (List.range (b.length / 8)).map (fun i => BitVec.ofNat 64 (field b (8 * i) 8))
def jobFold (jobs : SMap Job) : Word :=
  (jobs.flatMap (fun e => (jobWords e.2).zipIdx.map (fun w => mix64 (mixNat (e.1 * 2 ^ 32 + w.2) ^^^ w.1)))).foldl (· + ·) 0

/-- The guard unit of a byte of a section on its M-die (R227): 8 MiB of local addresses each. -/
def guardUnit (sec a : Nat) : Nat := (laOf a - laOf sec) / 8388608

/-- The places that a phase writes for an element in the target section. -/
def writePlaces (env : JobEnv) (i : Nat) : List Nat := (env.useAt i).new.map (fun p => planeAddr env.new env.j.n p i)

/-- The first guard unit that a segment's writes would enter and that the streamer has not read (R227). -/
def State.guardHit (s : State) (env : JobEnv) (m : Nat) (is : List Nat) : Option Nat :=
  match SMap.find? s.mem.guards (env.j.pair * 8 + m) with
  | none => none
  | some g =>
    if env.mirror || g.buf != bufOf (s.v0 env.j.pair) env.step then none
    else ((is.flatMap (writePlaces env)).map (fun a => guardUnit env.new a)).find? (fun u => !g.read.contains u)

/-- The first uncorrectable address among those that the elements are read from (R194). -/
def State.badRead (s : State) (env : JobEnv) (is : List Nat) : Option Nat :=
  is.findSome? (fun i =>
    let u := env.useAt i
    (u.old.map (fun p => planeAddr env.old env.j.n p i) ++ u.back.map (fun p => planeAddr env.new env.j.n p i)
      ++ (if u.grad && !env.mirror then [env.grad + 4 * i] else [])).find? (fun a => SMap.get false s.mem.bad (a / 256)))

/-- An uncorrectable read by an engine: counted, logged, and its step does not seal (R194). -/
def State.engineUe (s : State) (step a : Nat) : State := (s.countUe (a / 256 * 256) step).failStep step fEcc

/-- A job that stops early: its partial writes stay, and the M-die has no more work for it (R194, R211). -/
def State.endJobRun (s : State) (r : JobRun) : State :=
  (s.withMem { s.mem with jobRuns := s.mem.jobRuns.filter (fun q => q ≠ r) }).finishUnit r.tableKey r.mdie

/-- The owner-side send of a segment's gradient to the mirror partner, once its own job has finished the phase there (R313, log entry 30). -/
def State.sendStream (s : State) (env : JobEnv) (m seg : Nat) (is : List Nat) (window : Nat) : State :=
  match s.recov.partner with
  | none => s
  | some p =>
    let d := leBytes 2 env.j.pair ++ leBytes 1 m ++ leBytes 1 env.phase ++ leBytes 4 seg ++ leBytes 8 (jobFold s.jobs).toNat
      ++ is.flatMap (fun i => s.readMem (env.grad + 4 * i) 4)
    s.openSend { typ := tTransfer, cls := 9, window := window, lag := 1, dstRank := p, data := d, step := some env.step }

/-- A phase begins and works through its next segment: an own job once the segment's contribution count equals expected_count (R214; an M-die that holds
no element of the segment takes no delivery of it and waits for none, log entry 10), a mirror job on the gradients of the partner's stream. A write into a guard unit that the streamer has not read waits there (R227, R228). -/
def execSegmentBegin (idx : Nat) (mdie : Nat) (seg : Nat) (stream : Bytes) (s : State) : Out :=
  match s.mem.jobRuns.find? (fun r => keyPlace r.tableKey == idx && r.mdie == mdie && !r.ended && r.stall.isNone) with
  | none => notNow "no job phase of this table place runs on this M-die"
  | some r =>
    match SMap.find? s.jobs r.job, s.inRun with
    | some j, true =>
      let base := ((s.pairDie j.pair mdie).holds (r.step - 1)).getD 0
      let env := s.jobEnv r j base
      let is := s.segElems j.pair j.n mdie seg
      if r.segs ≠ seg ∨ segCount j.n ≤ seg then notNow "the segment is not next"
      else if r.mirror = false ∧ ((is ≠ [] ∧ (s.segCounts r.step mdie j.pair seg).contribs ≠ j.expected) ∨ stream ≠ []) then notNow "the segment's contributions are not complete"
      else if r.mirror = true ∧ stream.length ≠ 4 * is.length then notNow "the partner's stream has not brought this segment"
      else
        match s.guardHit env mdie is with
        | some u =>
          let s1 := (s.setRunOf r (fun q => { q with stall := some (u, s.clk.ref) })).near mdie (fun n => { n with stallCount := sat32 (n.stallCount + 1) })
          .next (s1.logStepKey (mdie + 1) { code := 0x200F, source := srcM mdie, step := r.step })
        | none =>
          let hurt := s.badRead env is
          if hurt.isSome then .next ((s.engineUe r.step (hurt.getD 0)).endJobRun r).askPartner
          else
            let gs := is.zipIdx.map (fun p => (p.1, fFP32.decode (if r.mirror then field stream (4 * p.2) 4 else s.mem4 (env.grad + 4 * p.1))))
            let s1 := if r.mirror then s.withRecov { s.recov with mirror := SMap.insert s.recov.mirror j.pair (.writing r.step) } else s
            let x := s1.runSegment env mdie gs
            let s2 := x.1.setRunOf r (fun q => { q with segs := seg + 1, fold := q.fold + x.2 })
            let d := s2.pairDie j.pair mdie
            let s3 := if env.last && !r.mirror then s2.setPairDie j.pair mdie { d with done := seg + 1 } else s2
            .next (if r.mirror then s3 else s3.sendStream env mdie seg is (keyWindow r.tableKey))
    | _, _ => notNow "the job is not in force in a run"

/-- The shard digest record (R225). -/
def digestRecord (pair : Nat) (mirror stopped : Bool) (tag step : Nat) (fold : Word) (n : Nat) : Bytes :=
  leBytes 2 pair ++ leBytes 1 (bitNat mirror) ++ leBytes 1 (bitNat stopped) ++ leBytes 4 tag ++ leBytes 8 step
    ++ leBytes 8 (if stopped then 0 else fold.toNat) ++ leBytes 4 n ++ leBytes 4 0

/-- The version tag of R207. -/
def State.versionTag (s : State) (pair v : Nat) : Nat := bufOf (s.v0 pair) v * 65536 + v % 65536

/-- Record a job's digest; a mirror's record is also sent to the partner (R225, R314). -/
def State.addDigest (s : State) (step : Nat) (mirror : Bool) (window : Nat) (rec : Bytes) : State :=
  let s1 := s.mapStep step (fun r => { r with digests := r.digests ++ [rec] })
  match mirror, s.recov.partner with
  | true, some p => s1.openSend { typ := tTransfer, cls := 9, window := window, lag := 1, dstRank := p, data := rec, step := some step }
  | _, _ => s1

/-- When the last M-die of an entry has ended a phase that writes W, the factors are written, the partial folds are added and the record is made. -/
def State.closePhase (s : State) (r : JobRun) (j : Job) (env : JobEnv) : State :=
  let mine := s.mem.jobRuns.filter (fun q => q.tableKey == r.tableKey)
  let s0 := s.withMem { s.mem with jobRuns := s.mem.jobRuns.filter (fun q => q.tableKey != r.tableKey) }
  if env.last = false then s0
  else
    let w := s0.writeFactors env
    let fold := (mine.map (fun q => q.fold)).foldl (· + ·) w.2
    let dg := digestRecord j.pair r.mirror false (s.versionTag j.pair r.step) r.step fold j.n
    let s1 := w.1.addDigest r.step r.mirror (keyWindow r.tableKey) dg
    if r.mirror then s1.withRecov { s1.recov with mirror := SMap.insert s1.recov.mirror j.pair (.held r.step) } else s1

/-- A phase ends on an M-die: after the last phase of an own job its buffer and the WC plane are HELD (R208). -/
def execJobPhaseEnd (idx : Nat) (mdie : Nat) (at' : Nat) (s0 : State) : Out :=
  let s := s0.advance at'
  match s.mem.jobRuns.find? (fun r => keyPlace r.tableKey == idx && r.mdie == mdie && !r.ended) with
  | none => notNow "no job phase of this table place runs on this M-die"
  | some r =>
    match SMap.find? s.jobs r.job with
    | none => notNow "the job is not in force"
    | some j =>
      if r.segs ≠ segCount j.n then notNow "segments remain"
      else
        let base := ((s.pairDie j.pair mdie).holds (r.step - 1)).getD 0
        let env := s.jobEnv r j base
        let s1 := (s.setRunOf r (fun q => { q with ended := true })).near mdie (fun n => { n with jobsDone := sat32 (n.jobsDone + 1) })
        let d := s1.pairDie j.pair mdie
        let s2 := if env.last && !r.mirror then
            s1.setPairDie j.pair mdie { d.setBuf (bufOf (s.v0 j.pair) r.step) (.held r.step) with wc := .held r.step }
          else s1
        let s3 := s2.finishUnit r.tableKey mdie
        let allDone : Bool := (match s3.entryAt r.tableKey with
          | some e => e.state == .finished
          | none => true)
        .next (if allDone then s3.closePhase r j env else s3)

/-! Gradient deliveries (R212 to R215). -/

/-- Whether a step's gradient in a segment still has a use to come on an M-die: a phase of its optimizer job, which the owner-side send follows
(R215). -/
def State.gradInUse (s : State) (pair m seg step : Nat) : Bool :=
  s.run.entries.any (fun x =>
    x.2.entry.cls == clsOpt && x.2.step == step && x.2.open_ && x.2.entry.units.contains m && !x.2.done.contains m
      && (match SMap.find? s.jobs x.2.entry.object with
          | some j => j.pair == pair
          | none => false)
      && !s.mem.jobRuns.any (fun r => r.tableKey == x.1 && r.mdie == m && decide (seg < r.segs)))

/-- Ordinal 0 writes each value rounded once to FP32; each later ordinal is added exactly to G and rounded once (R212). -/
def gradValue (ordinal : Nat) (old : Nat) (x : BitVec 48) : Nat :=
  let v := decA48 x.toNat
  (encFP32 (if ordinal = 0 then v else (vAdd (fFP32.decode old) v).1)).toNat

/-- Apply a delivery in its turn: the gradient plane, the segment's counters, and CONTRIBUTION_EXCESS (R212 to R214). -/
def State.applyDelivery (s : State) (d : Delivery) : State :=
  match s.pairJob d.pair with
  | none => s
  | some j =>
    let g := s.regionBase j.grad
    let is := (s.segElems d.pair j.n d.mdie d.seg).filter (fun i => decide (d.first ≤ i ∧ i < d.first + d.len))
    let s0 := (is.zip d.vals).foldl (fun st p => st.writeMem (g + 4 * p.1) (leBytes 4 (gradValue d.ordinal (st.mem4 (g + 4 * p.1)) p.2))) s
    let s1 := s0.mendAtoms (is.map (fun i => (g + 4 * i, 4)))
    let c := s1.segCounts d.step d.mdie d.pair d.seg
    let c1 : SegCount := { contribs := c.contribs + d.count, deliveries := c.deliveries + 1 }
    let s2 := s1.withMem { s1.mem with segs := SMap.insert s1.mem.segs (segKey d.step d.mdie d.pair d.seg) c1 }
    let s3 := s2.near d.mdie (fun n => { n with delivered := sat32 (n.delivered + 1) })
    if j.expected < c1.contribs then
      (((s3.near d.mdie (fun n => { n with excess := sat32 (n.excess + 1) })).log
        { code := 0x200D, source := srcM d.mdie, step := d.step, detail := leBytes 2 d.pair ++ leBytes 4 d.seg }).failStep d.step fEntry)
    else s3

def sameSeg (a b : Delivery) : Bool := a.mdie == b.mdie && a.pair == b.pair && a.seg == b.seg && a.step == b.step

/-- Apply the deliveries held for a segment whose turn has come, in ascending ordinal. -/
def State.applyEarly : Nat → State → Delivery → State
  | 0, s, _ => s
  | n + 1, s, d =>
    match s.mem.early.find? (fun x => sameSeg x d && x.ordinal == (s.segCounts d.step d.mdie d.pair d.seg).deliveries) with
    | none => s
    | some x => State.applyEarly n ((s.withMem { s.mem with early := s.mem.early.erase x }).applyDelivery x) d

def State.takeDelivery (s : State) (d : Delivery) : State :=
  let s1 := s.applyDelivery d
  s1.applyEarly s1.mem.early.length d

/-- A delivery reaches its M-die: applied in turn, held while early, made to wait while the gradient before it is in use, or discarded as stray. An M-die
holds 16 early deliveries; the next waits in the fabric (R212, R213, R215). -/
def execGradientDelivery (d : Delivery) (s : State) : Out :=
  if s.mem.outbox.contains d = false then notNow "no collective has sent this delivery"
  else
    let s1 := s.withMem { s.mem with outbox := s.mem.outbox.erase d }
    if s.inRun = false ∨ s.run.lag0 ≠ some d.step then
      let s2 := (s1.near d.mdie (fun n => { n with stray := sat32 (n.stray + 1) })).log
        { code := 0x200E, source := srcM d.mdie, step := d.step, detail := leBytes 2 d.pair ++ leBytes 4 d.seg }
      match s.run.lag0 with
      | some k => .next ((s2.failStep k fEntry).mapStep k (fun r => { r with strays := r.strays + 1 }))
      | none => .next s2
    else if (s.segCounts d.step d.mdie d.pair d.seg).deliveries < d.ordinal then
      if 16 ≤ (s.mem.early.filter (fun x => x.mdie == d.mdie)).length then notNow "the M-die holds 16 early deliveries"
      else .next (s1.withMem { s1.mem with early := s1.mem.early ++ [d] })
    else if s.gradInUse d.pair d.mdie d.seg (d.step - 1) then .next (s1.withMem { s1.mem with waiting := s1.mem.waiting ++ [(d, s.clk.ref)] })
    else .next (s1.takeDelivery d)

/-- A delivery that waited proceeds once every use of the gradient before it is complete (R215). -/
def execDeliveryRelease (mdie : Nat) (pair : Nat) (seg : Nat) (s : State) : Out :=
  match s.mem.waiting.find? (fun x => x.1.mdie == mdie && x.1.pair == pair && x.1.seg == seg) with
  | none => notNow "no delivery waits at this segment"
  | some (d, since) =>
    if s.gradInUse pair mdie seg (d.step - 1) then notNow "the gradient is still in use"
    else
      let s1 := s.withMem { s.mem with waiting := s.mem.waiting.erase (d, since) }
      .next ((s1.near mdie (fun n => { n with holdUs := sat32 (n.holdUs + ceilDiv (s.clk.ref - since) 100) })).takeDelivery d)

/-! WC rebuilds and the region guard. -/

/-- A rebuild completes: the plane is HELD(V), unless an atom of V is uncorrectable, which leaves it EMPTY (R211). -/
def execWcRebuildDone (mdie : Nat) (pair : Nat) (s : State) : Out :=
  let d := s.pairDie pair mdie
  match d.rebuild, s.pairJob pair with
  | some v, some j =>
    match d.holds v with
    | none => notNow "no buffer holds the version"
    | some b =>
      let is := s.segElems pair j.n mdie
      let clean := (List.range (segCount j.n)).all (fun k => (is k).all (fun i =>
        !SMap.get false s.mem.bad (planeAddr (s.regionBase pair + bufferOff j.n b) j.n 0 i / 256)))
      let s1 := s.rebuildWc j mdie v b
      .next (s1.setPairDie pair mdie { d with wc := if clean then .held v else .empty, rebuild := none })
  | _, _ => notNow "no rebuild runs on this M-die"

/-- The guard unit that the streamer reads next: the one a job waits at, or the lowest it has not read (R227). -/
def Guard.next (g : Guard) (stalls : List Nat) : Option Nat :=
  match stalls.find? (fun u => !g.read.contains u && decide (u < g.units)) with
  | some u => some u
  | none => (List.range g.units).find? (fun u => !g.read.contains u)

/-! The mirror. -/

/-- The partner's mirror digest record arrives; it is compared when the verdict entry starts (R314). -/
def execMirrorDigestRecord (rec : Bytes) (s : State) : Out :=
  if s.inRun = false ∨ s.recov.partner = none ∨ rec.length ≠ 32 ∨ s.run.sealed ≥ field rec 8 8 then notNow "no mirror record is awaited"
  else .next (s.mapStep (field rec 8 8) (fun r => { r with partner := r.partner ++ [rec] }))

/-- The bytes of a shard as a refresh carries them: W, M1, M2, R and the factor elements (R315, log entry 30). -/
def State.writeShard (s : State) (j : Job) (sec fac : Nat) (b : Bytes) : State :=
  let n := j.n
  let s1 := (List.range 3).foldl (fun st p => st.writeMem (planeAddr sec n p 0) (slice b (4 * n * p) (4 * n))) s
  let s2 := s1.writeMem (planeAddr sec n 3 0) (slice b (12 * n) (2 * n))
  if j.factorCount = 0 then s2 else s2.writeMem fac (slice b (14 * n) (4 * j.factorCount))

/-- The shard fold of a section as it stands (R224). -/
def State.shardFold (s : State) (j : Job) (v sec fac : Nat) : Word :=
  let a := (elems 0 j.n).foldl (fun f i => f + s.elemFold v sec j.n i) 0
  (elems 0 j.factorCount).foldl (fun f i => f + s.factorFold v (j.n + i) (BitVec.ofNat 32 (s.mem4 (fac + 4 * i)))) a

/-- The bytes of a shard as a refresh carries them (log entry 30). -/
def State.readShard (s : State) (j : Job) (sec fac : Nat) : Bytes :=
  s.readMem (planeAddr sec j.n 0 0) (4 * j.n) ++ s.readMem (planeAddr sec j.n 1 0) (4 * j.n) ++ s.readMem (planeAddr sec j.n 2 0) (4 * j.n)
    ++ s.readMem (planeAddr sec j.n 3 0) (2 * j.n) ++ s.readMem fac (4 * j.factorCount)

/-- Send a pair's version to the partner's mirror (R315). -/
def State.sendRefresh (s : State) (p : Nat) (j : Job) (v : Nat) : State :=
  match s.recov.partner with
  | none => s
  | some q =>
    let b := bufOf (s.v0 p) v
    let sec := s.regionBase p + bufferOff j.n b
    let fac := s.regionBase j.factor + factorSec j b
    let d := leBytes 2 p ++ zeros 6 ++ leBytes 8 v ++ leBytes 8 (s.shardFold j v sec fac).toNat ++ s.readShard j sec fac
    s.openSend { typ := tTransfer, cls := 9, dstRank := q, data := d }

/-- Ask the partner to send the whole refresh once more, and its answer (R315, log entry 30). -/
def State.askRefresh (s : State) (pair version : Nat) : State :=
  match s.recov.partner with
  | none => s
  | some q => s.openSend { typ := tTransfer, cls := 9, object := 3, dstRank := q, data := leBytes 2 pair ++ zeros 6 ++ leBytes 8 version }

def State.answerRefresh (s : State) (rank : Nat) (d : Bytes) : State :=
  let p := field d 0 2
  match s.pairJob p with
  | some j =>
    if s.recov.partner = some rank ∧ d.length = 16 ∧ (List.range 8).all (fun m => ((s.pairDie p m).holds (field d 8 8)).isSome) then s.sendRefresh p j (field d 8 8) else s
  | none => s

/-- A refresh of a version completes at its receiver: it is written to the mirror and folded. Equal folds make the mirror HELD; a first difference has it
sent once more; a second leaves it STALE, and DIGEST is set for every step verdicted meanwhile (R315). -/
def execMirrorRefresh (pair : Nat) (version : Nat) (planes : Bytes) (fold : Word) (s : State) : Out :=
  match s.pairJob pair with
  | none => notNow "no job binds the pair"
  | some j =>
    if s.recov.refreshing.contains pair = false ∨ planes.length ≠ 14 * j.n + 4 * j.factorCount then notNow "no refresh of this pair is awaited"
    else
      let sec := s.regionBase j.mirror
      let fac := s.regionBase j.factor + factorSec j 2
      let hurt := s.mem.bad.length
      let s0 := s.writeShard j sec fac planes
      let s1 := if s0.mem.bad.length < hurt then s0.log { code := 0x8005, detail := leBytes 2 pair } else s0
      let c := s1.recov
      if s1.shardFold j version sec fac = fold then
        .next ((s1.withRecov { c with mirror := SMap.insert c.mirror pair (.held version), refreshing := c.refreshing.erase pair,
                                      mirrorBad := c.mirrorBad.erase pair, retries := SMap.erase c.retries pair, refreshes := sat32 (c.refreshes + 1) }).log
          { code := 0x8003, detail := leBytes 2 pair ++ leBytes 8 version })
      else if SMap.get 0 c.retries pair = 0 then
        .next ((s1.withRecov { c with mirror := SMap.insert c.mirror pair .stale, retries := SMap.insert c.retries pair 1 }).askRefresh pair version)
      else
        .next ((s1.withRecov { c with mirror := SMap.insert c.mirror pair .stale, refreshing := c.refreshing.erase pair,
                                      retries := SMap.erase c.retries pair, mirrorBad := pair :: c.mirrorBad.erase pair }).log
          { code := 0x8004, detail := leBytes 2 pair ++ leBytes 8 version })

/-! The staging space (R185 to R188). -/

/-- The order of pending contributions (R186). -/
def Pending.key (q : Pending) : List Nat := [q.core, q.place, q.ldadd, q.index]

def insertPending (q : Pending) : List Pending → List Pending
  | [] => [q]
  | x :: xs => if keyLt q.key x.key then q :: x :: xs else x :: insertPending q xs

/-- Whether a core segment that began in a clause, or earlier, has still to end (R186). -/
def State.segmentsOpen (s : State) (w c : Nat) : Bool :=
  s.run.entries.any (fun x => x.2.entry.cls == clsCore && x.2.live
    && (decide (keyWindow x.1 < w) || (keyWindow x.1 == w && decide (x.2.entry.clause ≤ c))))

/-- The drain of the oldest clause with pending contributions applies them in ascending key order, each added exactly and rounded once in A48. -/
def execAddOnWriteDrain (s : State) : Out :=
  match s.mem.adds with
  | [] => notNow "no contribution is pending"
  | q0 :: _ =>
    let k := s.mem.adds.foldl (fun a q => min a (q.window * 65536 + q.clause)) (q0.window * 65536 + q0.clause)
    if s.segmentsOpen (k / 65536) (k % 65536) then notNow "entries of the clause are still running"
    else
      let mine := (s.mem.adds.filter (fun q => q.window * 65536 + q.clause == k)).foldl (fun l q => insertPending q l) []
      let rest := s.mem.adds.filter (fun q => q.window * 65536 + q.clause != k)
      let st := mine.foldl (fun (st : Store) q =>
        let old := if st.readable q.sa 8 then decA48 (leNat (st.read q.sa 8)) else .fin false 0 0
        st.write q.sa (leBytes 8 (encA48 (addA48 old (decA48 q.value.toNat))).toNat)) s.mem.staging
      .next (s.withMem { s.mem with adds := rest, staging := st, drained := k + 1 })

/-- The staging valid bits are cleared after the period, the core segments of the window and its drains (R185). -/
def execStagingValidBitsClear (s : State) : Out :=
  let w := s.run.period
  if s.inRun = false ∨ w ≤ s.mem.stagingCleared ∨ s.segmentsOpen w 65535 = true ∨ s.mem.adds.any (fun q => decide (q.window ≤ w)) = true then
    notNow "no window of the staging space has closed"
  else .next (s.withMem { s.mem with staging := s.mem.staging.clear, stagingCleared := w })

/-! Refresh and the periodic retrain change only timing (R195, R202). -/

def execRefresh (mdie : Nat) (s : State) : Out := if 8 ≤ mdie then notNow "no such M-die" else .next s
def execPeriodicRetrain (mdie : Nat) (s : State) : Out := if 8 ≤ mdie then notNow "no such M-die" else .next s

end Sys2Proof.Machine
end

