-- ==== Sys2Proof/Machine/Transport.lean ====
section
/-!
DEFINITION. Sending transport frames (15_host_transport_mailboxes R357 to R363, R371): the header, the tag, the ports a session's frames leave on, the
window of 256 unacknowledged frames, and bulk-out frames.
-/

namespace Sys2Proof.Machine

/-- 1 s, 1 ms and 1 µs in reference cycles (R25). -/
def cyclesS : Nat := 100000000
def cyclesMs : Nat := 100000
def cyclesUs : Nat := 100

/-- *Transport header*. -/
def transportHeader (typ chan kind session seq ack len : Nat) : Bytes :=
  [1#8] ++ leBytes 1 typ ++ leBytes 1 chan ++ leBytes 1 kind ++ leBytes 4 session ++ leBytes 8 seq ++ leBytes 8 ack ++ leBytes 2 len ++ zeros 6

/-- The tag of a frame (R363). -/
def frameTag (key hdr body : Bytes) : Bytes := (hmac256 key (hdr ++ body)).take 16

def State.session (s : State) (id : Nat) : Option Session := s.host.sessions.find? (fun x => x.id == id)
def State.setSession (s : State) (id : Nat) (f : Session → Session) : State :=
  s.withHost { s.host with sessions := s.host.sessions.map (fun x => if x.id = id then f x else x) }

def State.hostPort (s : State) (p : Nat) : HostPort := SMap.get HostPort.blank s.host.ports p
def State.setHostPort (s : State) (p : Nat) (x : HostPort) : State := s.withHost { s.host with ports := SMap.insert s.host.ports p x }
def State.countHost (s : State) (p off : Nat) : State :=
  let x := s.hostPort p
  s.setHostPort p { x with cnt := SMap.insert x.cnt off (SMap.get 0 x.cnt off + 1) }

/-- The host ports on which a valid frame of a session has arrived within the last 1 s (R360). -/
def Session.livePorts (x : Session) (ref : Nat) : List Nat := (x.seen.filter (fun e => decide (ref < e.2 + cyclesS))).map (·.1)

/-- The port a frame leaves on: with two live ports, even numbers on H0 and odd ones on H1; with none, the port heard from last (log entry 42). -/
def Session.portFor (x : Session) (ref seq : Nat) : Nat :=
  match x.livePorts ref with
  | [p] => p
  | [] => (x.seen.foldl (fun (a : Nat × Nat) e => if a.2 ≤ e.2 then e else a) (0, 0)).1
  | _ => seq % 2

/-- A frame to a host: the address it goes to, then the UDP payload (log entry 43). -/
def State.hostSend (s : State) (p : Nat) (addr payload : Bytes) : State := (s.countHost p 0x10).emit (.host p (addr ++ payload))

/-- Put a frame of a session on the wire. -/
def State.wireFrame (s : State) (x : Session) (f : TxFrame) : State :=
  let p := x.portFor s.clk.elapsed f.seq
  let h := transportHeader f.typ f.chan f.kind x.id f.seq (x.rxNext - 1) f.body.length
  s.hostSend p (SMap.get (zeros 24) x.addr p) (h ++ f.body ++ frameTag x.keyOut h f.body)

/-- Send what waits, responses before bulk-out frames, while fewer than 256 frames are unacknowledged (R361). -/
def State.flushFrames : Nat → State → Nat → State
  | 0, s, _ => s
  | n + 1, s, id =>
    match s.session id with
    | none => s
    | some x =>
      if 256 ≤ x.unacked.length then s
      else
        match (x.queue.find? (fun f => f.chan != 3)).or x.queue.head? with
        | none => s
        | some f =>
          let g := { f with seq := x.txNext }
          let y := { x with queue := x.queue.erase f, txNext := x.txNext + 1, unacked := x.unacked ++ [g],
                            sentAt := if x.unacked.isEmpty then s.clk.elapsed else x.sentAt, timer := if x.unacked.isEmpty then 2 else x.timer,
                            progress := if x.unacked.isEmpty then s.clk.elapsed else x.progress }
          State.flushFrames n ((s.setSession id (fun _ => y)).wireFrame y g) id

/-- Hand frames to a session; a session that is not open sends nothing. -/
def State.sendFrames (s : State) (id : Nat) (fs : List TxFrame) : State :=
  match s.session id with
  | none => s
  | some x =>
    let y := { x with queue := x.queue ++ fs }
    State.flushFrames y.queue.length (s.setSession id (fun _ => y)) id

def bulkFrame (kind : Nat) (hdr data : Bytes) : TxFrame :=
  { seq := 0, typ := 0x10, chan := 3, kind := kind, body := fitTo 32 hdr ++ data, slot := none, ledger := [], reset := false }

/-- A session is open, and belongs to the Owner (tenant 0). -/
def State.ownerSession (s : State) (id : Nat) : Bool :=
  match s.session id with
  | some x => x.tenant == 0
  | none => false

/-! Byte ranges that have arrived, as (offset, length). -/

/-- The first byte from a position on that no range covers. -/
def coverTo (l : List (Nat × Nat)) : Nat → Nat → Nat
  | 0, p => p
  | n + 1, p =>
    match l.find? (fun r => decide (r.1 ≤ p ∧ p < r.1 + r.2)) with
    | some r => coverTo l n (r.1 + r.2)
    | none => p

/-- Every byte below a length has arrived. -/
def covered (l : List (Nat × Nat)) (len : Nat) : Bool := decide (len ≤ coverTo l l.length 0)

/-! Responses (R367, R369). -/

/-- What a command answers: its status, the detail and payload of *Response header*; `own` marks a non-success status that is the command's own result
and no rejection (R370); the ledger entries whose last byte the payload holds (R306); a RESET at L0 or L1 (R407); and the bulk-out frames that follow
the response (R371). -/
structure Reply where
  status  : Nat := 0
  detail  : Nat := 0
  payload : Bytes := []
  own     : Bool := false
  ledger  : List Nat := []
  reset   : Bool := false
  bulk    : List TxFrame := []
  deriving DecidableEq, Repr

def State.tenant (s : State) (t : Nat) : Tenant := s.host.tenants.getD t Tenant.blank
def State.setTenant (s : State) (t : Nat) (f : Tenant → Tenant) : State :=
  s.withHost { s.host with tenants := s.host.tenants.modify t f }

/-- *Response header* and payload. -/
def responseBody (opcode slot flags seq hostTag : Nat) (r : Reply) : Bytes :=
  leBytes 2 opcode ++ leBytes 1 slot ++ leBytes 1 flags ++ leBytes 4 seq ++ leBytes 4 r.payload.length ++ leBytes 2 r.status ++ zeros 2
    ++ leBytes 8 hostTag ++ leBytes 8 r.detail ++ r.payload

def responseFrame (body : Bytes) (slot : Option Nat) (r : Reply) : TxFrame :=
  { seq := 0, typ := 0x10, chan := 1, kind := 0, body := body, slot := slot, ledger := r.ledger, reset := r.reset }

/-- Whether a status counts as executed (R370). -/
def Reply.done (r : Reply) : Bool := r.own || r.status == 0 || r.status == 1 || r.status == 0x0403 || decide (0x0501 ≤ r.status)

/-- The running command of a tenant ends its turn with a reply. -/
def State.respond (s : State) (t : Nat) (r : Reply) : State :=
  match (s.tenant t).running with
  | none => s
  | some q =>
    let bad := !r.done
    let first := bad && !(s.tenant t).rejLogged
    let s1 := s.setTenant t (fun x => { x with next := (x.next + 1) % 2 ^ 32, running := none, executed := x.executed + bitNat (!bad), rejected := x.rejected + bitNat bad,
                                               rejLogged := x.rejLogged || bad })
    let s2 := if first then s1.log { code := 0x6007, tenant := t, detail := leBytes 2 q.opcode ++ leBytes 2 r.status } else s1
    s2.sendFrames q.session (responseFrame (responseBody q.opcode q.slot 1 q.seq q.hostTag r) (some q.slot) r :: r.bulk)

end Sys2Proof.Machine
end

