-- ==== Sys2Proof/Machine/Recovery.lean ====
section
/-!
DEFINITION. Failures and what the module does about them: fencing (13_mirror_spares_recovery R324 to R326), a failed core (R319), a failed C-die and its
swap (R320 to R322), damaged state (R317), in-package links (08_memory_system R181), EDC retries (R193) and scrubbing (R196, R199).
-/

namespace Sys2Proof.Machine

/-! Stopping work. -/

/-- The logical cores of a die and of a cluster. -/
def dieCores (d : Nat) : List Nat := elems (d * 64) 64
def clusterCores (c : Nat) : List Nat := elems (c * 8) 8

/-- Stop the entries that run on some cores: their objects are poisoned and their steps do not seal (R243, R430). -/
def State.stopCore (s : State) (c : Nat) : State :=
  match (s.core c).entry with
  | none => s
  | some e => (s.preempt c).failStep (if e.isEval then 0 else e.step) (if e.isEval then 0 else fEntry)

def State.stopCores (s : State) (cs : List Nat) : State := cs.foldl State.stopCore s

/-- Every sync object of the module (*Sync objects*, R231). -/
def allObjects : List Nat :=
  (List.range 512).flatMap (fun c => (List.range 64).map (objKey 0 c)) ++ (List.range 64).flatMap (fun u => (List.range 256).map (objKey 1 u))
    ++ (List.range 8).flatMap (fun d => (List.range 2048).map (objKey 2 d))

/-- A failed checkpoint releases its guards, with what waited at them counted, writes no ledger entry and leaves C unchanged (R228, R348). -/
def State.failCheckpoint (s : State) (status : Nat) : State :=
  match s.ckpt.run with
  | none => s
  | some r =>
    let s0 := s.mem.jobRuns.foldl (fun (st : State) (q : JobRun) => match q.stall with
      | some (_, t) => st.near q.mdie (fun n => { n with stallUs := sat32 (n.stallUs + ceilDiv (s.clk.ref - t) 100) })
      | none => st) s
    let s1 := s0.withMem { s0.mem with guards := [], jobRuns := s0.mem.jobRuns.map (fun q => { q with stall := none }) }
    (s1.withCkpt { s1.ckpt with run := none, status := status }).log { code := 0x8016, detail := leBytes 8 r.version ++ leBytes 2 status }

/-- A restore that ends before its commit leaves the staging buffers EMPTY and everything else as it was (R354). -/
def State.failRestore (s : State) (status : Nat) : State :=
  match s.ckpt.restore with
  | none => s
  | some _ => (s.withCkpt { s.ckpt with restore := none, status := status }).log { code := 0x8019, detail := leBytes 2 status }

/-- Evaluations not finished are stopped by a reset or a fence (R416). -/
def State.stopEvals (s : State) : State := (s.withEvals (finishEvals (fun _ => true) (fun v => { v with phase := 4 }) s.evals)).refreshQuota 1

/-- Jobs that are stopped early: a mirror under a stopped job is STALE (R313). -/
def State.stopJobs (s : State) (p : JobRun → Bool) : State :=
  let hit := s.mem.jobRuns.filter p
  let s1 := s.withMem { s.mem with jobRuns := s.mem.jobRuns.filter (fun r => !p r) }
  hit.foldl (fun st r =>
    match r.mirror, SMap.find? st.jobs r.job with
    | true, some j => st.withRecov { st.recov with mirror := SMap.insert st.recov.mirror j.pair .stale }
    | _, _ => st) s1

/-- Commands that wait for an event of a run that a fence or a reset ends: RUN_START for its exchange (R400) and CHECKPOINT_NOW for the period
(R341). -/
def State.dropWaits (s : State) : State :=
  let s1 := if s.run.startSeq.isSome then (s.withRun { s.run with startSeq := none }).respond 0 { status := 0x0301 } else s
  match s1.ckpt.nowFor with
  | some t => (s1.withCkpt { s1.ckpt with now := none, nowFor := none }).respond t { status := 0x0601, own := true }
  | none => s1

/-- The module stops every entry, collective and job, poisons every object and leaves its run (R325). -/
def State.stopAll (s0 : State) : State :=
  let s := s0.dropWaits
  let s1 := s.stopCores (s.cores.map (·.1))
  let s2 := (s1.stopJobs (fun _ => true)).stopEvals
  let s3 := allObjects.foldl (fun st key => st.poison none key) s2
  let s4 := (s3.failCheckpoint 0x0601).failRestore 0x0601
  let f := s4.fab
  let clear := fun (x : NDie) => { x with slots := [], abandoned := x.abandoned + x.slots.length }
  ((s4.withRecov { s4.recov with takeover := none }).withFab { f with colls := [], early := [], ins := [], waitOps := [], ndies := f.ndies.map (fun e => (e.1, clear e.2)) }).withRun
    { s4.run with entries := [], kind := .none, lag0 := none, lag1 := none, nextComma := none, record := none, ownRec := none }

/-- Fence the module (R325). -/
def State.fenceModule (s : State) : State :=
  let s1 := s.stopAll
  let m := if s1.run.mode == .outOfService then Mode.outOfService else .fenced
  (s1.withRun { s1.run with mode := m }).alert 4

/-- The module fences itself (R324). -/
def State.selfFence (s : State) : State :=
  if s.isFenced then s
  else
    let s1 := (s.logFreeze { code := 0x800B, alert := true }).report 0x0601 0x800B []
    let s2 := s1.fenceModule
    s2.withRecov { s2.recov with selfFenced := true, selfFences := sat32 (s2.recov.selfFences + 1) }

/-- A hardware fault that bars every run state until an L0 reset completes (R203, R429). -/
def State.hwFault (s : State) (code : Nat) : State := (s.report 0x0601 code []).withSup { s.sup with noRun := true }

/-! A failed C-die (R320 to R322). -/

/-- The physical C-die that is the spare: neither active nor retired (R12, R13). -/
def State.spareDie (s : State) : Option Nat := (List.range 9).find? (fun p => !s.dieMap.contains p && !s.recov.retired.contains p)

/-- A C-die fails: with a spare, its entries stop, it is retired and the swap starts; without one the module fences itself. -/
def State.failDie (s : State) (d : Nat) : State :=
  match s.spareDie with
  | none => s.selfFence
  | some p =>
    if s.recov.swap.isSome then s.selfFence
    else
      let s1 := s.stopCores (dieCores d)
      let old := s1.physDie d
      let c := s1.recov
      (s1.withRecov { c with swap := some { logical := d, failed := old, spare := p }, retired := old :: c.retired,
                             offDie := SMap.insert c.offDie d (2 ^ 64) }).log
        { code := 0x8008, source := srcC old, detail := leBytes 1 d ++ leBytes 1 old ++ leBytes 1 p }

/-- A unit's objects at zero, not poisoned; what is held for a later window is kept. -/
def State.zeroObjects (s : State) (p : Nat → Bool) : State :=
  s.withSync (s.sync.map (fun e => if p e.1 then (e.1, { SyncObj.blank with window := e.2.window, held := e.2.held }) else e))

/-- A core as a spare brings it in: valid bits clear, nothing in its registers, the logical core's image loaded (R319, R321). -/
def State.freshCore (s : State) (c : Nat) : State :=
  let k := s.core c
  s.setCore c { Core.blank with prog := k.prog, cleared := k.cleared, banned := k.banned }

/-- The swap completes: the map changes, the spare runs the logical die's images, and its entries run again from the next window that opens. -/
def execDieSwapDone (s : State) : Out :=
  match s.recov.swap with
  | none => notNow "no die swap is in progress"
  | some w =>
    let s1 := s.withDieMap (s.dieMap.set w.logical w.spare)
    let s2 := (dieCores w.logical).foldl State.freshCore s1
    let s3 := s2.zeroObjects (fun key => keyDie key == w.logical)
    let c := s3.recov
    let mine := fun (cl : Nat) => cl / 8 == w.logical
    .next ((s3.withRecov { c with swap := none, swaps := sat32 (c.swaps + 1),
                                  offDie := (if s3.inRun then SMap.insert c.offDie w.logical (s3.run.period + 2) else SMap.erase c.offDie w.logical),
                                  spareUsed := SMap.keep (fun cl => !mine cl) c.spareUsed, remapped := SMap.keep (fun k => !mine (k / 8)) c.remapped }).log
      { code := 0x8009, source := srcC w.spare, detail := leBytes 1 w.logical ++ leBytes 1 w.failed ++ leBytes 1 w.spare })

/-! A failed core (R15, R319). -/

/-- The core's entry is stopped, the cluster's spare takes its logical number, and the event is logged; a second core of a cluster fails its die. -/
def State.failCore (s : State) (c : Nat) : State :=
  if SMap.get false s.recov.spareUsed (clusterOfCore c) then s.failDie (dieOfCore c)
  else
    let s1 := ((s.stopCore c).freshCore c).zeroObjects (fun key => keyScope key == 0 && keyUnit key == c)
    let r := s1.recov
    (s1.withRecov { r with spareUsed := SMap.insert r.spareUsed (clusterOfCore c) true, remapped := SMap.insert r.remapped c true,
                           remaps := sat32 (r.remaps + 1), expiries := SMap.erase r.expiries c, badReads := SMap.erase r.badReads c }).log
      { code := 0x8007, source := s.coreSource c, detail := leBytes 2 c }

/-! Damaged state (R317). -/

/-- No copy of a version is left that a rollback needs. -/
def State.shardLost (s : State) : State :=
  let s1 := (s.logFreeze { code := 0x8006 }).report 0x0601 0x8006 []
  s1.withRecov { s1.recov with lost := true }

/-! In-package links (R181). -/

def linkKey (l : LinkId) : Nat := l.rx * 64 + l.tx
def State.link (s : State) (k : Nat) : Link := SMap.get Link.blank s.mem.links k
def State.setLink (s : State) (k : Nat) (x : Link) : State := s.withMem { s.mem with links := SMap.insert s.mem.links k x }

def isCDie (d : Nat) : Bool := decide (d ≤ 8)
def isMDie (d : Nat) : Bool := decide (0x10 ≤ d ∧ d ≤ 0x17)
def isNDie (d : Nat) : Bool := decide (0x20 ≤ d ∧ d ≤ 0x21)

/-- Neighbours in the 3 by 3 grid of physical C-dies. -/
def gridNext (a b : Nat) : Bool :=
  (decide (a / 3 = b / 3) && (a == b + 1 || b == a + 1)) || (decide (a % 3 = b % 3) && (a == b + 3 || b == a + 3))

/-- The C-dies reachable from a set in n hops over neighbour links that are not disabled, through active dies. -/
def State.reach (s : State) : Nat → List Nat → List Nat
  | 0, l => l
  | n + 1, l => s.reach n (l ++ s.dieMap.filter (fun d => !l.contains d && l.any (fun x =>
      gridNext x d && !(s.link (x * 64 + d)).failed && !(s.link (d * 64 + x)).failed)))

/-- Which dies an in-package link joins (*In-package links*). -/
def linkExists (l : LinkId) : Bool :=
  let c := isCDie
  let pair := fun (a b : Nat) => (c a && c b && gridNext a b) || (c a && (isMDie b || isNDie b)) || (isNDie a && isMDie b) || (isNDie a && isNDie b && a != b)
    || (a == 0x30 && (c b || isMDie b || isNDie b))
  pair l.rx l.tx || pair l.tx l.rx

/-- The link fails: a C-die with it, or the module's hardware; a neighbour link is disabled and traffic takes another way. -/
def State.failLink (s : State) (l : LinkId) : State :=
  let s1 := (s.setLink (linkKey l) { s.link (linkKey l) with failed := true }).log { code := 0x2007, source := l.rx, detail := leBytes 2 l.tx }
  let logical := fun (p : Nat) => s1.dieMap.findIdx? (· == p)
  if isCDie l.rx && isCDie l.tx then
    match logical l.rx, logical l.tx with
    | some a, some b => if (s1.reach 9 [l.rx]).contains l.tx then s1 else s1.failDie (max a b)
    | _, _ => s1
  else if (isCDie l.rx && (isMDie l.tx || isNDie l.tx)) || (isCDie l.tx && (isMDie l.rx || isNDie l.rx)) then
    match logical (if isCDie l.rx then l.rx else l.tx) with
    | some d => s1.failDie d
    | none => s1
  else s1.hwFault 0x2007

/-- A flit with an uncorrectable codeword is discarded and replayed. The eighth failure in a row retrains the link; a failure of the flit after the
retrain, or a second retrain within 1 s, fails the link. `again` says that it is the flit that failed last. -/
def execLinkFlitReplay (link : LinkId) (again : Bool) (at' : Nat) (s0 : State) : Out :=
  let s := s0.advance at'
  let x := s.link (linkKey link)
  if linkExists link = false ∨ x.failed = true then notNow "no such working link"
  else
    let n := if again then x.failRun + 1 else 1
    let soon : Bool := (match x.retrained with
      | some t => decide (s.clk.elapsed < t + 100000000)
      | none => false)
    let x1 := { x with replays := sat32 (x.replays + 1), failRun := n }
    if 8 < n then .next ((s.setLink (linkKey link) x1).failLink link)
    else if n = 8 then
      let x2 := { x1 with runs8 := sat32 (x1.runs8 + 1) }
      if soon then .next ((s.setLink (linkKey link) x2).failLink link)
      else .next ((s.setLink (linkKey link) { x2 with retrains := sat32 (x2.retrains + 1), retrained := some s.clk.elapsed }).log
        { code := 0x2006, source := link.rx, detail := leBytes 2 link.tx })
    else .next (s.setLink (linkKey link) x1)

/-! GDDR7 accesses and scrubbing (R193 to R199). -/

/-- An access whose EDC CRC fails is retried 4 times, the port is retrained, and it is retried 4 times more; `fails` counts the failed attempts. What a
read then holds goes to Q144, `ok` saying whether it could be corrected; a write that still fails is a failure of the M-die (R193, R194). -/
def execEdcRetry (mdie : Nat) (write : Bool) (fails : Nat) (ok : Bool) (ma : Nat) (s : State) : Out :=
  if 8 ≤ mdie ∨ fails = 0 ∨ 9 < fails then notNow "no such access"
  else
    let s1 := s.mdie mdie (fun d => { d with edcRetry := sat32 (d.edcRetry + min fails 8) })
    let s2 := if fails < 5 then s1
      else (s1.mdie mdie (fun d => { d with retrain := sat32 (d.retrain + 1) })).log { code := 0x2004, source := srcM mdie, detail := leBytes 8 ma }
    if fails < 9 then .next s2
    else if write then .next ((s2.log { code := 0x2005, source := srcM mdie, detail := leBytes 8 ma }).hwFault 0x2005)
    else if ok then .next (s2.mdie mdie (fun d => { d with ce := sat32 (d.ce + 1),
                                                           corrQueue := if d.corrQueue.length < 64 then d.corrQueue ++ [ma / 256] else d.corrQueue }))
    else
      let s3 := s2.mdie mdie (fun d => { d with ue := sat32 (d.ue + 1), lastUeMa := some ma })
      .next ((((s3.withMem { s3.mem with bad := SMap.insert s3.mem.bad (ma / 256) true }).log
        { code := 0x2001, source := srcM mdie, detail := leBytes 8 ma }).markDamaged mdie ma 0).askPartner)

/-- The syndrome of errors at positions of a codeword (R176): `errs` gives the positions, 36 to a codeword, and their error values. -/
def errSyndrome (errs : List (Nat × BitVec 4)) (w : Nat) : Syn :=
  (errs.filter (fun e => e.1 / 36 == w)).foldl (fun a e => a.add ((q144Col (e.1 % 36)).scale e.2)) Syn.zero

/-- What Q144 decides for each of the 16 codewords of an atom. -/
def atomDecisions (errs : List (Nat × BitVec 4)) : List Q144 := (List.range 16).map (fun w => q144Decide (errSyndrome errs w))

def synNat (x : Syn) : Nat := x.s3.toNat * 4096 + x.s2.toNat * 256 + x.s1.toNat * 16 + x.s0.toNat

/-- The module address of a local address of an M-die (R183). -/
def maOf (m la : Nat) : Nat :=
  let row := la / 256
  row * 2048 + (m ^^^ bits (row * 2048) 20 18) * 256 + la % 256

/-- The size S of module memory, by part (R182, R471). -/
def State.memBytes (s : State) : Nat := if s.sup.part = 1 then 206158430208 else 274877906944

/-- The lane of a corrected nibble: 8 × device + c (R175, *Memory error counters*). -/
def laneOf (w pos : Nat) : Nat := 8 * (if pos < 32 then pos / 4 else 8) + w % 8

/-- A corrected codeword: counted by device and lane; the 256th of a lane within a scrub interval marks it degraded (R197, R199). -/
def State.countCe (s : State) (m w pos : Nat) : State :=
  let lane := laneOf w pos
  let n := SMap.get 0 (SMap.get MDie.blank s.mem.mdies m).laneWindow lane + 1
  let s1 := s.mdie m (fun d => { d with ce := sat32 (d.ce + 1), ceByDevice := SMap.insert d.ceByDevice (lane / 8) (sat32 (SMap.get 0 d.ceByDevice (lane / 8) + 1)),
                                        ceByLane := SMap.insert d.ceByLane lane (sat16 (SMap.get 0 d.ceByLane lane + 1)),
                                        laneWindow := SMap.insert d.laneWindow lane n })
  if n = 256 then
    ((s1.mdie m (fun d => { d with degraded := true })).log
      { code := 0x2003, source := srcM m, alert := true, detail := leBytes 1 (lane / 8) ++ leBytes 1 (lane % 8) }).alert 3
  else s1

/-- The scrubber reads the next atom: one that a read corrected and left in the queue, or the next in ascending LA order. A corrected atom is written
back; an atom with no error is not written; an uncorrectable one stays as it is (R194, R196, log entry 33). -/
def execScrubAtom (mdie : Nat) (errs : List (Nat × BitVec 4)) (s : State) : Out :=
  if 8 ≤ mdie ∨ errs.any (fun e => decide (576 ≤ e.1)) = true then notNow "no such atom"
  else
    let d := SMap.get MDie.blank s.mem.mdies mdie
    let next := (d.scrubNext + 1) % (s.memBytes / 2048)
    let ma : Nat := match d.corrQueue with
      | q :: _ => q * 256
      | [] => maOf mdie (d.scrubNext * 256)
    let s1 := s.mdie mdie (fun x => match x.corrQueue with
      | _ :: qs => { x with corrQueue := qs }
      | [] => { x with scrubNext := next })
    let ds := atomDecisions errs
    let cs := ds.zipIdx.filterMap (fun p => match p.1 with
      | .corrected pos _ => some (p.2, pos)
      | _ => none)
    let badWord := ds.findIdx? (· == .uncorrectable)
    let s2 := cs.foldl (fun st p => st.countCe mdie p.1 p.2) s1
    let s3 := if SMap.get false s.mem.bad (ma / 256) || badWord.isSome then
        let syn := match badWord with
          | some w => synNat (errSyndrome errs w)
          | none => 0
        let t := (s2.mdie mdie (fun x => { x with scrubUe := sat32 (x.scrubUe + 1), ue := sat32 (x.ue + 1), lastUeMa := some ma, lastUeSyn := syn })).log
          { code := 0x2001, source := srcM mdie, detail := leBytes 8 ma }
        ((t.withMem { t.mem with bad := SMap.insert t.mem.bad (ma / 256) true }).markDamaged mdie ma 0).askPartner
      else if cs.isEmpty then s2
      else s2.mdie mdie (fun x => { x with scrubCe := sat32 (x.scrubCe + 1) })
    if d.corrQueue.isEmpty && next == 0 then
      let own := (List.range 9).foldl (fun m i => SMap.insert m i ((Config.freeWord (s3.fresh + i)).toNat % 2 ^ 32)) d.onDevice
      let t := s3.mdie mdie (fun x => { x with scrubPass := sat32 (x.scrubPass + 1), laneWindow := [], onDevice := own })
      .next ((t.withFresh (t.fresh + 9)).log { code := 0x2009, source := srcM mdie })
    else .next s3

end Sys2Proof.Machine
end

