-- ==== Sys2Proof/Machine/Aborts.lean ====
section
/-!
DEFINITION. How an entry ends after an exception (06_core_instruction_set R145), and the failure of a core whose operand store has met two
uncorrectable reads (13_mirror_spares_recovery R319).
-/

namespace Sys2Proof.Machine

/-- A core with two uncorrectable reads of its operand store within 600 s has failed (R319). -/
def State.failWornCore (s : State) (c : Nat) : State := if 2 ≤ (SMap.get [] s.recov.badReads c).length then s.failCore c else s

/-- After an exception the issued work has drained: the entry ends, the objects the core owns are poisoned, and its step is marked failed, or its
evaluation fails (R145 items 3 to 6). -/
def execEntryAborted (core : Nat) (at' : Nat) (s0 : State) : Out :=
  let s := s0.advance at'
  let k := s.core core
  match k.entry with
  | none => notNow "no clause entry in progress on this core"
  | some e =>
    if e.stopped = false ∨ k.drained = false then notNow "the entry is not stopped and drained"
    else
      let s1 := ((s.compareShadow core e).clearEntry core).poisonOwned core
      let s2 := s1.finishUnit e.tableKey core
      match e.kind with
      | .training _ =>
        let q := s2.core core
        .next (((s2.setCore core { q with banned := (e.window, e.step) :: q.banned }).failStep e.step fEntry).failWornCore core)
      | .evaluation i =>
        let code := match k.exc with
          | some x => x.code
          | none => 0
        .next (((s2.failEval i 3 code).closeEval e.window).failWornCore core)

end Sys2Proof.Machine
end

