-- ==== Sys2Proof/Machine/Branch.lean ====
section
/-!
DEFINITION. The loop and branch class (06_core_instruction_set R124, R125).
-/

namespace Sys2Proof.Machine

/-- Continue after index `pc`, closing loop iterations that end there. -/
def goAfter (c : Nat) (s : State) (k : Core) (pc : Nat) : Issued :=
  let n := settle k.loops pc
  .goto (s.setCore c { k with loops := n.1 }) n.2

def loopCount (x : LoopOp) (k : Core) : Nat := if x.imm then x.count.toNat else (k.s x.cnt).toNat % 2 ^ 32

/-- LOOP: LOOP_DEPTH with four loops active; a count of zero skips the body. -/
def execLoopStart (c : Nat) (x : LoopOp) (s : State) : Out :=
  issue c (.loopStart c x) (fun k e st =>
    if 4 ≤ k.loops.length then .raise xLoopDepth 0
    else if loopCount x k = 0 then goAfter c st k (e.pc + 1 + x.len.toNat)
    else .goto (st.setCore c { k with loops :=
      { count := loopCount x k, index := 0, start := e.pc + 1, stop := e.pc + 1 + x.len.toNat } :: k.loops }) (e.pc + 1)) s

/-- BREAK leaves the innermost loop and continues after its body; with no loop active it raises LOOP_EXIT (log entry 14). -/
def execBreakLoop (c : Nat) (s : State) : Out :=
  issue c (.breakLoop c) (fun k _ st =>
    match k.loops with
    | [] => .raise xLoopExit 0
    | l :: ls => goAfter c st { k with loops := ls } l.stop) s

/-- The conditions of BR: EQ, NE, LT, GE, LTU, GEU. -/
def branchTaken (cond : BitVec 3) (a b : Word) : Bool :=
  match cond.toNat with
  | 0 => a == b
  | 1 => a != b
  | 2 => a.slt b
  | 3 => !a.slt b
  | 4 => a.ult b
  | _ => !a.ult b

/-- A target outside the body of the innermost active loop raises LOOP_EXIT; a target outside 0 to 8,191 is no index and finds no instruction. -/
def branchTo (s : State) (k : Core) (e : EntryRun) (off : BitVec 14) : Issued :=
  let t : Int := (e.pc : Int) + off.toInt
  match k.loops with
  | l :: _ => if (l.start : Int) ≤ t ∧ t < l.stop then .goto s t.toNat else .raise xLoopExit 0
  | [] => .goto s (if t < 0 then 8192 else t.toNat)

def execBr (c : Nat) (x : BranchOp) (s : State) : Out :=
  issue c (.br c x) (fun k e st => if branchTaken x.cond (k.s x.a) (k.s x.b) then branchTo st k e x.off else .done st) s

def execJmp (c : Nat) (off : BitVec 14) (s : State) : Out := issue c (.jmp c off) (fun k e st => branchTo st k e off) s

/-- CALL: CALL_DEPTH when eight returns are stacked. -/
def execCallSub (c : Nat) (target : BitVec 13) (s : State) : Out :=
  issue c (.callSub c target) (fun k e st =>
    if 8 ≤ k.calls.length then .raise xCallDepth 0
    else .goto (st.setCore c { k with calls := { index := e.pc + 1, loops := k.loops.length } :: k.calls }) target.toNat) s

/-- RET: CALL_DEPTH with an empty stack; LOOP_EXIT while a loop started after the matching CALL is active. -/
def execRetSub (c : Nat) (s : State) : Out :=
  issue c (.retSub c) (fun k _ st =>
    match k.calls with
    | [] => .raise xCallDepth 0
    | r :: rs => if r.loops < k.loops.length then .raise xLoopExit 0 else goAfter c st { k with calls := rs } r.index) s

/-- LIDX: the iteration index of the active loop at the named level. -/
def execLidx (c : Nat) (d : BitVec 5) (level : BitVec 2) (s : State) : Out :=
  issue c (.lidx c d level) (fun k _ st =>
    match k.loops[level.toNat]? with
    | none => .raise xLoopExit 0
    | some l => .done (st.setCore c (k.setS d (BitVec.ofNat 64 l.index)))) s

end Sys2Proof.Machine
end

