-- ==== Sys2Proof/Machine/TickUnit.lean ====
section
/-!
DEFINITION. The tick unit's reference: TICK_EPOCH markers, slips and the loss of REFCLK (02_clause_frame R22 to R25), and the periods that the S0
oscillator marks while commas are stopped (13_mirror_spares_recovery R324).
-/

namespace Sys2Proof.Machine

/-- REFCLK cycles from one marker to the next (R23). -/
def epochCycles : Nat := 100000000

/-- The largest epoch number (R23). -/
def epochMax : Nat := 184467440736

/-- The epoch number and the CRC of a marker's 64 bits (R23). -/
def markerEpoch (w : Word) : Nat := bits w.toNat 47 0
def markerCrcOk (w : Word) : Bool := crc8Epoch (markerEpoch w) == BitVec.ofNat 8 (bits w.toNat 55 48)

/-- Within 2 cycles. -/
def nearInstant (a b : Nat) : Bool := decide (a ≤ b + 2 ∧ b ≤ a + 2)

/-- R24: the instant, the CRC, the range and the number expected. -/
def markerOk (at' : Nat) (w : Word) (instant epoch : Nat) : Bool :=
  nearInstant at' instant && markerCrcOk w && decide (markerEpoch w ≤ epochMax) && markerEpoch w == epoch

/-- An inconsistent marker of a run: a slip; the third of a run of slips asserts ALERT_N and is logged once. -/
def State.slip (s : State) : State :=
  let c := s.clk
  let n := c.slipRun + 1
  let s1 := s.withClk { c with slips := sat32 (c.slips + 1), slipRun := n, slipLogged := c.slipLogged || n == 3 }
  if n = 3 ∧ c.slipLogged = false then (s1.log { code := 0x5005, alert := true }).alert 1 else s1

/-- A marker is received. During a run the count is kept and the marker is only compared; outside a run the second consistent marker in a row sets the
count from its epoch number (R24, log entry 34). -/
def execTickEpochMarker (at' : Nat) (w : Word) (s0 : State) : Out :=
  if s0.clk.present = false then notNow "REFCLK is absent, so no marker is received"
  else
    let s := s0.advance at'
    let c := s.clk
    let seen := some (at', markerEpoch w)
    if s.inRun then
      let ok := markerOk at' w c.expect (c.expect / epochCycles)
      let s1 := s.withClk { c with lastMarker := seen, consistent := if ok then c.consistent + 1 else 0,
                                   expect := if nearInstant at' c.expect then c.expect + epochCycles else c.expect }
      if ok then .next (s1.withClk { s1.clk with slipRun := 0, slipLogged := false })
      else .next s1.slip
    else
      let ok : Bool := (match c.lastMarker with
        | some (t, e) => markerOk at' w (t + epochCycles) (e + 1)
        | none => false)
      if ok && decide (1 ≤ c.consistent) then
        let n := markerEpoch w * epochCycles
        .next (s.withClk { c with ref := n, adopted := true, lastMarker := some (n, markerEpoch w), consistent := c.consistent + 1 })
      else .next (s.withClk { c with lastMarker := seen, consistent := if ok then c.consistent + 1 else 0 })

/-- No marker has arrived within 2 cycles after its expected instant (R24). -/
def execMarkerMissing (s : State) : Out :=
  let c := s.clk
  if c.present = false then notNow "REFCLK is absent"
  else if s.inRun then
    let s1 := s.advance (c.expect + 3)
    .next (s1.withClk { s1.clk with expect := c.expect + epochCycles }).slip
  else
    match c.lastMarker with
    | none => notNow "no marker is expected"
    | some (t, _) =>
      let s1 := s.advance (t + epochCycles + 3)
      .next (s1.withClk { s1.clk with consistent := 0 })

/-- REFCLK is lost: commas stop, and the count holds its value (R25). -/
def execRefclkLost (s : State) : Out :=
  if s.clk.present = false then notNow "REFCLK is absent already"
  else
    let s1 := s.withClk { s.clk with present := false, stopped := true, oscPeriods := 0 }
    .next (((s1.log { code := 0x5006, alert := true }).alert 1).report 0x0601 0x5006 [])

/-- REFCLK returns: the count resumes from the held value, and commas stay stopped until an L0 or L1 reset (R25). -/
def execRefclkReturned (s : State) : Out :=
  if s.clk.present then notNow "REFCLK is present" else .next (s.withClk { s.clk with present := true })

/-- A period without a combined verdict record: the third in a row makes the module fence itself (R324). -/
def State.missPeriod (s : State) : State :=
  let s1 := s.withRun { s.run with missed := s.run.missed + 1 }
  if 3 ≤ s1.run.missed then s1.selfFence else s1

/-- After REFCLK is lost, the S0 oscillator marks the periods at the step interval in force. -/
def execOscillatorPeriod (s : State) : Out :=
  if s.clk.stopped = false ∨ s.inRun = false then notNow "the tick unit marks the periods"
  else .next (s.withClk { s.clk with oscPeriods := s.clk.oscPeriods + 1 }).missPeriod

end Sys2Proof.Machine
end

