-- ==== Sys2Proof/Machine/Ledger.lean ====
section
/-!
DEFINITION. The Poensan ledger and the records it is made of: 12_step_sealing_and_replay R305 to R309, 07_training_numerics R156, R171,
03_number_formats R67.
-/

namespace Sys2Proof.Machine

/-! Records. -/

/-- *Scale state entry* (R156). -/
def ScaleEntry.record (tid : Nat) (e : ScaleEntry) : Bytes :=
  leBytes 4 tid ++ leBytes 1 (natOfInt 8 e.t) ++ leBytes 1 e.fmt ++ leBytes 2 e.flags ++ leBytes 4 e.est.toNat ++ leBytes 4 0

def scaleRecords (m : SMap ScaleEntry) : Bytes := m.flatMap (fun e => ScaleEntry.record e.1 e.2)

/-- *Tensor conversion counters* (R67). -/
def Counters.record (tid : Nat) (c : Counters) : Bytes :=
  leBytes 4 tid ++ leBytes 4 c.sat ++ leBytes 4 c.nan ++ leBytes 4 c.flush ++ leBytes 4 c.under ++ leBytes 4 c.clamp
    ++ leBytes 4 (bitNat c.stopped + 2 * bitNat c.nanMode) ++ leBytes 4 0

def Counters.any (c : Counters) : Bool := c.sat != 0 || c.nan != 0 || c.flush != 0 || c.under != 0 || c.clamp != 0

/-- Whether a first-event key of a core comes before another: by clause, then by logical core, then the rest of the key (R305). -/
def firstBefore (a b : Nat × List Nat × Bytes) : Bool := keyLt (a.2.1.headD 0 :: a.1 :: a.2.1.drop 1) (b.2.1.headD 0 :: b.1 :: b.2.1.drop 1)

/-- The first of the cores' step first-event records. -/
def StepRec.firstEvent (r : StepRec) : Option Bytes :=
  let l := r.copies.filterMap (fun e => e.2.first.map (fun f => (e.1, f.1, f.2)))
  (l.foldl (fun (a : Option (Nat × List Nat × Bytes)) x => match a with
    | none => some x
    | some y => if firstBefore x y then some x else some y) none).map (·.2.2)

/-- The status of a step: the OR of every step copy, for cores and M-dies. -/
def StepRec.status (r : StepRec) : Nat :=
  (r.mcopies.map (·.2)).foldl (· ||| ·) ((r.copies.map (fun e => e.2.bits)).foldl (· ||| ·) 0) % 128

/-- The numeric summary of a step (R305). -/
def StepRec.numericSummary (r : StepRec) (step : Nat) : Bytes :=
  let cs := r.counters.filter (fun e => e.2.any)
  leBytes 8 step ++ leBytes 2 r.status ++ leBytes 2 (bitNat r.firstEvent.isSome) ++ leBytes 4 cs.length ++ fitTo 32 (r.firstEvent.getD [])
    ++ cs.flatMap (fun e => Counters.record e.1 e.2)

/-! Entries. -/

def ledgerArea : Nat := 1073741824

/-- Bytes of the ledger area that may not be reused: those from the oldest entry not read on (R306). -/
def Ledger.used (l : Ledger) : Nat := ((l.entries.dropWhile (fun e => e.read)).map (fun e => e.bytes.length)).sum

/-- Drop read entries from the oldest on while the area is full. -/
def dropRead : Nat → List LedgerEntry → List LedgerEntry
  | 0, l => l
  | n + 1, l =>
    match l with
    | [] => []
    | e :: es => if e.read && decide (ledgerArea < ((e :: es).map (fun x => x.bytes.length)).sum) then dropRead n es else e :: es

/-- The run ID that an entry carries. -/
def State.runIdBytes (s : State) : Bytes :=
  match s.run.armed with
  | some a => leBytes 16 a.runId
  | none => zeros 16

/-- The rank field: bit 15 alone while the module is not a member (R307). -/
def State.rankField (s : State) : Nat :=
  match s.member with
  | some (_, r) => r
  | none => 0x8000

/-- *Ledger entry header* (R307). -/
def State.ledgerHeader (s : State) (kind flags len : Nat) : Bytes :=
  leBytes 4 1 ++ leBytes 2 kind ++ leBytes 2 flags ++ leBytes 4 len ++ leBytes 2 s.rankField ++ leBytes 2 s.modId ++ leBytes 8 s.ledger.nextSeq
    ++ s.ledger.prevHash ++ s.runIdBytes

/-- Append an entry: header, body, padding; the hash chain goes on, and flash keeps the marks of R306. -/
def State.appendBytes (s : State) (kind : Nat) (b : Bytes) : State :=
  let h := sha256 b
  let l := s.ledger
  let q := l.nextSeq
  let mark := kind == 4 || kind == 5
  let es := l.entries ++ [{ seq := q, bytes := b, read := false }]
  s.withLedger { l with entries := dropRead es.length es, nextSeq := q + 1, prevHash := h, gap := false,
                        flashSeq := if q % 4096 = 0 then q else l.flashSeq,
                        flashHash := if mark then h else l.flashHash, flashLast := if mark then q else l.flashLast }

def State.appendEntry (s : State) (kind flags : Nat) (body : Bytes) : State :=
  let len := roundUp 8 (0x48 + body.length)
  s.appendBytes kind (fitTo len (s.ledgerHeader kind flags len ++ body))

/-- Kinds 3 and 4: a step, a detail and a digest of zeros (R307). A kind 3 entry that is the first after an L0 reset says that there is a gap. -/
def State.appendStart (s : State) (step : Nat) : State :=
  s.appendEntry 3 (if s.ledger.gap then 2 else 0) (leBytes 8 step ++ leBytes 8 0 ++ zeros 32)

def State.appendEnd (s : State) (reason : Nat) : State := s.appendEntry 4 0 (leBytes 8 s.run.sealed ++ leBytes 8 reason ++ zeros 32)

/-- Kind 5: the checkpointed version and the manifest's digest, signed (R307, R450). -/
def State.appendMark (s : State) (v : Nat) (sha : Bytes) : State :=
  let len := 0x48 + 48 + 384
  let b := s.ledgerHeader 5 0 len ++ leBytes 8 v ++ leBytes 8 0 ++ fitTo 32 sha
  s.appendBytes 5 (b ++ fitTo 384 (Config.sign (sha256 b)))

/-- Σ mix64(program_tag) over the 512 logical cores (R308); the tag of a core without a program is zero (R386), and so is its term. -/
def State.programFold (s : State) : Word :=
  ((List.range 512).map (fun c => match (s.core c).prog with
    | some p => mixNat p.tag
    | none => 0)).foldl (· + ·) 0

/-- Every re-cast region that the loaded programs name, in ascending index (R192). -/
def State.recastRegions (s : State) : List Nat :=
  let named := (List.range 512).flatMap (fun c => match (s.core c).prog with
    | some p => (p.descs.map Desc.parse).filterMap (fun d => if d.space = 4 then some d.region else none)
    | none => [])
  (s.mem.regions.filter (fun e => e.2.spill == 2 && named.contains e.1)).map (·.1)

/-- The contributions and deliveries of a segment: the least over the M-dies that hold its elements (R213, log entry 37). -/
def State.segTotals (s : State) (step : Nat) (j : Job) (seg : Nat) : SegCount :=
  let ms := (List.range 8).filter (fun m => !(s.segElems j.pair j.n m seg).isEmpty)
  let cs := ms.map (fun m => s.segCounts step m j.pair seg)
  match cs with
  | [] => SegCount.blank
  | c :: rest => rest.foldl (fun a b => { contribs := min a.contribs b.contribs, deliveries := min a.deliveries b.deliveries }) c

/-- Every segment of every job in force, with its totals. -/
def State.allSegs (s : State) (step : Nat) : List (Job × SegCount) :=
  s.jobs.flatMap (fun e => (List.range (segCount e.2.n)).map (fun k => (e.2, s.segTotals step e.2 k)))

/-- *Numerics decision block* (R171). -/
def State.decisionBlock (s : State) (step : Nat) : Bytes :=
  let r := s.stepRec step
  let p := s.policyOf step
  leBytes 8 p.tag ++ sha256 (scaleRecords r.scale) ++ leBytes 4 r.conditions ++ leBytes 1 r.action ++ leBytes 1 (min 255 r.overReplays)
    ++ leBytes 1 (bitNat s.num.emu + 2 * bitNat (p.masterMode == 1) + 4 * bitNat r.limitHit) ++ leBytes 1 0 ++ leBytes 2 r.formatLog.length
    ++ leBytes 2 r.alarms.length ++ leBytes 4 0
    ++ r.formatLog.flatMap (fun x => leBytes 2 x.1 ++ leBytes 1 x.2.1 ++ leBytes 1 x.2.2.1 ++ leBytes 4 (sat32 x.2.2.2))
    ++ r.alarms.flatMap (fun x => leBytes 2 x.1 ++ leBytes 1 x.2.1 ++ leBytes 1 0 ++ leBytes 4 x.2.2.toNat)

/-- Bytes of the step's own husk entry. -/
def State.huskField (s : State) (step off n : Nat) : Bytes :=
  match s.huskSlot step with
  | some i => s.readMem (s.huskBase i + off) n
  | none => zeros n

def sumCounts (m : SMap Nat) : Nat := (m.map (·.2)).sum

/-- *Step seal entry* from offset 0x48 (R308). -/
def State.sealBody (s : State) (step interval next : Nat) : Bytes :=
  let r := s.stepRec step
  let segs := s.allSegs step
  let recast := s.recastRegions
  let own := r.digests.filter (fun d => field d 2 1 == 0)
  let mir := r.digests.filter (fun d => field d 2 1 == 1)
  let table := match s.frame.table with
    | some t => t.tag
    | none => 0
  leBytes 8 step ++ leBytes 8 s.seed.toNat ++ s.huskField step 0x50 32 ++ s.huskField step 0x70 32 ++ leBytes 8 table ++ leBytes 8 s.programFold.toNat
    ++ s.huskField step 0x40 8 ++ leBytes 4 interval ++ leBytes 4 next ++ leBytes 4 s.epoch ++ leBytes 2 s.frame.period
    ++ leBytes 1 (min 255 r.attempts) ++ leBytes 1 0 ++ leBytes 2 r.failuresSeen ++ leBytes 2 (own.length + mir.length) ++ leBytes 2 recast.length
    ++ leBytes 2 0 ++ sha256 r.summary ++ s.huskField step 0x28 4
    ++ leBytes 4 ((segs.filter (fun x => x.2.contribs == x.1.expected)).length) ++ leBytes 8 ((segs.map (fun x => x.2.contribs)).sum)
    ++ leBytes 8 ((segs.map (fun x => x.2.deliveries)).sum) ++ leBytes 8 r.opsAt.sent ++ leBytes 8 r.opsAt.received ++ leBytes 8 (sumCounts r.sigSent)
    ++ leBytes 8 (sumCounts r.sigApplied) ++ (own ++ mir).flatten ++ padTo 8 (recast.flatMap (leBytes 2)) ++ s.decisionBlock step

/-- Append the entry of a sealed step, and keep its sequence and hash for the evaluations and manifests that name it (R309, R350). -/
def State.appendSeal (s : State) (step interval next : Nat) (byResolution : Bool) : State :=
  let q := s.ledger.nextSeq
  let s1 := s.appendEntry 1 (bitNat byResolution) (s.sealBody step interval next)
  s1.withLedger { s1.ledger with seals := SMap.insert s1.ledger.seals step (q, s1.ledger.prevHash) }

/-- The entry hash of the entry that sealed a version; free where the module sealed none (log entry 38). -/
def State.sealHash (s : State) (v : Nat) : Bytes :=
  match SMap.find? s.ledger.seals v with
  | some x => x.2
  | none => (List.range 32).map (Config.freeByte v)

/-- *Evaluation entry* from offset 0x48 (R309). Its program fold is over the cores that the evaluation's image ran on, one term for each slot entry. -/
def State.evalBody (s : State) (v : Eval) : Bytes :=
  let tag := match v.image with
    | some p => p.tag
    | none => 0
  let cores := match s.frame.table with
    | some t => (t.entries.filter (fun e => e.cls == clsEval)).flatMap TableEntry.units
    | none => []
  let fold := ((dedup cores).map (fun _ => mixNat tag)).foldl (· + ·) 0
  leBytes 8 v.version ++ leBytes 8 v.id ++ leBytes 8 v.seed.toNat ++ s.sealHash v.version ++ fitTo 32 v.inDigest ++ fitTo 32 v.outDigest
    ++ leBytes 8 fold.toNat ++ leBytes 2 v.status ++ leBytes 1 v.tenant ++ zeros 5

/-- Append the entries of the evaluations completed, in ascending eval_id. -/
def State.appendEvals (s : State) : State :=
  let due := (s.evals.filter (fun v => (v.phase == 2 || v.phase == 3) && v.seq.isNone))
  let ids := due.foldl (fun (l : List Eval) v => (l.filter (fun x => decide (x.id < v.id))) ++ [v] ++ l.filter (fun x => decide (v.id < x.id))) []
  ids.foldl (fun st v => (st.appendEntry 2 0 (st.evalBody v)).setEval v.id (fun y => { y with seq := some st.ledger.nextSeq })) s

end Sys2Proof.Machine
end

