-- ==== Sys2Proof/Machine/Decision.lean ====
section
/-!
DEFINITION. Training numerics from step to step (07_training_numerics R148 to R172): the scale state and the gradient formats of a step, the numerics
exchange, the conditions of a verdict, overflow replays and the stagnation counts.
-/

namespace Sys2Proof.Machine

/-! Gradient formats (R163). -/

def sumHist (r : Range) (lo : Nat) : Nat := ((r.hist.filter (fun e => decide (lo ≤ e.1))).map (·.2)).sum

/-- The elements of a range record that a format might lose. -/
def lostIn (h fmt : Nat) (r : Range) : Nat :=
  if fmt = 3 then sumHist r (18 - h) else if fmt = 6 then r.mxLost else if fmt = 4 then sumHist r (min 31 (32 - h)) else 0

/-- The formats in rank order. -/
def rankedFormats : List Nat := [3, 6, 4, 2]

def formatRank (f : Nat) : Nat := (rankedFormats.findIdx? (· == f)).getD 3

/-- The format of a layer for a step, with its lost count: the first in rank order within the limit, tightened for one that ranks before the last. -/
def chooseFormat (p : Policy) (layer last : Nat) (t : SMap Range) : Nat × Nat :=
  let rs := (p.entries.filter (fun m => m.fmtSel && m.layer == layer)).map (fun m => SMap.get Range.blank t m.id)
  let n := (rs.map (fun r => r.nonzero)).sum
  let lost := fun f => (rs.map (lostIn p.headroom f)).sum
  let ok := fun f => decide (lost f * 2 ^ (p.tauExp + (if formatRank f < formatRank last then 2 else 0)) ≤ n)
  let f := (rankedFormats.find? ok).getD 2
  (f, lost f)

/-- The layers with format-selected tensors. -/
def Policy.formatLayers (p : Policy) : List Nat := dedup ((p.entries.filter (fun m => m.fmtSel)).map (fun m => m.layer))

/-- The formats of a step, and the changes against the step before. -/
def State.formatsOf (s : State) (p : Policy) (step : Nat) : SMap Nat × List (Nat × Nat × Nat × Nat) :=
  if s.num.emu then ([], [])
  else
    p.formatLayers.foldl (fun (a : SMap Nat × List (Nat × Nat × Nat × Nat)) l =>
      let last := SMap.get 2 (s.stepRec (step - 1)).formats l
      let c := if step ≤ s.run.sealedBase + 2 then (2, 0) else chooseFormat p l last (SMap.get [] s.num.history (step - 2))
      (SMap.insert a.1 l c.1, if c.1 = last then a.2 else a.2 ++ [(l, last, c.1, c.2)])) ([], [])

def clampedAny (m : SMap ScaleEntry) : Bool := m.any (fun e => bit e.2.flags 2 || bit e.2.flags 3)

/-- A step begins: the policy in force governs it, and its formats and scale state are fixed (R148, R153, R156, R163). -/
def State.beginNumerics (s : State) (step : Nat) : State :=
  if (s.stepRec step).policy.isSome then s
  else
    let p := s.num.policy
    let f := s.formatsOf p step
    let sc := p.entries.foldl (fun (m : SMap ScaleEntry) e =>
      let est := s.estimate p step e
      SMap.insert m e.id (e.scaleEntry p.headroom (e.format s.num.emu f.1) (bitNat est.2) est.1)) []
    let s1 := s.mapStep step (fun r => { r with policy := some p, formats := f.1, formatLog := f.2, scale := sc })
    let s2 := if f.2.isEmpty then s1 else s1.logStepOnce { code := 0x4004, step := step }
    if clampedAny sc then s2.logStepOnce { code := 0x400A, step := step } else s2

/-- Whether a step has begun. -/
def State.begun (s : State) (step : Nat) : Bool := (s.stepRec step).policy.isSome

/-! Overflow replay (R160, R161). -/

/-- The estimates of one replayed step raised to the failed attempt's maxima. -/
def correctScale (p : Policy) (a : SMap Range) (m : SMap ScaleEntry) : SMap ScaleEntry :=
  m.map (fun e => match p.entry e.1 with
    | none => e
    | some g =>
      if g.scaled = false then e
      else
        let x := (SMap.get Range.blank a e.1).amax
        let up := vLt (decFP32 e.2.est) (decFP32 x)
        let kept := (e.2.flags % 4) - (if up then e.2.flags % 2 else 0)
        (e.1, g.scaleEntry p.headroom e.2.fmt (if up then kept ||| 2 else kept) (if up then x else e.2.est)))

def State.correctStep (s : State) (a : SMap Range) (step : Nat) : State :=
  if s.begun step then
    let p := s.policyOf step
    let s1 := s.mapStep step (fun r => { r with scale := correctScale p a r.scale })
    if clampedAny (s1.stepRec step).scale then s1.logStepOnce { code := 0x400A, step := step } else s1
  else s

/-- Steps S and S + 1 are corrected from the combined table of the failed attempt of S. -/
def State.correctScales (s : State) (step : Nat) : State :=
  let a := (s.stepRec step).combined.getD []
  (s.correctStep a step).correctStep a (step + 1)

/-! The update watch (R166 to R168). -/

def watchDefault (layer : Nat) : WatchEntry := { layer := layer, on := true, high := 0x3D4CCCCD#32, floor := 0x34000000#32, limit := 1000 }

/-- The watched layers of a step, in ascending order. -/
def State.watchedLayers (s : State) (step : Nat) : List WatchEntry :=
  let ps := dedup ((((s.policyOf step).entries.filter (fun e => e.role == 1)).map (fun e => e.layer)))
  let m := ps.foldl (fun (m : SMap WatchEntry) l => if (SMap.find? m l).isSome then m else SMap.insert m l (watchDefault l)) s.num.watch
  (m.map (·.2)).filter (fun w => w.on)

/-- The ratio of a layer (R166). -/
def watchRatio (d m : BitVec 48) : W32 :=
  if (decA48 d.toNat).isZero then 0 else encFP32 (vSqrt (vDiv (decA48 d.toNat) (decA48 m.toNat)).1).1

/-- The stagnation count that a seal would give a layer (R167). -/
def State.nextStag (s : State) (w : WatchEntry) (ratio : W32) : Nat :=
  if vLt (decFP32 ratio) (decFP32 w.floor) then SMap.get 0 s.num.stag w.layer + 1 else 0

def divergent (w : WatchEntry) (ratio : W32) : Bool := vLt (decFP32 w.high) (decFP32 ratio)
def State.stagnant (s : State) (w : WatchEntry) (ratio : W32) : Bool :=
  let n := s.nextStag w ratio
  w.limit != 0 && n != 0 && n % w.limit == 0

/-! The numerics exchange (R152). -/

/-- *Range record*. -/
def Range.record (tid : Nat) (r : Range) : Bytes :=
  leBytes 4 tid ++ leBytes 4 r.amax.toNat ++ leBytes 4 r.nonzero ++ leBytes 4 r.mxLost ++ (List.range 32).flatMap (fun j => leBytes 4 (SMap.get 0 r.hist j))

def Range.ofRecord (b : Bytes) : Range :=
  { amax := BitVec.ofNat 32 (field b 4 4), nonzero := field b 8 4, mxLost := field b 12 4,
    hist := (List.range 32).filterMap (fun j => if field b (16 + 4 * j) 4 = 0 then none else some (j, field b (16 + 4 * j) 4)) }

/-- amax by maximum, counts by saturating sum. -/
def Range.combine (a b : Range) : Range :=
  { amax := maxCodeOf a.amax b.amax, nonzero := sat32 (a.nonzero + b.nonzero), mxLost := sat32 (a.mxLost + b.mxLost),
    hist := b.hist.foldl (fun m e => SMap.insert m e.1 (sat32 (SMap.get 0 m e.1 + e.2))) a.hist }

/-- The own sums of a watched layer: the tree over the M-dies (log entry 41). -/
def StepRec.ownWatch (r : StepRec) (layer : Nat) : BitVec 48 × BitVec 48 :=
  let ms := (List.range 8).map (fun m => SMap.find? r.watch (m * 65536 + layer))
  (treeSum (ms.map (fun x => x.map (·.1))), treeSum (ms.map (fun x => x.map (·.2))))

/-- The bytes that one module exchanges for a step: a range record for each managed tensor of the policy in its order, then 16 bytes for each watched
layer in ascending order. -/
def State.exchangeBytes (s : State) (step : Nat) : Bytes :=
  let r := s.stepRec step
  (s.policyOf step).entries.flatMap (fun e => Range.record e.id (SMap.get Range.blank r.ranges e.id))
    ++ (s.watchedLayers step).flatMap (fun w => let x := r.ownWatch w.layer; leBytes 8 x.1.toNat ++ leBytes 8 x.2.toNat)

/-- Combine the exchanged bytes of every rank, in rank order. -/
def State.combineNumerics (s : State) (step : Nat) (all : List Bytes) : State :=
  let es := (s.policyOf step).entries
  let tab := es.zipIdx.foldl (fun (m : SMap Range) e =>
    let rs := all.map (fun b => Range.ofRecord (slice b (0x90 * e.2) 0x90))
    SMap.insert m e.1.id (match rs with
      | [] => Range.blank
      | r :: rest => rest.foldl Range.combine r)) []
  let ratios := (s.watchedLayers step).zipIdx.map (fun w =>
    let at' := fun (off : Nat) => treeSum (all.map (fun b => some (BitVec.ofNat 48 (field b (0x90 * es.length + 16 * w.2 + off) 8))))
    (w.1.layer, watchRatio (at' 0) (at' 8)))
  s.mapStep step (fun r => { r with combined := some tab, ratios := ratios })

/-! Conditions (R157). -/

def scaledTensor (p : Policy) (tid : Nat) : Bool :=
  match p.entry tid with
  | some m => m.scaled
  | none => false

/-- The conditions met, in index order. -/
def State.conditionsMet (s : State) (step : Nat) : List Bool :=
  let r := s.stepRec step
  let p := s.policyOf step
  let st := r.status
  let ws := s.watchedLayers step
  let ratio := fun (w : WatchEntry) => SMap.get 0 r.ratios w.layer
  [bit st kInvalid, r.counters.any (fun c => c.2.nan != 0), bit st kNanIn || bit st kInfIn, bit st kOverflow,
   r.counters.any (fun c => c.2.sat != 0 && scaledTensor p c.1), r.counters.any (fun c => c.2.sat != 0 && !scaledTensor p c.1),
   r.counters.any (fun c => decide (p.flushLimit < c.2.flush)), r.counters.any (fun c => c.2.clamp != 0) || clampedAny r.scale,
   ws.any (fun w => divergent w (ratio w)), ws.any (fun w => s.stagnant w (ratio w))]

/-- The mask of the conditions met, and the highest action among them. -/
def State.ownConditions (s : State) (step : Nat) : Nat × Nat :=
  let met := s.conditionsMet step
  let acts := (s.policyOf step).actions
  (met.zipIdx.foldl (fun a c => a + (if c.1 then 2 ^ c.2 else 0)) 0, met.zipIdx.foldl (fun a c => if c.1 then max a (acts.getD c.2 0) else a) 0)

/-- The alarm records of R171. -/
def State.alarmsOf (s : State) (step : Nat) : List (Nat × Nat × W32) :=
  let r := s.stepRec step
  (s.watchedLayers step).flatMap (fun w =>
    let x := SMap.get 0 r.ratios w.layer
    (if divergent w x then [(w.layer, 8, x)] else []) ++ (if s.stagnant w x then [(w.layer, 9, x)] else []))

/-- What a seal does to the numerics: the combined table enters the history, and the stagnation counts change (R298 item 2). The history keeps the
65 steps that the longest policy can ask for, and one more. -/
def State.sealNumerics (s : State) (step : Nat) : State :=
  let r := s.stepRec step
  let stag := (s.watchedLayers step).foldl (fun m w => SMap.insert m w.layer (s.nextStag w (SMap.get 0 r.ratios w.layer))) s.num.stag
  s.withNum { s.num with history := (SMap.insert s.num.history step (r.combined.getD [])).filter (fun e => decide (step ≤ e.1 + 66)), stag := stag }

end Sys2Proof.Machine
end

