-- ==== Sys2Proof/Machine/Checkpoint.lean ====
section
/-!
DEFINITION. Checkpoints (14_checkpoint_restore R339 to R351; 09_near_memory_engines R226 to R228): starting one, its streams and units, reading back, and
the manifest.
-/

namespace Sys2Proof.Machine

/-! Streams (R342 to R344). -/

/-- 8 MiB. -/
def unitBytes : Nat := 8388608
/-- The data bytes of a bulk frame (R371). -/
def chunkBytes : Nat := 4096

def CkptStream.units_ (x : CkptStream) : Nat := ceilDiv x.len unitBytes
def CkptStream.unitLen (x : CkptStream) (u : Nat) : Nat := min unitBytes (x.len - u * unitBytes)

/-- *Run state stream* of a version (R343). -/
def State.runStateBytes (s : State) (v : Nat) : Bytes :=
  leBytes 4 1 ++ leBytes 2 s.num.stag.length ++ zeros 2 ++ leBytes 8 v ++ s.num.stag.flatMap (fun e => leBytes 2 e.1 ++ zeros 2 ++ leBytes 4 (sat32 e.2))

/-- The pair regions of the jobs in force, ascending, each with its first job. -/
def State.pairJobs (s : State) : List (Nat × Job) :=
  (s.jobs.foldl (fun (m : SMap Job) e => if (SMap.find? m e.2.pair).isSome then m else SMap.insert m e.2.pair e.2) [])

/-- The streams of a section on the eight M-dies. -/
def sectionStreams (region kind sec size : Nat) : List CkptStream :=
  (List.range 8).map (fun m => { region := region, kind := kind, mdie := m, sec := sec, len := size / 8, own := [], units := [], resent := false, back := [] })

/-- The streams of version V in the order of *Checkpoint streams*; `buf` names the buffer of each pair that they lie in. -/
def State.streamsOf (s : State) (v : Nat) (buf : Nat → Nat) : List CkptStream :=
  let ps := s.pairJobs
  let fs := (ps.foldl (fun (m : SMap Job) e => if e.2.factorCount = 0 then m else SMap.insert m e.2.factor e.2) [])
  let own := s.runStateBytes v
  ps.flatMap (fun e => sectionStreams e.1 0 (bufferOff e.2.n (buf e.1)) (roundUp mib2 (stateBytes e.2.n)))
    ++ fs.flatMap (fun e => sectionStreams e.1 1 (factorSec e.2 (buf e.2.pair)) (roundUp mib2 (4 * e.2.factorCount)))
    ++ [{ region := 0, kind := 2, mdie := 0xFF, sec := 0, len := own.length, own := own, units := [], resent := false, back := [] }]

/-- Where byte `off` of a stream lies: the M-die's local addresses of the section, from the first (R183, R342). -/
def State.streamMa (s : State) (x : CkptStream) (off : Nat) : Nat := maOf x.mdie (laOf (s.regionBase x.region + x.sec) + off)

/-- The bytes of a unit: runs of 256 local addresses are contiguous in module memory. -/
def State.unitOf (s : State) (x : CkptStream) (u : Nat) : Bytes :=
  if x.kind = 2 then slice x.own (u * unitBytes) (x.unitLen u)
  else (List.range (x.unitLen u / 256)).flatMap (fun i => s.readMem (s.streamMa x (u * unitBytes + 256 * i)) 256)

/-- The atoms of a unit, for uncorrectable reads (R194, R348). -/
def State.unitAtoms (s : State) (x : CkptStream) (u : Nat) : List Nat :=
  if x.kind = 2 then [] else (List.range (x.unitLen u / 256)).map (fun i => s.streamMa x (u * unitBytes + 256 * i) / 256)

/-- The stream digest (R344). -/
def CkptStream.digest (x : CkptStream) : Bytes := sha256 (x.units.flatMap (·.2))

/-- *Checkpoint chunk header*. -/
def chunkHeader (stream len flags off v : Nat) (pre : Bytes) : Bytes :=
  leBytes 4 stream ++ leBytes 2 len ++ leBytes 2 flags ++ leBytes 8 off ++ leBytes 8 v ++ fitTo 8 pre

/-- The frames that carry bytes of a stream from an offset; the last chunk of a unit carries the start of its digest. -/
def chunkFrames (stream v off : Nat) (b dg : Bytes) : List TxFrame :=
  let n := ceilDiv b.length chunkBytes
  (List.range n).map (fun i =>
    let d := slice b (i * chunkBytes) chunkBytes
    let last := decide (i + 1 = n)
    bulkFrame 1 (chunkHeader stream d.length (if last then 2 else 0) (off + i * chunkBytes) v (if last then dg else [])) d)

/-! Progress. -/

def State.setRun (s : State) (r : CkptRun) : State := s.withCkpt { s.ckpt with run := some r }

/-- Read a unit and send it: the unit's digest is kept, and the bytes are counted. -/
def State.sendUnit (s : State) (r : CkptRun) (i u : Nat) : State :=
  match r.streams[i]? with
  | none => s
  | some x =>
    let b := s.unitOf x u
    let dg := sha256 b
    let r1 := { r with streams := r.streams.set i { x with units := SMap.insert x.units u dg }, sent := r.sent + b.length }
    (s.setRun r1).sendFrames r.session (chunkFrames i r.version (u * unitBytes) b dg)

/-- Ask the sink for the stream that is read back next (R347). -/
def State.askBack (s : State) : State :=
  match s.ckpt.run with
  | none => s
  | some r =>
    (s.setRun { r with lastBack := s.clk.elapsed }).sendFrames r.session [bulkFrame 2 (chunkHeader r.pos 0 1 0 r.version []) []]

/-- When every unit of the M-dies has been sent, the run state follows, and read-back starts. -/
def State.afterUnit (s : State) : State :=
  match s.ckpt.run with
  | none => s
  | some r =>
    if r.reading || r.streams.any (fun x => x.kind != 2 && decide (x.units.length < x.units_)) then s
    else
      let i := r.streams.length - 1
      let s1 := s.sendUnit r i 0
      match s1.ckpt.run with
      | none => s1
      | some r1 => (s1.setRun { r1 with reading := true, pos := 0 }).askBack

/-- A checkpoint of a version starts: its guards are set on every pair, and CHECKPOINT_START is logged (R227, R340, R341). Without an open Owner session
as its sink it fails at once (R348). -/
def State.startCheckpoint (s : State) (v : Nat) : State :=
  let buf := fun p => bufOf (s.v0 p) v
  let xs := s.streamsOf v buf
  let gs := s.pairJobs.foldl (fun (m : SMap Guard) e =>
    (List.range 8).foldl (fun (m : SMap Guard) d => SMap.insert m (e.1 * 8 + d)
      { version := v, buf := buf e.1, units := ceilDiv (roundUp mib2 (stateBytes e.2.n) / 8) unitBytes, read := [] }) m) []
  let p := s.ckpt.policy
  let r : CkptRun := { version := v, session := p.sink, byDigest := bit p.flags 2, reading := false, streams := xs, allow := [], sent := 0, verified := 0,
                       resent := 0, pos := 0, lastBack := s.clk.elapsed, part := [] }
  let s1 := s.withMem { s.mem with guards := gs }
  let s2 := (s1.withCkpt { s1.ckpt with run := some r, deferred := false, lastStart := some s.run.periodRef }).log { code := 0x8014, detail := leBytes 8 v }
  if s2.ownerSession p.sink then s2.afterUnit else s2.failCheckpoint 0x0202

/-! Chunk entries and units (R227, R228, R345). -/

/-- The bytes that an entry's object allows each M-die in a clause; none for no limit. -/
def CkptPolicy.limit (p : CkptPolicy) (obj : Nat) : Option Nat :=
  if p.chunks ≤ obj then none
  else match p.limits.getD obj 0 with
    | 0 => none
    | n => some (n * 1048576)

/-- At the end of a clause what an M-die has been allowed and has not used is taken as read of its next unit, short of its end (log entry 44). -/
def State.closeChunks (s : State) : State :=
  match s.ckpt.run with
  | none => s
  | some r => s.setRun { r with allow := [], part := r.allow.foldl (fun m e => match e.2 with
      | some a => SMap.insert m e.1 (min a (unitBytes - 1))
      | none => SMap.erase m e.1) r.part }

/-- A checkpoint chunk entry becomes due on an M-die: the streamer may read there until the clause closes. The entry itself ends at once. -/
def execCheckpointChunk (idx : Nat) (mdie : Nat) (at' : Nat) (s0 : State) : Out :=
  let s := s0.advance at'
  match s.readyKey idx clsCkpt mdie with
  | none => notNow "no checkpoint chunk entry of this table place is ready on this M-die"
  | some k =>
    match s.entryAt k with
    | none => notNow "no such entry"
    | some e =>
      if s.mayStart = false ∨ s.blocked k mdie clsCkpt = true then notNow "the M-die cannot begin this entry"
      else
        let s1 := (s.startUnit k mdie).finishUnit k mdie
        match s1.ckpt.run with
        | none => .next s1
        | some r =>
          let a := match s1.ckpt.policy.limit e.entry.object, SMap.find? r.allow mdie with
            | none, _ => none
            | some _, some none => none
            | some n, some (some m) => some (n + m)
            | some n, none => some (n + SMap.get 0 r.part mdie)
          .next (s1.setRun { r with allow := SMap.insert r.allow mdie a })

/-- The guard unit at which a job of a pair waits on an M-die. -/
def State.stallsAt (s : State) (pair mdie : Nat) : List Nat :=
  (s.mem.jobRuns.filter (fun r => r.mdie == mdie && !r.mirror && (match SMap.find? s.jobs r.job with
    | some j => j.pair == pair
    | none => false))).filterMap (fun r => r.stall.map (·.1))

/-- Writes that wait at a guard unit go on once it has been read, and the length of their wait is counted (R227, R228). -/
def State.releaseStall (s : State) (pair mdie u : Nat) : State :=
  let mine := fun (r : JobRun) => r.mdie == mdie && !r.mirror && (match SMap.find? s.jobs r.job with
    | some j => j.pair == pair
    | none => false) && r.stall.map (·.1) == some u
  let us := ((s.mem.jobRuns.filter mine).filterMap (fun r => r.stall.map (fun x => ceilDiv (s.clk.ref - x.2) 100))).sum
  let s1 := s.withMem { s.mem with jobRuns := s.mem.jobRuns.map (fun r => if mine r then { r with stall := none } else r),
                                   guards := s.mem.guards.map (fun e => if e.1 = pair * 8 + mdie then (e.1, { e.2 with read := e.2.read ++ [u] }) else e) }
  s1.near mdie (fun n => { n with stallUs := sat32 (n.stallUs + us) })

/-- The streamer reads the next unit of a pair or factor region on an M-die: the one a write waits at, whatever the clause; otherwise the lowest unread
one of the M-die's first unfinished stream, within the clause's allowance, or freely outside a run (R227, R345). -/
def execGuardUnitRead (mdie : Nat) (pair : Nat) (s : State) : Out :=
  match s.ckpt.run with
  | none => notNow "no checkpoint is in progress"
  | some r =>
    let unread := fun (x : CkptStream) => decide (x.units.length < x.units_)
    match r.streams.zipIdx.find? (fun x => x.1.kind != 2 && x.1.region == pair && x.1.mdie == mdie && unread x.1) with
    | none => notNow "every unit has been read"
    | some (x, i) =>
      let first := r.streams.zipIdx.find? (fun y => y.1.mdie == mdie && unread y.1)
      let stalls := if x.kind = 0 then s.stallsAt pair mdie else []
      let g : Guard := { version := r.version, buf := 0, units := x.units_, read := x.units.map (·.1) }
      match g.next stalls with
      | none => notNow "every unit has been read"
      | some u =>
        let forced := stalls.contains u
        let n := x.unitLen u
        let room : Bool := (match SMap.find? r.allow mdie with
          | none => false
          | some none => true
          | some (some a) => decide (n ≤ a))
        if r.reading || (!forced && (first.map (·.2) != some i || (s.inRun && !room))) then notNow "the streamer may not read this unit now"
        else if (s.unitAtoms x u).any (fun a => SMap.get false s.mem.bad a) then
          .next ((s.countUe (256 * ((s.unitAtoms x u).find? (fun a => SMap.get false s.mem.bad a)).getD 0) 0).failCheckpoint 0x0602)
        else
          let allow := match SMap.find? r.allow mdie with
            | some (some a) => if forced then r.allow else SMap.insert r.allow mdie (some (a - n))
            | _ => r.allow
          let s1 := s.sendUnit { r with allow := allow } i u
          .next ((if x.kind = 0 then s1.releaseStall pair mdie u else s1).afterUnit)

/-! Manifest (R349, R350). -/

/-- The own shard digest record of a version: the one kept with its step, or made from the buffer. -/
def State.ownDigest (s : State) (v : Nat) (p : Nat) (j : Job) : Bytes :=
  match (s.stepRec v).digests.find? (fun d => field d 0 2 == p && field d 2 1 == 0) with
  | some d => d
  | none =>
    let b := bufOf (s.v0 p) v
    digestRecord p false false (s.versionTag p v) v (s.shardFold j v (s.regionBase p + bufferOff j.n b) (s.regionBase j.factor + factorSec j b)) j.n

def State.manifestOf (s : State) (r : CkptRun) : Bytes :=
  let ps := s.pairJobs
  let sl := match s.member with
    | some (a, _) => a
    | none => 0
  let b := leBytes 4 1 ++ leBytes 2 s.modId ++ leBytes 2 s.rank ++ s.runIdBytes ++ leBytes 8 r.version ++ leBytes 2 sl ++ leBytes 2 s.memberCount
    ++ leBytes 4 s.epoch ++ leBytes 8 (jobFold s.jobs).toNat ++ fitTo 32 (s.sealHash r.version) ++ leBytes 2 ps.length ++ zeros 2
    ++ leBytes 4 r.streams.length ++ zeros 8 ++ ps.flatMap (fun e => s.ownDigest r.version e.1 e.2)
    ++ r.streams.flatMap (fun x => leBytes 2 x.region ++ leBytes 1 x.kind ++ leBytes 1 x.mdie ++ zeros 4 ++ leBytes 8 x.len ++ x.digest)
  b ++ fitTo 384 (Config.sign (sha256 b))

/-- Every stream is verified: the manifest is sent, C becomes V, and the kind 5 entry is appended, at the next period during a run (R349). -/
def State.finishCheckpoint (s : State) (r : CkptRun) : State :=
  let m := s.manifestOf r
  let sha := sha256 m
  let s1 := (s.withMem { s.mem with guards := [] }).sendFrames r.session (chunkFrames 0xFFFFFFFF r.version 0 m [])
  let c := s1.ckpt
  let s2 := (s1.withCkpt { c with run := none, last := some r.version, done := some r.version, manifest := m, sha := sha, status := 0,
                                  mark := if s1.inRun then some (r.version, sha) else none }).log { code := 0x8015, detail := leBytes 8 r.version }
  if s1.inRun then s2 else s2.appendMark r.version sha

/-! Read-back (R347, R348). -/

/-- Whether every unit of a stream still holds V: its buffer has not been written for a later version. -/
def State.stillHolds (s : State) (r : CkptRun) (x : CkptStream) : Bool :=
  if x.kind = 2 then true
  else if x.kind = 1 then
    s.jobs.all (fun e => e.2.factor != x.region || e.2.factorCount == 0 || (List.range 8).all (fun m =>
      let y := (s.pairDie e.2.pair m).buf (bufOf (s.v0 e.2.pair) r.version)
      y == .held r.version || y == .writing (r.version + 2)))
  else
    let d := s.pairDie x.region x.mdie
    let b := bufOf (s.v0 x.region) r.version
    d.buf b == .held r.version || (d.buf b == .writing (r.version + 2) && s.mem.jobRuns.all (fun q => q.mdie != x.mdie || q.mirror || q.segs == 0))

/-- The bytes returned for a stream, by unit, as unit digests. -/
def backDigest (x : CkptStream) : Bytes :=
  let b := x.back.flatMap (·.2)
  sha256 ((List.range x.units_).flatMap (fun u => sha256 (slice b (u * unitBytes) unitBytes)))

/-- A stream has been returned whole: equal digests move on, the first difference has the stream sent again, a second fails the checkpoint. -/
def State.judgeStream (s : State) (r : CkptRun) (x : CkptStream) (ok : Bool) : State :=
  if ok then
    let s1 := s.setRun { r with pos := r.pos + 1 }
    if r.pos + 1 < r.streams.length then s1.askBack else s1.finishCheckpoint { r with pos := r.pos + 1 }
  else if x.resent || !s.stillHolds r x then s.failCheckpoint 0x0501
  else
    let r1 := { r with streams := r.streams.set r.pos { x with units := [], back := [], resent := true }, resent := sat32 (r.resent + 1) }
    let s1 := (List.range x.units_).foldl (fun st u => match st.ckpt.run with
      | some q => st.sendUnit q r.pos u
      | none => st) (s.setRun r1)
    s1.askBack

/-- A chunk that the sink returns is hashed; a chunk of another stream is discarded. Under the expert flag the sink returns a digest for each stream. -/
def execReadbackChunk (stream : Nat) (data : Bytes) (s : State) : Out :=
  match s.ckpt.inbox.find? (fun c => c.kind == 2 && c.stream == stream && c.data == data) with
  | none => notNow "no such read-back chunk has arrived"
  | some c =>
    let s1 := s.withCkpt { s.ckpt with inbox := s.ckpt.inbox.erase c }
    match s1.ckpt.run with
    | none => .next s1
    | some r =>
      match r.streams[r.pos]? with
      | none => .next s1
      | some x =>
        if r.reading = false ∨ stream ≠ r.pos then .next s1
        else
          let r1 := { r with lastBack := s.clk.elapsed, verified := r.verified + data.length }
          if r.byDigest then .next (s1.judgeStream r1 x (data == x.digest))
          else
            let y := { x with back := SMap.insert x.back c.off data }
            let r2 := { r1 with streams := r1.streams.set r1.pos y }
            if (y.back.map (fun e => e.2.length)).sum < x.len then .next (s1.setRun r2)
            else .next (s1.judgeStream r2 y (backDigest y == x.digest))

/-- No read-back chunk has arrived for 10 s. -/
def execReadbackTimeout (s : State) : Out :=
  match s.ckpt.run with
  | none => notNow "no checkpoint is in progress"
  | some r => if r.reading then .next ((s.advanceTo (r.lastBack + 10 * cyclesS)).failCheckpoint 0x0701) else notNow "no stream is being read back"

/-! Triggers (R340, R341). -/

/-- Whether a checkpoint of a sealed step is due. -/
def State.ckptDue (s : State) (step : Nat) : Bool :=
  let p := s.ckpt.policy
  let c := s.ckpt.last.getD (match s.run.armed with
    | some a => a.v0
    | none => 0)
  (bit p.flags 0 && decide (p.steps ≤ step - c))
    || (bit p.flags 1 && decide (p.timer * cyclesS ≤ s.run.periodRef - s.ckpt.lastStart.getD s.run.startRef))

/-- After the seal of a step: a due checkpoint starts, or is deferred while one is in progress. -/
def State.ckptTrigger (s : State) (step : Nat) : State :=
  if s.ckptDue step = false then s
  else if s.ckpt.run.isSome then
    (s.withCkpt { s.ckpt with deferred := true, deferrals := sat32 (s.ckpt.deferrals + 1) }).log { code := 0x8017, step := step }
  else s.startCheckpoint step

/-- CHECKPOINT_NOW at the period: the version must be the latest sealed one (R341). -/
def State.ckptNow (s : State) : State :=
  match s.ckpt.now, s.ckpt.nowFor with
  | some v, some t =>
    let s1 := s.withCkpt { s.ckpt with now := none, nowFor := none }
    if v ≠ 0 ∧ v ≠ s1.run.sealed then s1.respond t { status := 0x0301 }
    else if s1.ckpt.run.isSome then s1.respond t { status := 0x0302 }
    else (s1.respond t {}).startCheckpoint s1.run.sealed
  | _, _ => s

end Sys2Proof.Machine
end

