-- ==== Sys2Proof/Machine/ClauseCtl.lean ====
section
/-!
DEFINITION. The clause control class (06_core_instruction_set R137, R138) and the event class (R139, R140).
-/

namespace Sys2Proof.Machine

/-- END waits until everything issued has completed, then ends the entry (R137); ENTRY_END takes it off the core. -/
def execEndEntry (c : Nat) (s : State) : Out :=
  issue c (.endEntry c) (fun k e st =>
    if !k.drained then .stall else .goto (st.setCore c { k with entry := some { e with ended := true } }) e.pc) s

/-- FENCE waits in the same way and continues. -/
def execClauseFence (c : Nat) (s : State) : Out :=
  issue c (.clauseFence c) (fun k _ st => if !k.drained then .stall else .done st) s

/-- *INFO selectors*. -/
def infoValue (s : State) (c : Nat) (e : EntryRun) (sel : Nat) : Nat :=
  match sel with
  | 0 => e.step
  | 1 => e.lag
  | 2 => e.clause
  | 3 => c
  | 4 => s.frame.period
  | 5 => e.object
  | 6 => bitNat e.isEval
  | _ => s.rank

def execInfo (c : Nat) (d : BitVec 5) (sel : BitVec 4) (s : State) : Out :=
  issue c (.info c d sel) (fun k e st => .done (st.setCore c (k.setS d (BitVec.ofNat 64 (infoValue st c e sel.toNat))))) s

/-- Whether the destination range of an OVL is refused: the resident part, the end of the memory, the OVL itself, a loop body or a stacked return. -/
def ovlBad (k : Core) (e : EntryRun) (x : OvlOp) : Bool :=
  let lo := x.dst.toNat
  let hi := lo + x.count.toNat
  let res := match k.prog with
    | some p => p.resident.length
    | none => 0
  let held := fun (i : Nat) => decide (lo ≤ i ∧ i < hi)
  decide (lo < res) || decide (8192 < hi) || held e.pc || k.loops.any (fun l => decide (lo < l.stop ∧ l.start < hi)) || k.calls.any (fun r => held r.index)

/-- The overlay area of an entry's image in instructions: units of 64 KiB (R138). -/
def overlayWords (i : Image) : Nat := roundUp 8192 i.overlay.length

/-- OVL copies instructions into the overlay part. A word of the area beyond the image's overlay is a free value (log entry 25). -/
def execOvl (c : Nat) (x : OvlOp) (s : State) : Out :=
  issue c (.ovl c x) (fun k e st =>
    if ovlBad k e x || decide (overlayWords e.image < x.src.toNat + x.count.toNat) then .raise xOverlay 0
    else
      let m := (List.range x.count.toNat).foldl (fun m j =>
        SMap.insert m (x.dst.toNat + j) ((e.image.overlay[x.src.toNat + j]?).getD (Config.freeWord (x.src.toNat + j)))) k.overlay
      .done (st.setCore c { k with overlay := m })) s

/-- STAT_RD: the numeric status word, zero-extended. -/
def execStatRd (c : Nat) (d : BitVec 5) (s : State) : Out :=
  issue c (.statRd c d) (fun k _ st => if !k.drained then .stall else .done (st.setCore c (k.setS d (k.status.setWidth 64)))) s

/-- STAT_CLR: a mask written as W1C to bits 7:0; clearing FE_VALID clears the record (R87, R89). -/
def clearStatus (k : Core) (mask : BitVec 8) : Core :=
  { k with status := k.status &&& ~~~(mask.setWidth 32), first := if mask.getLsbD 7 then none else k.first }

def execStatClr (c : Nat) (mask : BitVec 8) (s : State) : Out :=
  issue c (.statClr c mask) (fun k _ st => if !k.drained then .stall else .done (st.setCore c (clearStatus k mask))) s

/-- STAT_CAP: CAPTURE_MASK, bits 22:16. -/
def setCapture (k : Core) (v : BitVec 7) : Core := { k with status := (k.status &&& ~~~(0x7F0000#32)) ||| (v.setWidth 32 <<< 16) }

def execStatCap (c : Nat) (v : BitVec 7) (s : State) : Out :=
  issue c (.statCap c v) (fun k _ st => if !k.drained then .stall else .done (st.setCore c (setCapture k v))) s

/-- FE_RD: a 32-bit word of the first-event record, zero while FE_VALID is 0. -/
def firstWord (k : Core) (w : Nat) : Nat :=
  match k.first with
  | some f => if k.status.getLsbD 7 then field f.bytes (4 * w) 4 else 0
  | none => 0

def execFeRd (c : Nat) (d : BitVec 5) (w : BitVec 3) (s : State) : Out :=
  issue c (.feRd c d w) (fun k _ st => if !k.drained then .stall else .done (st.setCore c (k.setS d (BitVec.ofNat 64 (firstWord k w.toNat))))) s

/-- MARK: a record in the trace buffer of 256, oldest first; the oldest is overwritten (R140). -/
def execMark (c : Nat) (v : BitVec 5) (code : BitVec 16) (s : State) : Out :=
  issue c (.mark c v code) (fun k e st =>
    let m : MarkRecord := { code := code.toNat, value := k.s v, clause := e.clause, index := e.issued, ref := st.clk.ref }
    let t := k.trace ++ [m]
    .done (st.setCore c { k with trace := t.drop (t.length - 256) })) s

/-- RAISE raises PROGRAM_RAISE with its code. -/
def execRaise (c : Nat) (code : BitVec 16) (s : State) : Out := issue c (.raise c code) (fun _ _ _ => .raise xRaise code.toNat) s

end Sys2Proof.Machine
end

