-- ==== Sys2Proof/Machine/Collectives.lean ====
section
/-!
DEFINITION. Collectives (11_fabric_and_collectives R271 to R277): reading the contributors, the fixed trees, placing the outputs, gradient delivery
(09_near_memory_engines R212) and the statistics exchange (R220).
-/

namespace Sys2Proof.Machine

/-! What a COLLECTIVE operation carries (log entry 27). -/

/-- A48 values of a payload: 8-byte containers (R64). -/
def a48List : Nat → Bytes → List (BitVec 48)
  | 0, _ => []
  | n + 1, d => BitVec.ofNat 48 (field d 0 8) :: a48List n (d.drop 8)

def a48Bytes (l : List (BitVec 48)) : Bytes := l.flatMap (fun x => leBytes 8 x.toNat)

def InOp.bytes (o : InOp) : Bytes := (o.frags.map (·.2)).flatten

/-- The position of a rank on an axis, and the rank at a position of its group (R271). -/
def Axis.pos (a : Axis) (r : Nat) : Nat := r / a.stride % a.size
def Axis.rankAt (a : Axis) (r j : Nat) : Nat := r + j * a.stride - a.pos r * a.stride

/-- The part of E elements that position p owns, as first and count: E / n elements, the last parts shorter where n does not divide E. -/
def partOf (e n p : Nat) : Nat × Nat := (min e (p * ceilDiv e n), min (ceilDiv e n) (e - p * ceilDiv e n))

/-- Merge what an operation carries: its first 8 bytes say where its elements start and whether they are an owner's part. -/
def CollRun.take (r : CollRun) (pos : Nat) (d : Bytes) : CollRun :=
  let start := field d 0 4
  let second := bit (field d 4 4) 0
  let vals := a48List ((d.length - 16) / 8) (d.drop 16)
  let put := fun (m : SMap (BitVec 48)) => vals.zipIdx.foldl (fun m v => SMap.insert m (start + v.2) v.1) m
  if second then { r with parts := SMap.insert r.parts pos (put (SMap.get [] r.parts pos)) }
  else { r with ins := SMap.insert r.ins pos (put (SMap.get [] r.ins pos)) }

def collPayload (start : Nat) (second : Bool) (l : List (BitVec 48)) : Bytes := leBytes 4 start ++ leBytes 4 (bitNat second) ++ zeros 8 ++ a48Bytes l

/-! Collectives in progress, under the key of their schedule entry. -/

/-- The collective in progress that an operation belongs to: the same object, window and lag. -/
def State.collOf (s : State) (o : InOp) : Option (Nat × CollRun) :=
  s.fab.colls.find? (fun e => (match s.entryAt e.1 with
    | some q => q.entry.object == o.object
    | none => false) && e.2.window % 2 ^ 32 == o.window && e.2.lag == o.lag)

def State.setColl (s : State) (k : Nat) (r : CollRun) : State := s.withFab { s.fab with colls := SMap.insert s.fab.colls k r }

def Axis.none : Axis := { size := 1, stride := 1, kind := 0, defined := false }

def State.axisOf (s : State) (a : Nat) : Axis :=
  match s.fab.axis with
  | some x => x.axes.getD a Axis.none
  | none => Axis.none

/-- Arrival offsets count 1.25 ns from the comma that opened the clause; a reference cycle is eight of them (R44). -/
def State.arrival (s : State) (k : Nat) : Nat :=
  match s.entryAt k with
  | some e => sat32 ((s.clk.ref - e.openRef) * 8)
  | none => 0

/-! The trees (R274). -/

/-- A node of a reduction: 1 sum, rounded once to A48; 2 maximum; 3 minimum (R102). -/
def collNode (op : Nat) (a b : Val) : Val := if op = 1 then addA48 a b else if op = 2 then vMax a b else vMin a b

/-- The element-wise tree over equally long inputs, in order. -/
def treeList (op : Nat) (l : List (List (BitVec 48))) : List (BitVec 48) :=
  (List.range ((l.headD []).length)).map (fun i =>
    match treeFold (collNode op) l.length (l.map (fun x => some (decA48 (x.getD i 0).toNat))) with
    | some v => encA48 v
    | none => 0)

/-- In QM12 emulation the gradient reduction across the slice is a linear chain in ascending rank, rounded to FP32 after each rank (R169). -/
def chainList (l : List (List (BitVec 48))) : List (BitVec 48) :=
  (List.range ((l.headD []).length)).map (fun i =>
    match l with
    | [] => 0
    | x :: xs => encA48 (xs.foldl (fun a y => (fFP32.round .rne (vAdd a (decA48 (y.getD i 0).toNat)).1).1) (fFP32.round .rne (decA48 (x.getD i 0).toNat)).1))

def State.groupTree (s : State) (d : CollDesc) (l : List (List (BitVec 48))) : List (BitVec 48) :=
  if s.num.emu && d.dest == 2 then chainList l else treeList d.op l

def CollDesc.reduces (d : CollDesc) : Bool := d.kind == 1 || d.kind == 3

/-- Elements `first` to `first + n - 1` of a sparse input, where all are there. -/
def takeRun (m : SMap (BitVec 48)) (first n : Nat) : Option (List (BitVec 48)) := (elems first n).mapM (fun i => SMap.find? m i)

/-- The owner's part of a reduction at position p, once every position's part has arrived (R276). -/
def State.ownPart (s : State) (r : CollRun) (n p : Nat) : Option (List (BitVec 48)) :=
  let q := partOf r.desc.elems n p
  ((List.range n).mapM (fun j => takeRun (SMap.get [] r.ins j) q.1 q.2)).map (s.groupTree r.desc)

/-- The whole output at position p, where it is complete (*Collective placement*). -/
def State.collOut (s : State) (r : CollRun) (n p : Nat) : Option (List (BitVec 48)) :=
  let e := r.desc.elems
  match r.desc.kind with
  | 1 => s.ownPart r n p
  | 3 => ((List.range n).mapM (fun j => let q := partOf e n j; takeRun (SMap.get [] r.parts j) 0 q.2)).map List.flatten
  | 2 => ((List.range n).mapM (fun j => takeRun (SMap.get [] r.ins j) 0 e)).map List.flatten
  | 4 => takeRun (SMap.get [] r.ins r.desc.root) 0 e
  | _ => ((List.range n).mapM (fun j => let q := partOf e n p; takeRun (SMap.get [] r.ins j) q.1 q.2)).map List.flatten

/-- A COLLECTIVE operation to another position. -/
def State.sendColl (s : State) (k : Nat) (r : CollRun) (object rank start : Nat) (second : Bool) (l : List (BitVec 48)) : State :=
  s.openSend { typ := tCollective, cls := r.desc.axis, object := object, window := r.window, lag := r.lag, dstRank := rank,
               data := collPayload start second l, step := some r.step, coll := some k }

/-- An all-reduce's owner, once its part is complete, keeps it and sends it to every other position (R276). -/
def State.pushPart (s : State) (k : Nat) : State :=
  match SMap.find? s.fab.colls k, s.entryAt k with
  | some r, some e =>
    let a := s.axisOf r.desc.axis
    let p := a.pos s.rank
    if r.desc.kind ≠ 3 ∨ r.sent2 = true ∨ r.dead = true then s
    else
      match s.ownPart r a.size p with
      | none => s
      | some v =>
        let r1 := { r with sent2 := true, parts := SMap.insert r.parts p (v.zipIdx.map (fun x => (x.2, x.1))) }
        ((List.range a.size).filter (· != p)).foldl (fun st j => st.sendColl k r1 e.entry.object (a.rankAt s.rank j) 0 true v) (s.setColl k r1)
  | _, _ => s

/-- Hand a completed COLLECTIVE operation to its collective, or keep it until the collective starts here. -/
def State.takeColl (s : State) (o : InOp) : State :=
  match s.collOf o with
  | some (k, r) =>
    let pos := (s.axisOf r.desc.axis).pos o.srcRank
    (s.setColl k { r.take pos o.bytes with offs := SMap.insert r.offs o.srcRank (s.arrival k) }).pushPart k
  | none => s.withFab { s.fab with early := s.fab.early ++ [o] }

/-! Events of a collective. -/

/-- A collective entry becomes ready and starts on its axis (R31, R273). What has arrived for it early is taken in. -/
def execCollective (idx : Nat) (at' : Nat) (s0 : State) : Out :=
  let s := s0.advance at'
  match s.run.entries.find? (fun e => keyPlace e.1 == idx && e.2.entry.cls == clsColl && e.2.state == .ready) with
  | none => notNow "no collective entry of this table place is ready"
  | some (k, e) =>
    match s.fab.axis.bind (fun x => x.colls[e.entry.object]?) with
    | none => notNow "no such collective descriptor is in force"
    | some d =>
      if s.mayStart = false ∨ s.blocked k e.entry.target clsColl = true then notNow "the collective cannot begin"
      else
        let r : CollRun := { desc := d, step := e.step, window := e.window, lag := e.entry.lag, reads := [], ins := [], parts := [],
                             sent2 := false, dead := false, offs := [] }
        let s1 := (s.startUnit k e.entry.target).setColl k r
        let mine := fun (o : InOp) => o.object == e.entry.object && o.window == e.window % 2 ^ 32 && o.lag == e.entry.lag
        let early := s1.fab.early.filter mine
        .next (early.foldl State.takeColl (s1.withFab { s1.fab with early := s1.fab.early.filter (fun o => !mine o) }))

/-- The running collective of a table place. -/
def State.collAt (s : State) (idx : Nat) : Option (Nat × CollRun) :=
  s.fab.colls.find? (fun x => keyPlace x.1 == idx)

/-- A collective that ends without a result: its step does not seal, and done_object is not signalled (R273). -/
def State.dropColl (s : State) (k : Nat) (r : CollRun) (mask : Nat) : State :=
  let s1 := (s.withFab { s.fab with colls := SMap.erase s.fab.colls k }).failStep r.step mask
  match s1.entryAt k with
  | some e => s1.finishUnit k e.entry.target
  | none => s1

/-- A tensor of a collective in a store: E elements from base, MX records first and their scale bytes after them (log entry 31). -/
def collTensor (fmt : Fmt) (t : Int) (base n tid : Nat) (d : CollDesc) : Desc :=
  { tid := tid, fmt := fmt, t := t, space := 1, residual := false, axis1 := false, nanMode := d.nanMode, sr := d.sr, k := d.srK, dims := 1, region := 0,
    draw := d.draw, base := base, scale := if fmt.isMx then base + ceilDiv n 32 * fmt.recordBytes else 0, e0 := n, e1 := 1, e2 := 1, e3 := 1, s1 := 0,
    s2 := 0, s3 := 0 }

/-- The format and scale exponent that a collective uses in a step: those in force where out_tensor_id is managed (R154, log entry 31). -/
def State.collFormat (s : State) (r : CollRun) (code : Nat) : Fmt × Int :=
  let f := (Fmt.ofCode code).getD .fp32
  match (s.policyOf r.step).entry r.desc.tid with
  | none => (f, 0)
  | some m =>
    let g := if m.fmtSel && f == .bf16 && !s.num.emu then (Fmt.ofCode (SMap.get 2 (s.stepRec r.step).formats m.layer)).getD f else f
    let t := match SMap.find? (s.stepRec r.step).scale r.desc.tid with
      | some x => x.t
      | none => 0
    (g, if g.scaled then t else 0)

/-- How many elements a contributor supplies: all E of a reducing collective, else its share (R272, R276). -/
def CollDesc.share (d : CollDesc) : Nat := if d.reduces then d.elems else d.elems / d.count

/-- The module value: the tree over the contributors, or their inputs one after another (R274, R276). -/
def CollRun.moduleValue (r : CollRun) : List (BitVec 48) :=
  let l := r.reads.map (·.2)
  if r.desc.reduces then treeList r.desc.op l else l.flatten

/-- Put in place what this module itself supplies to its own position, and send the rest (R276). -/
def State.spread (s : State) (k : Nat) (r : CollRun) (object : Nat) (v : List (BitVec 48)) : State :=
  let a := s.axisOf r.desc.axis
  let n := a.size
  let p := a.pos s.rank
  let r1 := { r with ins := SMap.insert r.ins p (v.zipIdx.map (fun x => (x.2, x.1))), offs := SMap.insert r.offs s.rank (s.arrival k) }
  let whole := r.desc.kind == 2 || r.desc.kind == 4
  (((List.range n).filter (· != p)).foldl (fun st j =>
    let q := if whole then (0, v.length) else partOf r.desc.elems n j
    st.sendColl k r1 object (a.rankAt s.rank j) q.1 false ((v.drop q.1).take q.2)) (s.setColl k r1)).pushPart k

/-- A contributor's ready object has reached ready_target: its input is read, decoded exactly into A48. A poisoned object ends the collective; so does an
uncorrectable input (R194, R273, R274). -/
def execContributorRead (idx : Nat) (contributor : Nat) (s : State) : Out :=
  match s.collAt idx with
  | none => notNow "no collective of this table place runs"
  | some (k, r) =>
    let d := r.desc
    let p := (s.axisOf d.axis).pos s.rank
    match s.fab.axis.bind (fun x => x.contribs[d.first + contributor]?), s.entryAt k with
    | some c, some e =>
      let o := s.obj (objKey 2 c.die c.ready)
      if d.count ≤ contributor ∨ (SMap.find? r.reads contributor).isSome = true ∨ (d.kind = 4 ∧ d.root ≠ p) then
        notNow "this contributor is not to be read"
      else if o.poisoned = true then .next (s.dropColl k r fEntry)
      else if o.value < d.target then notNow "the ready object has not reached its target"
      else
        let ft := s.collFormat r d.inFmt
        let t := collTensor ft.1 ft.2 c.base d.share 0 d
        let pl := Place.cluster (c.die * 8 + c.cluster)
        if (elems 0 d.share).any (fun i => (t.spans i).any (fun x => (linesOf x.1 x.2).any (fun l =>
            SMap.get false s.mem.badStore (pl.unit * 2 ^ 32 + l)))) then .next ((s.countSramUe (srcC (s.physDie c.die)) r.step).dropColl k r fEcc)
        else
          let r1 := { r with reads := SMap.insert r.reads contributor ((elems 0 d.share).map (fun i => encA48 (s.elemValue pl t i))) }
          if r1.reads.length < d.count then .next (s.setColl k r1) else .next (s.spread k r1 e.entry.object r1.moduleValue)
    | _, _ => notNow "no such contributor"

/-! Outputs. -/

/-- The range of a gradient delivery's elements in its pair: from dest_base, the reduced output (R272). -/
def CollDesc.output (d : CollDesc) (n p : Nat) : Nat × Nat := if d.kind = 3 then (d.base, d.elems) else (d.base, (partOf d.elems n p).2)

/-- The ordinal of R212: the earlier collective entries of the table that deliver to the pair and whose output covers the segment. -/
def State.ordinalOf (s : State) (idx pair seg : Nat) : Nat :=
  match s.frame.table, s.fab.axis with
  | some t, some x =>
    ((t.entries.take idx).filter (fun e => e.cls == clsColl && (match x.colls[e.object]? with
      | some d =>
        let a := s.axisOf d.axis
        let q := d.output a.size (a.pos s.rank)
        d.dest == 2 && d.unit == pair && decide (q.1 < (seg + 1) * segSize ∧ seg * segSize < q.1 + q.2)
      | none => false))).length
  | _, _ => 0

/-- The deliveries of an output: one for each segment it covers and each M-die that holds elements of it there (R212). -/
def State.deliveriesOf (s : State) (idx : Nat) (r : CollRun) (n p : Nat) (out : List (BitVec 48)) : List Delivery :=
  let q := r.desc.output n p
  let segs := elems (q.1 / segSize) ((q.1 + q.2 + segSize - 1) / segSize - q.1 / segSize)
  segs.flatMap (fun g =>
    let is := (elems (g * segSize) segSize).filter (fun i => decide (q.1 ≤ i ∧ i < q.1 + q.2))
    ((List.range 8).filterMap (fun m =>
      let mine := is.filter (fun i => s.ownerDie r.desc.unit i == m)
      if mine.isEmpty then none
      else some { mdie := m, pair := r.desc.unit, seg := g, step := r.step, ordinal := s.ordinalOf idx r.desc.unit g, count := n, first := q.1,
                  len := q.2, vals := mine.map (fun i => out.getD (i - q.1) 0) })))

/-- Write an output to its cluster store or the staging space, converted once, and charge out_tensor_id (R275). -/
def State.writeOutput (s : State) (r : CollRun) (out : List (BitVec 48)) : State :=
  let d := r.desc
  let ft := s.collFormat r d.outFmt
  let t := collTensor ft.1 ft.2 d.base out.length d.tid d
  let pl := if d.dest = 1 then Place.staging else Place.cluster (d.unit / 256 * 8 + d.unit % 256)
  let rnd := fun (i : Nat) => rounding s.num.emu d.sr d.srK s.seed r.step d.tid 0 i d.draw
  let items : List Item := out.zipIdx.map (fun x => { i := x.2, v := decA48 x.1.toNat, idx := x.2 })
  let w : Written := if t.fmt.isMx then
      (match t.convertBlocks rnd items with
        | .ok w => w
        | .error _ => { writes := [], events := [], charge := {} })
    else t.convertItems s.num.emu rnd items
  (w.writes.foldl (fun (st : State) (x : Nat × Bytes) => st.writePlace pl x.1 x.2) s).charge r.step d.tid w.charge d.nanMode

/-- The dies that done_object is signalled on: those of the contributors and of a cluster store destination (R273). -/
def State.collDies (s : State) (d : CollDesc) : List Nat :=
  let cs : List Nat := match s.fab.axis with
    | some x => ((x.contribs.drop d.first).take d.count).map (fun c => c.die)
    | none => []
  (List.range 8).filter (fun i => cs.contains i || (d.dest == 0 && d.unit / 256 == i))

/-- Signal done_object with a count of 1 on every die concerned, which the local audit of the die counts (R273, R292); what the object record names as the
last signaller is not stated (log entry 32). -/
def State.signalDone (s : State) (step : Nat) (d : CollDesc) : State :=
  (s.collDies d).foldl (fun st i =>
    let f := (Config.freeWord st.fresh).toNat
    let r := (st.nextFree).applySignal (objKey 2 i d.done) 1 (f % 4) (f / 4 % 512) (f / 2048 % 8)
    r.1.countSignal step i (fun q => match r.2 with
      | .added => (q.1 + 1, q.2.1 + 1, q.2.2)
      | .refused => (q.1 + 1, q.2.1, q.2.2.1 + 1, q.2.2.2)
      | .ignored => (q.1 + 1, q.2.1, q.2.2.1, q.2.2.2 + 1))) s

/-- Arrivals last at this collective, for the health score (R44, R45). -/
def State.countLast (s : State) (r : CollRun) : State :=
  let top := (r.offs.map (·.2)).foldl max 0
  let lasts := r.offs.foldl (fun m x => if x.2 = top then SMap.insert m x.1 (SMap.get 0 m x.1 + 1) else m) s.fab.lasts
  let maxes := r.offs.foldl (fun m x => SMap.insert m x.1 (max (SMap.get 0 m x.1) x.2)) s.fab.maxOffs
  s.withFab { s.fab with lasts := lasts, counted := s.fab.counted + 1, maxOffs := maxes }

/-- Whether an operation of the collective is still unacknowledged. -/
def State.collOpen (s : State) (k : Nat) : Bool :=
  s.fab.ndies.any (fun n => n.2.slots.any (fun x => x.2.coll == some k)) || s.fab.waitOps.any (fun o => o.coll == some k)

/-! The statistics exchange (R220, R277). -/

/-- How many sums a layer has: Σw² and Σr² for LAMB, the factors' sums for the factored optimizer, seven for a micro-program. -/
def Job.slots (j : Job) (l : Layer) : Nat := if j.optimizer = 2 then 2 else if j.optimizer = 5 then l.factors else 7

/-- The two-phase jobs whose exchange this collective entry runs: their first phase stands before it in the window, at lag 1, on this axis. -/
def State.statsJobs (s : State) (k : Nat) (r : CollRun) : List (Nat × Job) :=
  if r.lag ≠ 1 then []
  else s.jobs.filter (fun x => x.2.phases == 2 && x.2.statsAxis == r.desc.axis
    && s.run.entries.any (fun e => decide (e.1 < k) && keyWindow e.1 == keyWindow k && e.2.entry.cls == clsOpt && e.2.entry.object == x.1)
    && s.run.entries.any (fun e => decide (k < e.1) && keyWindow e.1 == keyWindow k && e.2.entry.cls == clsOpt && e.2.entry.object == x.1))

/-- The module's partial sums: the tree over its M-dies. -/
def State.ownStats (s : State) (js : List (Nat × Job)) : List (BitVec 48) :=
  js.flatMap (fun x => x.2.layers.zipIdx.flatMap (fun l => (List.range (x.2.slots l.1)).map (fun i =>
    treeSum ((List.range 8).map (fun m => (SMap.find? s.mem.sums (sumKey x.1 l.2 m)).map (fun v => v.getD i 0))))))

/-- Keep combined sums, layer by layer. -/
def State.putStats (s : State) (js : List (Nat × Job)) (all : List (BitVec 48)) : State :=
  (js.foldl (fun (a : State × List (BitVec 48)) x => x.2.layers.zipIdx.foldl (fun b l =>
    let n := x.2.slots l.1
    (b.1.withMem { b.1.mem with sums := SMap.insert b.1.mem.sums (sumKey x.1 l.2 8) (b.2.take n) }, b.2.drop n)) a) (s, all)).1

/-- The exchange itself: `others` are the records of the other ranks, in ascending rank; the result is the tree over all ranks. -/
def State.statsExchange (s : State) (js : List (Nat × Job)) (others : List Bytes) : State :=
  let own := s.ownStats js
  let recs := others.map (fun b => a48List (b.length / 8) b)
  let all := (recs.take s.rank) ++ [own] ++ (recs.drop s.rank)
  s.putStats js ((List.range own.length).map (fun i => treeSum (all.map (fun l => some (l.getD i 0)))))

/-- A collective is done: its outputs are written and its operations acknowledged (R273, R275, R276). Where the entry also runs a statistics exchange,
`stats` carries the other ranks' records. -/
def execCollectiveDone (idx : Nat) (stats : List Bytes) (at' : Nat) (s0 : State) : Out :=
  let s := s0.advance at'
  match s.collAt idx with
  | none => notNow "no collective of this table place runs"
  | some (k, r) =>
    let a := s.axisOf r.desc.axis
    let p := a.pos s.rank
    let js := s.statsJobs k r
    if s.collOpen k = true ∨ stats.length ≠ (if js.isEmpty then 0 else s.memberCount - 1) then notNow "operations are not acknowledged or records are missing"
    else
      match s.collOut r a.size p, s.entryAt k with
      | some out, some e =>
        let s1 := if js.isEmpty then s else s.statsExchange js stats
        let s2 := if r.desc.dest = 2 then s1.withMem { s1.mem with outbox := s1.mem.outbox ++ s1.deliveriesOf idx r a.size p out }
                  else s1.writeOutput r out
        let s3 := (s2.signalDone r.step r.desc).countLast r
        .next ((s3.withFab { s3.fab with colls := SMap.erase s3.fab.colls k }).finishUnit k e.entry.target)
      | _, _ => notNow "the outputs are not complete"

end Sys2Proof.Machine
end

