-- ==== Sys2Proof/Machine/MatrixOps.lean ====
section
/-!
DEFINITION. The matrix class (06_core_instruction_set R131; 04_matrix_engine R69 to R91): the checks at issue, the accumulation in the reference order,
and the output conversion at completion.
-/

namespace Sys2Proof.Machine

def MatOp.passes (x : MatOp) : Nat := (x.mode.extractLsb' 0 2).toNat
def MatOp.transA (x : MatOp) : Bool := x.mode.getLsbD 2
def MatOp.transB (x : MatOp) : Bool := x.mode.getLsbD 3
def MatOp.init (x : MatOp) : Nat := (x.mode.extractLsb' 4 2).toNat
def MatOp.conv (x : MatOp) : Bool := x.mode.getLsbD 6
def MatOp.half (x : MatOp) : Bool := x.mode.getLsbD 7

/-- A matrix instruction with its operands' descriptors and origins, and the shape they give (R131). -/
structure MatShape where
  a  : Desc
  b  : Desc
  c  : Desc
  o  : Desc
  ka : Nat
  kb : Nat
  m  : Nat
  n  : Nat
  k  : Nat
  deriving DecidableEq, Repr

def matShape (x : MatOp) (k : Core) : MatShape :=
  let a := Desc.parse (k.desc x.a.toNat)
  let b := Desc.parse (k.desc x.b.toNat)
  let kb := (k.a x.kb).toNat
  { a := a, b := b, c := Desc.parse (k.desc x.c.toNat), o := Desc.parse (k.desc x.out.toNat), ka := (k.a x.ka).toNat, kb := kb,
    m := if MatOp.transA x then a.e0 else a.e1, n := if MatOp.transB x then b.e1 else b.e0, k := (if MatOp.transB x then b.e0 else b.e1) - kb }

def MatShape.aK (q : MatShape) (x : MatOp) : Nat := if MatOp.transA x then q.a.e1 else q.a.e0

def flat2 (d : Desc) : Bool := d.e2 == 1 && d.e3 == 1

/-- SHAPE: M, N, K outside R73, extents that break R131. -/
def shapeBad (x : MatOp) (q : MatShape) : Bool :=
  !(decide (1 ≤ q.m ∧ q.m ≤ 256 ∧ 1 ≤ q.n ∧ q.n ≤ 64 ∧ 1 ≤ q.k ∧ q.k ≤ 16384 ∧ q.ka + q.k ≤ q.aK x)) || !flat2 q.a || !flat2 q.b
    || (MatOp.init x == 2 && !(flat2 q.c && q.c.e0 == q.n && q.c.e1 == q.m))
    || (MatOp.conv x && !(flat2 q.o && q.o.e0 == q.n && q.o.e1 == q.m))

/-- The logical index of A at (m, k) and of B at (k, n), counted from the K origins. -/
def MatShape.aIdx (q : MatShape) (x : MatOp) (m k : Nat) : Nat :=
  if MatOp.transA x then m + q.a.e0 * (q.ka + k) else q.ka + k + q.a.e0 * m
def MatShape.bIdx (q : MatShape) (x : MatOp) (k n : Nat) : Nat :=
  if MatOp.transB x then q.kb + k + q.b.e0 * n else n + q.b.e0 * (q.kb + k)

def MatShape.aAll (q : MatShape) (x : MatOp) : List Nat := (List.range q.m).flatMap (fun m => (List.range q.k).map (fun k => q.aIdx x m k))
def MatShape.bAll (q : MatShape) (x : MatOp) : List Nat := (List.range q.n).flatMap (fun n => (List.range q.k).map (fun k => q.bIdx x k n))

/-- The blocks of an MX operand lie along K after transposition (R83). -/
def axisBad (d : Desc) (kDim1 : Bool) : Bool := d.fmt.isMx && d.axis1 != kDim1

/-- A whole tensor inside the operand store. -/
def inStore (s : State) (c : Nat) (d : Desc) : Bool := s.inside (.own c) d (elems 0 d.count)

/-- The checks of R91 in the order of *Matrix exceptions*; the detail of a range exception is the descriptor. -/
def matCheck (s : State) (c : Nat) (x : MatOp) (k : Core) (q : MatShape) : Option (Nat × Nat) :=
  if shapeBad x q then some (xShape, 0)
  else if !inStore s c q.a then some (xRange, x.a.toNat)
  else if !inStore s c q.b then some (xRange, x.b.toNat)
  else if MatOp.init x == 2 && !inStore s c q.c then some (xRange, x.c.toNat)
  else if MatOp.conv x && !inStore s c q.o then some (xRange, x.out.toNat)
  else if q.a.fmt == .a48 || q.b.fmt == .a48 then some (xFormat, 0)
  else if MatOp.init x == 1 && decide ((k.closedRows (MatOp.half x)).toNat % 2 ^ q.m ≠ 0) then some (xKAlign, 0)
  else if axisBad q.a (MatOp.transA x) || axisBad q.b (!MatOp.transB x) then some (xMxAxis, 0)
  else if (q.a.fmt.isMx && q.ka % 32 != 0) || (q.b.fmt.isMx && q.kb % 32 != 0) then some (xMxAlign, 0)
  else none

/-- The interlocks of a matrix instruction: a full queue; a transfer into an operand; a conversion of the half it writes, or into an operand, still to
be made (R74, R85). -/
def matHeld (k : Core) (x : MatOp) : Bool :=
  let t := fun (d : Nat) => k.loadQ.any (fun l => l.dst == d) || k.matQ.any (fun m => m.writes d)
  decide (4 ≤ k.matQ.length) || t x.a.toNat || t x.b.toNat || (MatOp.init x == 2 && t x.c.toNat)
    || k.matQ.any (fun m => m.converts && m.half == MatOp.half x)

/-- The group width of the reference order: 32, or 16 in QM12 emulation (R75, R169). -/
def groupWidth (emu : Bool) : Nat := if emu then 16 else 32

/-- Values of an operand row or column. -/
def matVals (s : State) (c : Nat) (d : Desc) (is : List Nat) : List (Val × Val) :=
  is.map (fun i => splitHiLo (d.fmt == .fp32) (s.elemValue (.own c) d i))

/-- Decode events of A, B and C (R60, R89). -/
def decodeEvents (s : State) (c : Nat) (x : MatOp) (q : MatShape) : List Ev :=
  let w := groupWidth s.num.emu
  let at_ := fun (d : Desc) (i : Nat) => decodeKinds (s.elemValue (.own c) d i)
  let evA := (List.range q.m).flatMap (fun m => (List.range q.k).flatMap (fun k =>
    (at_ q.a (q.aIdx x m k)).map (fun kd => ({ kind := kd, row := m, col := 0, kgroup := k / w, pass := 1 } : Ev))))
  let evB := (List.range q.n).flatMap (fun n => (List.range q.k).flatMap (fun k =>
    (at_ q.b (q.bIdx x k n)).map (fun kd => ({ kind := kd, row := 0, col := n, kgroup := k / w, pass := 1 } : Ev))))
  let evC := if MatOp.init x = 2 then (List.range q.m).flatMap (fun m => (List.range q.n).flatMap (fun n =>
    (at_ q.c (n + q.c.e0 * m)).map (fun kd => ({ kind := kd, row := m, col := n, kgroup := noGroup, pass := 1 } : Ev)))) else []
  evA ++ evB ++ evC

/-- One element of the product with its events (R75 to R81). In QM12 emulation one pass only (R169). -/
def matElem (s : State) (c : Nat) (x : MatOp) (q : MatShape) (k : Core) (m n : Nat) : AccState :=
  let init : Option Val :=
    if MatOp.init x = 0 then none
    else if MatOp.init x = 1 then some (decA48 (k.accAt (MatOp.half x) m n).toNat)
    else some (s.elemValue (.own c) q.c (n + q.c.e0 * m))
  let a := matVals s c q.a ((List.range q.k).map (fun kk => q.aIdx x m kk))
  let b := matVals s c q.b ((List.range q.k).map (fun kk => q.bIdx x kk n))
  elementValue s.num.emu m n 0 (if s.num.emu then 1 else MatOp.passes x) init a b

def grid (m n : Nat) : List (Nat × Nat) := (List.range m).flatMap (fun i => (List.range n).map (fun j => (i, j)))

/-- Closed rows after an instruction: K not a multiple of 32 closes the half, a clear or an init from C opens it (R78). -/
def closedAfter (old : BitVec 256) (init k : Nat) : BitVec 256 := if k % 32 ≠ 0 then BitVec.allOnes 256 else if init = 1 then old else 0

def mmBody (c : Nat) (x : MatOp) (k : Core) (e : EntryRun) (s : State) : Issued :=
  let q := matShape x k
  if matHeld k x then .stall
  else
    match matCheck s c x k q with
    | some y => .raise y.1 y.2
    | none =>
      let rd := do
        s.checkElems (.own c) q.a (q.aAll x)
        s.checkElems (.own c) q.b (q.bAll x)
        if MatOp.init x = 2 then s.checkElems (.own c) q.c (elems 0 q.c.count) else .ok ()
      match rd with
      | .error none => .stall
      | .error (some y) => .raise y 0
      | .ok _ =>
        let cells := (grid q.m q.n).map (fun p => (p, matElem s c x q k p.1 p.2))
        let acc := cells.foldl (fun a y => SMap.insert a (accKey (MatOp.half x) y.1.1 y.1.2) (encA48 y.2.value)) k.acc
        let evs := decodeEvents s c x q ++ cells.flatMap (fun y => y.2.2)
        let h := bitNat (MatOp.half x)
        let k1 := { k with acc := acc, closed := SMap.insert k.closed h (closedAfter (k.closedRows (MatOp.half x)) (MatOp.init x) q.k),
                           matQ := k.matQ ++ [{ op := x, rows := q.m, cols := q.n, index := e.issued, aId := q.a.tid, bId := q.b.tid,
                                                outDesc := k.desc x.out.toNat }] }
        let cause : Cause := { unit := 0, out := if MatOp.conv x then q.o.tid else 0, a := q.a.tid, b := q.b.tid, clause := e.clause,
                               index := e.issued, core := c }
        .done ((s.setCore c k1).noteEvents c e cause evs)

/-- MM: checked at issue; the half takes its values in the reference order; the instruction enters the matrix queue (R74, R75, R91). -/
def execMm (c : Nat) (x : MatOp) (s : State) : Out := issue c (.mm c x) (mmBody c x) s

/-- The oldest matrix instruction, which converts, completes: every value it covers is converted to the output tensor; the half keeps its values (R85,
R86). -/
def execMatrixOutputConversion (c : Nat) (s : State) : Out :=
  let k := s.core c
  match k.matQ, k.entry with
  | m :: rest, some e =>
    if !m.converts then notNow "the oldest matrix instruction does not convert"
    else
      let d := Desc.parse m.outDesc
      let items : List Item := (grid m.rows m.cols).map (fun p =>
        let i := p.2 + d.e0 * p.1
        { i := i, v := decA48 (k.accAt m.half p.1 p.2).toNat, idx := i })
      let s1 := s.setCore c { k with matQ := rest }
      match s1.storeItems c e (.own c) d 0 m.aId m.bId m.index items with
      | .error code => .next (s1.raiseExc c e code m.op.out.toNat m.index 0)
      | .ok s2 => .next s2
  | _, _ => notNow "no matrix instruction is unfinished on this core"

/-- The oldest matrix instruction, which does not convert, completes and frees its queue place and interlocks (R74). -/
def execMatrixInstructionComplete (c : Nat) (s : State) : Out :=
  let k := s.core c
  match k.matQ with
  | m :: rest => if m.converts then notNow "the oldest matrix instruction converts" else .next (s.setCore c { k with matQ := rest })
  | [] => notNow "no matrix instruction is unfinished on this core"

end Sys2Proof.Machine
end

