-- ==== Sys2Proof/Machine/Vector.lean ====
section
/-!
DEFINITION. The vector class (06_core_instruction_set R132, R133; 05_vector_engine R92 to R112).
-/

namespace Sys2Proof.Machine

def lanes : List Nat := List.range 128

/-- A lane instruction: `f` gives each lane's new FP32 word and the kinds it sets; a masked-off lane keeps its destination and raises nothing (R92). -/
def laneWrite (c : Nat) (e : EntryRun) (vd : BitVec 5) (mask : BitVec 2) (f : Core → Nat → W32 × List Nat) (s : State) : State :=
  let k := s.core c
  let m := k.mask mask
  let rs := (lanes.filter (fun l => m.getLsbD l)).map (fun l => (l, f k l))
  let k1 := rs.foldl (fun q r => q.setLane vd r.1 r.2.1) k
  let evs := rs.flatMap (fun r => r.2.2.map (fun kd => ({ kind := kd, row := 0, col := r.1, kgroup := noGroup, pass := 0 } : Ev)))
  let cause : Cause := { unit := 1, out := 0, a := 0, b := 0, clause := e.clause, index := e.issued, core := c }
  (s.setCore c k1).noteEvents c e cause evs

def outWord (r : LaneOut) : W32 × List Nat := (encFP32 r.1, r.2)

/-- A lane operation on decoded FP32 operands. -/
def laneOp (i : Instr) (c : Nat) (x : VecOp) (f : Bool → Val → Val → Val → LaneOut) (s : State) : Out :=
  issue c i (fun _ e st => .done (laneWrite c e x.vd x.mask (fun k l =>
    outWord (f st.num.emu (decFP32 (k.lane x.va l)) (decFP32 (k.lane x.vb l)) (decFP32 (k.lane x.vc l)))) st)) s

def execVadd (c : Nat) (x : VecOp) (s : State) : Out := laneOp (.vadd c x) c x (fun em a b _ => lAdd em a b) s
def execVsub (c : Nat) (x : VecOp) (s : State) : Out := laneOp (.vsub c x) c x (fun em a b _ => lSub em a b) s
def execVmul (c : Nat) (x : VecOp) (s : State) : Out := laneOp (.vmul c x) c x (fun em a b _ => lMul em a b) s
def execVfma (c : Nat) (x : VecOp) (s : State) : Out := laneOp (.vfma c x) c x (fun em a b d => lFma em a b d) s

/-- Lane results of QM12 emulation flush subnormals (R169). -/
def flushLane (emu : Bool) (v : Val) : LaneOut := if emu then (let r := fFP32.flushSub v; (r.1, kindIf r.2 kUnderflow)) else (v, [])

def execVmin (c : Nat) (x : VecOp) (s : State) : Out := laneOp (.vmin c x) c x (fun em a b _ => flushLane em (vMin a b)) s
def execVmax (c : Nat) (x : VecOp) (s : State) : Out := laneOp (.vmax c x) c x (fun em a b _ => flushLane em (vMax a b)) s
def execVabs (c : Nat) (x : VecOp) (s : State) : Out := laneOp (.vabs c x) c x (fun em a _ _ => flushLane em (vAbs a)) s
def execVneg (c : Nat) (x : VecOp) (s : State) : Out := laneOp (.vneg c x) c x (fun em a _ _ => flushLane em (vNeg a)) s
def execVrcp (c : Nat) (x : VecOp) (s : State) : Out := laneOp (.vrcp c x) c x (fun em a _ _ => lRcp em a) s
def execVrsq (c : Nat) (x : VecOp) (s : State) : Out := laneOp (.vrsq c x) c x (fun em a _ _ => lRsq em a) s
def execVexp2 (c : Nat) (x : VecOp) (s : State) : Out := laneOp (.vexp2 c x) c x (fun em a _ _ => lExp2 em a) s
def execVlog2 (c : Nat) (x : VecOp) (s : State) : Out := laneOp (.vlog2 c x) c x (fun em a _ _ => lLog2 em a) s
def execVexp (c : Nat) (x : VecOp) (s : State) : Out := laneOp (.vexp c x) c x (fun em a _ _ => lExp em a) s
def execVlog (c : Nat) (x : VecOp) (s : State) : Out := laneOp (.vlog c x) c x (fun em a _ _ => lLog em a) s
def execVsexp (c : Nat) (x : VecOp) (s : State) : Out := laneOp (.vsexp c x) c x (fun em a b _ => lSexp em a b) s

/-- A compare into mask m(vd bits 1:0); a masked-off lane's bit is unchanged (R92, R93). -/
def cmpMask (k : Core) (x : VecOp) (f : Val → Val → Bool) : Core :=
  let d := x.vd.setWidth 2
  let m := k.mask x.mask
  let old := k.mask d
  let bitsOf := lanes.map (fun l => if m.getLsbD l then f (decFP32 (k.lane x.va l)) (decFP32 (k.lane x.vb l)) else old.getLsbD l)
  k.setMask d (BitVec.ofNat 128 (bitsOf.foldr (fun b n => bitNat b + 2 * n) 0))

def execVcmpeq (c : Nat) (x : VecOp) (s : State) : Out := issueReg c (.vcmpeq c x) (fun k => cmpMask k x vEq) s
def execVcmplt (c : Nat) (x : VecOp) (s : State) : Out := issueReg c (.vcmplt c x) (fun k => cmpMask k x vLt) s
def execVcmple (c : Nat) (x : VecOp) (s : State) : Out := issueReg c (.vcmple c x) (fun k => cmpMask k x (fun a b => vLt a b || vEq a b)) s

/-- VSEL: where mask bit m(vc bits 1:0) is 1, va, otherwise vb; the bits are copied. -/
def execVsel (c : Nat) (x : VecOp) (s : State) : Out :=
  issue c (.vsel c x) (fun _ e st => .done (laneWrite c e x.vd x.mask (fun k l =>
    ((if (k.mask (x.vc.setWidth 2)).getLsbD l then k.lane x.va l else k.lane x.vb l), [])) st)) s

/-- VBCAST: bits 31:0 of a scalar register in every lane. -/
def execVbcast (c : Nat) (x : VecOp) (s : State) : Out :=
  issue c (.vbcast c x) (fun _ e st => .done (laneWrite c e x.vd x.mask (fun k _ => ((k.s x.sr).setWidth 32, [])) st)) s

/-- VEXTR: the FP32 bits of one lane, zero-extended, into a scalar register. -/
def execVextr (c : Nat) (x : VecOp) (s : State) : Out :=
  issueReg c (.vextr c x) (fun k => k.setS x.sr ((k.lane x.va x.lane.toNat).setWidth 64)) s

/-- VU2F: bits 31:8 read as an unsigned integer times 2^-24. -/
def execVu2f (c : Nat) (x : VecOp) (s : State) : Out :=
  issue c (.vu2f c x) (fun _ e st => .done (laneWrite c e x.vd x.mask (fun k l =>
    (encFP32 (.fin false ((k.lane x.va l).toNat / 256) (-24)), [])) st)) s

/-- VRAND: lane_random for the descriptor's tensor, index register + lane, draw register bits 31:0; stream bit 7 is forced in an evaluation slot; QM12
emulation takes the stream as 0x00 or 0x80 (R104, R106, R133, R169). -/
def execVrand (c : Nat) (x : RandOp) (s : State) : Out :=
  issue c (.vrand c x) (fun k0 e st =>
    let d := Desc.parse (k0.desc x.desc.toNat)
    let base := if st.num.emu then 0 else x.stream.toNat
    let stream := base + (if e.isEval then 0x80 else 0)
    .done (laneWrite c e x.vd 0 (fun k l =>
      (laneRandom st.num.emu e.seed (BitVec.ofNat 64 e.step) d.tid stream (k.s x.index + BitVec.ofNat 64 l) ((k.s x.draw).setWidth 32), [])) st)) s

/-- Whether an unfinished matrix instruction still has to write or read a tensor that a vector instruction names (R74, R112). -/
def vecHeld (k : Core) (t : Nat) (writes : Bool) : Bool :=
  k.matQ.any (fun m => m.writes t || (writes && m.reads t)) || k.loadQ.any (fun l => l.dst == t)

/-- The lanes of a vector load or store that are on and lie within the tensor (log entry 19). -/
def activeLanes (k : Core) (mask : BitVec 2) (off count : Nat) : List Nat :=
  lanes.filter (fun l => (k.mask mask).getLsbD l && decide (off + l < count))

/-- VLD: elements off to off + 127, decoded into FP32 (R96). -/
def execVld (c : Nat) (x : VMemOp) (s : State) : Out :=
  issue c (.vld c x) (fun k e st =>
    let t := x.desc.toNat
    let d := Desc.parse (k.desc t)
    let off := (k.a x.off).toNat
    let ls := activeLanes k x.mask off d.count
    let is := ls.map (off + ·)
    if vecHeld k t false then .stall
    else if d.count ≤ off ∨ st.inside (.own c) d is = false then .raise xRange t
    else
      match st.checkElems (.own c) d is with
      | .error none => .stall
      | .error (some y) => .raise y 0
      | .ok _ =>
        let rs := ls.map (fun l => (l, laneIn (st.elemValue (.own c) d (off + l))))
        let k1 := rs.foldl (fun q r => q.setLane x.vd r.1 (encFP32 r.2.1)) k
        let evs := rs.flatMap (fun r => r.2.2.map (fun kd =>
          ({ kind := kd, row := (d.rowCol (off + r.1)).1, col := (d.rowCol (off + r.1)).2, kgroup := noGroup, pass := 0 } : Ev)))
        let cause : Cause := { unit := 1, out := d.tid, a := 0, b := 0, clause := e.clause, index := e.issued, core := c }
        .done ((st.setCore c k1).noteEvents c e cause evs)) s

/-- VST: stores the lanes that are on, converted under the descriptor (R96, R133). -/
def execVst (c : Nat) (x : VMemOp) (s : State) : Out :=
  issue c (.vst c x) (fun k e st =>
    let t := x.desc.toNat
    let d := Desc.parse (k.desc t)
    let off := (k.a x.off).toNat
    let ls := activeLanes k x.mask off d.count
    let is := ls.map (off + ·)
    if vecHeld k t true then .stall
    else if d.count ≤ off ∨ st.inside (.own c) d is = false then .raise xRange t
    else
      let items : List Item := ls.map (fun l => { i := off + l, v := decFP32 (k.lane x.vd l), idx := off + l })
      match st.storeItems c e (.own c) d 1 0 0 e.issued items with
      | .error y => .raise y 0
      | .ok s1 => .done s1) s

/-! The accumulator tap (R97 to R99). -/

/-- A tap waits until every issued matrix instruction that writes the half has completed (R74, R99). -/
def tapHeld (k : Core) (half : Bool) : Bool := k.matQ.any (fun m => m.half == half)

/-- The row of a tap, or SHAPE for an odd row or one above 254 (R133). -/
def tapRow (k : Core) (x : TapOp) : Option Nat :=
  let r := (k.s x.row).toNat
  if r % 2 = 0 ∧ r ≤ 254 then some r else none

def tapEvents (c : Nat) (e : EntryRun) (r : Nat) (rs : List (Nat × LaneOut)) (s : State) : State :=
  let evs := rs.flatMap (fun q => q.2.2.map (fun kd =>
    ({ kind := kd, row := r + q.1 / 64, col := q.1 % 64, kgroup := noGroup, pass := 0 } : Ev)))
  s.noteEvents c e { unit := 1, out := 0, a := 0, b := 0, clause := e.clause, index := e.issued, core := c } evs

/-- A tap read or tap add into lanes 0 to 63 (row r) and 64 to 127 (row r + 1). -/
def tapInto (i : Instr) (c : Nat) (x : TapOp) (f : Bool → Val → Val → LaneOut) (s : State) : Out :=
  issue c i (fun k e st =>
    if tapHeld k x.half then .stall
    else
      match tapRow k x with
      | none => .raise xShape 0
      | some r =>
        let m := k.mask x.mask
        let rs := (lanes.filter (fun l => m.getLsbD l)).map (fun l =>
          (l, f st.num.emu (decA48 (k.accAt x.half (r + l / 64) (l % 64)).toNat) (decFP32 (k.lane x.vs l))))
        let k1 := rs.foldl (fun q y => q.setLane x.vd y.1 (encFP32 y.2.1)) k
        .done (tapEvents c e r rs (st.setCore c k1))) s

/-- TAPR: each value rounded once to FP32; a NaN sets no NAN_IN (R97). -/
def execTapr (c : Nat) (x : TapOp) (s : State) : Out := tapInto (.tapr c x) c x (fun em a _ => toFP32 em a) s

/-- TAPA: acc + x exactly, rounded once to FP32 (R98). -/
def execTapa (c : Nat) (x : TapOp) (s : State) : Out := tapInto (.tapa c x) c x (fun em a v => lAdd em a v) s

/-- TAPW: FP32 lane values into two rows, exactly; the rows become open (R98, R99). A masked-off lane keeps its value. -/
def execTapw (c : Nat) (x : TapOp) (s : State) : Out :=
  issue c (.tapw c x) (fun k _ st =>
    if tapHeld k x.half then .stall
    else
      match tapRow k x with
      | none => .raise xShape 0
      | some r =>
        let m := k.mask x.mask
        let acc := (lanes.filter (fun l => m.getLsbD l)).foldl (fun a l =>
          SMap.insert a (accKey x.half (r + l / 64) (l % 64)) (encA48 (decFP32 (k.lane x.vs l)))) k.acc
        let open_ := ~~~(BitVec.ofNat 256 (3 * 2 ^ r))
        .done (st.setCore c { k with acc := acc, closed := SMap.insert k.closed (bitNat x.half) (k.closedRows x.half &&& open_) })) s

/-! Reductions and fused kernels. -/

/-- The values of L elements of a reduction operand, brought into FP32 (R96, R101). -/
def redValues (s : State) (c : Nat) (d : Desc) (off len : Nat) : List (Val × List Nat) :=
  (elems off len).map (fun i => laneIn (s.elemValue (.own c) d i))

def redCheck (s : State) (c t : Nat) (d : Desc) (off len : Nat) : Except (Option (Nat × Nat)) Unit :=
  if d.count < off + len ∨ s.inside (.own c) d (elems off len) = false then .error (some (xRange, t))
  else
    match s.checkElems (.own c) d (elems off len) with
    | .error none => .error none
    | .error (some y) => .error (some (y, 0))
    | .ok _ => .ok ()

/-- VRED: the fixed-order reduction; the result in every lane (R101, R102). In QM12 emulation FP32 mode only (R169). -/
def execVred (c : Nat) (x : RedOp) (s : State) : Out :=
  issue c (.vred c x) (fun k e st =>
    let len := (k.s x.len).toNat
    let off := (k.a x.off).toNat
    let kind := RedKind.ofCode x.kind.toNat
    let dx := Desc.parse (k.desc x.x.toNat)
    let dy := Desc.parse (k.desc x.y.toNat)
    let two := decide (kind = .productSum)
    if vecHeld k x.x.toNat false || (two && vecHeld k x.y.toNat false) then .stall
    else if len = 0 ∨ 65536 < len then .raise xShape 0
    else
      match (do redCheck st c x.x.toNat dx off len; if two then redCheck st c x.y.toNat dy off len else .ok ()) with
      | .error none => .stall
      | .error (some y) => .raise y.1 y.2
      | .ok _ =>
        let xs := redValues st c dx off len
        let ys := if two then redValues st c dy off len else xs
        let r := reduce st.num.emu (x.a48 && !st.num.emu) kind ((xs.zip ys).map (fun p => (p.1.1, p.2.1)))
        let evOf := fun (d : Desc) (vs : List (Val × List Nat)) => vs.zipIdx.flatMap (fun p => p.1.2.map (fun kd =>
          (d.tid, ({ kind := kd, row := (d.rowCol (off + p.2)).1, col := (d.rowCol (off + p.2)).2, kgroup := noGroup, pass := 0 } : Ev))))
        let cause := fun (out : Nat) => ({ unit := 1, out := out, a := 0, b := 0, clause := e.clause, index := e.issued, core := c } : Cause)
        let k1 := lanes.foldl (fun q l => q.setLane x.vd l (encFP32 r.1)) k
        let s1 := st.setCore c k1
        let s2 := (evOf dx xs ++ (if two then evOf dy ys else [])).foldl (fun q p => q.noteEvents c e (cause p.1) [p.2]) s1
        .done (s2.noteEvents c e (cause 0) (r.2.map (fun kd => { kind := kd, row := 0, col := 0, kgroup := noGroup, pass := 0 })))) s

end Sys2Proof.Machine
end

