-- ==== Sys2Proof/Machine/Kernels.lean ====
section
/-!
DEFINITION. Fused kernels (05_vector_engine R110, R111; 06_core_instruction_set R133). The cores that share rows run one kernel together: a VKERN
waits until every core of its span stands at a VKERN of the same code and span, and then all of them execute it (log entry 21).
-/

namespace Sys2Proof.Machine

/-- One core's part of a row: the tap, x, γ, β, and the column accumulators dγ and dβ, lane values with the kinds that bringing them in set. -/
structure KernIn where
  tap   : List LaneOut
  x     : List LaneOut
  gamma : List LaneOut
  beta  : List LaneOut
  dg    : List LaneOut
  db    : List LaneOut
  deriving DecidableEq, Repr

/-- The parameters of a kernel, each rounded once to FP32 (R110): α or ε, and 1/W. -/
structure KernPar where
  emu : Bool
  p   : Val
  iw  : Val
  deriving DecidableEq, Repr

/-- What one core's part of a row gives. -/
structure KernOut where
  y  : List LaneOut
  dg : List LaneOut
  db : List LaneOut
  deriving DecidableEq, Repr

/-- Apply a lane operation to a value that carries the kinds set so far. -/
def step1 (f : Val → LaneOut) (a : LaneOut) : LaneOut := ((f a.1).1, a.2 ++ (f a.1).2)
def map1 (f : Val → LaneOut) (as : List LaneOut) : List LaneOut := as.map (step1 f)
/-- The same with a second operand whose kinds are charged elsewhere. -/
def map2 (f : Val → Val → LaneOut) (as bs : List LaneOut) : List LaneOut := (as.zip bs).map (fun p => step1 (fun v => f v p.2.1) p.1)
def map3 (f : Val → Val → Val → LaneOut) (as bs cs : List LaneOut) : List LaneOut :=
  (as.zip (bs.zip cs)).map (fun p => step1 (fun v => f v p.2.1.1 p.2.2.1) p.1)
def mute (as : List LaneOut) : List LaneOut := as.map (fun a => (a.1, []))

/-- A reduction over a row split across cores: each core's part, then the tree over the cores in ascending order (R103). -/
def rowReduce (emu : Bool) (k : RedKind) (parts : List (List (Val × Val))) : LaneOut :=
  match treeOf (redStep emu false k) (parts.map (fun p => if p.isEmpty then none else some (reduce emu false k p))) with
  | some r => r
  | none => (.fin false 0 0, [])

def pairUp (as bs : List LaneOut) : List (Val × Val) := (as.zip bs).map (fun p => (p.1.1, p.2.1))
def same (as : List LaneOut) : List (Val × Val) := pairUp as as

/-- One row of a kernel: the cores' outputs, μ and r of the row with the kinds of the per-row scalars (*Fused kernels*, in the order listed). -/
def kernRow (code : Nat) (q : KernPar) (mu r : Val) (ins : List KernIn) : List KernOut × Val × Val × List Nat :=
  let em := q.emu
  let keep := fun (i : KernIn) (y : List LaneOut) => ({ y := y, dg := i.dg, db := i.db } : KernOut)
  match code with
  | 0x01 =>
    let m := rowReduce em .max (ins.map (fun i => same i.tap))
    let p := ins.map (fun i => map1 (fun v => lSexp em v q.p) (map1 (fun v => lSub em v m.1) i.tap))
    let s := rowReduce em .sum (p.map same)
    let rc := lRcp em s.1
    ((ins.zip p).map (fun x => keep x.1 (map1 (fun v => lMul em v rc.1) x.2)), mu, r, m.2 ++ s.2 ++ rc.2)
  | 0x02 =>
    let c := rowReduce em .productSum (ins.map (fun i => pairUp i.tap i.x))
    (ins.map (fun i =>
      let h := map1 (fun v => lSub em v c.1) i.tap
      let z := map2 (lMul em) h i.x
      keep i (map1 (fun v => lMul em v q.p) z)), mu, r, c.2)
  | 0x03 =>
    let v := rowReduce em .productSum (ins.map (fun i => same i.x))
    let w := lFma em v.1 q.iw q.p
    let rr := lRsq em w.1
    (ins.map (fun i => keep i (map2 (lMul em) (map1 (fun x => lMul em x rr.1) i.x) i.gamma)), mu, rr.1, v.2 ++ w.2 ++ rr.2)
  | 0x04 =>
    let g := ins.map (fun i => map2 (lMul em) i.tap i.gamma)
    let c := rowReduce em .productSum ((g.zip ins).map (fun p => pairUp p.1 p.2.x))
    let b1 := lMul em c.1 r
    let b2 := lMul em b1.1 r
    let b := lMul em b2.1 q.iw
    ((ins.zip g).map (fun p =>
      let h := (p.1.x.zip p.2).map (fun y => ((lFma em (vNeg y.1.1) b.1 y.2.1).1, y.2.2 ++ (lFma em (vNeg y.1.1) b.1 y.2.1).2))
      let n := map1 (fun v => lMul em v r) p.1.x
      { y := map1 (fun v => lMul em v r) h, dg := map3 (fun v t a => lFma em t v a) n p.1.tap p.1.dg, db := p.1.db }),
     mu, r, c.2 ++ b1.2 ++ b2.2 ++ b.2)
  | 0x05 =>
    let s := rowReduce em .sum (ins.map (fun i => same i.x))
    let m := lMul em s.1 q.iw
    let d := ins.map (fun i => map1 (fun v => lSub em v m.1) i.x)
    let v := rowReduce em .productSum (d.map same)
    let w := lFma em v.1 q.iw q.p
    let rr := lRsq em w.1
    ((ins.zip d).map (fun p => keep p.1 (map3 (lFma em) (map1 (fun x => lMul em x rr.1) p.2) p.1.gamma p.1.beta)),
     m.1, rr.1, s.2 ++ m.2 ++ v.2 ++ w.2 ++ rr.2)
  | _ =>
    let n := ins.map (fun i => map1 (fun v => lMul em v r) (map1 (fun v => lSub em v mu) i.x))
    let g := ins.map (fun i => map2 (lMul em) i.tap i.gamma)
    let a := rowReduce em .sum (g.map same)
    let c := rowReduce em .productSum ((g.zip n).map (fun p => pairUp p.1 p.2))
    let cw := lMul em c.1 q.iw
    let aw := lMul em a.1 q.iw
    ((ins.zip (n.zip g)).map (fun p =>
      let h := (p.2.1.zip p.2.2).map (fun y => ((lFma em (vNeg y.1.1) cw.1 y.2.1).1, y.2.2 ++ (lFma em (vNeg y.1.1) cw.1 y.2.1).2))
      let h' := map1 (fun v => lSub em v aw.1) h
      { y := map1 (fun v => lMul em v r) h', dg := map3 (fun v t acc => lFma em t v acc) p.2.1 p.1.tap p.1.dg,
        db := map2 (lAdd em) p.1.db (mute p.1.tap) }),
     mu, r, a.2 ++ c.2 ++ cw.2 ++ aw.2)

/-- Which operands a kernel code uses. -/
def kernTap (code : Nat) : Bool := code == 1 || code == 2 || code == 4 || code == 6
def kernX (code : Nat) : Bool := code != 1
/-- The aux rows that a kernel reads and writes (R133): columns of rows 0 to 3, data rows of rows 4 and 5. -/
def kernReads (code : Nat) : List Nat :=
  if code = 3 then [0] else if code = 4 then [0, 2, 5] else if code = 5 then [0, 1] else if code = 6 then [0, 2, 3, 4, 5] else []
def kernWrites (code : Nat) : List Nat :=
  if code = 3 then [5] else if code = 4 then [2] else if code = 5 then [4, 5] else if code = 6 then [2, 3] else []

def KernOp.spanCores (x : KernOp) : Nat := 2 ^ x.span.toNat

/-- The cores that share a row with core c: the aligned group of its cluster. -/
def kernGroup (c : Nat) (x : KernOp) : List Nat := (List.range (KernOp.spanCores x)).map (fun j => c / KernOp.spanCores x * KernOp.spanCores x + j)

/-- One core's operands of a kernel. -/
structure KernSide where
  c    : Nat
  op   : KernOp
  xd   : Desc
  od   : Desc
  ad   : Desc
  rows : Nat
  deriving DecidableEq, Repr

def kernSide (s : State) (c : Nat) (x : KernOp) : KernSide :=
  let k := s.core c
  { c := c, op := x, xd := Desc.parse (k.desc x.x.toNat), od := Desc.parse (k.desc x.out.toNat), ad := Desc.parse (k.desc x.aux.toNat),
    rows := (k.s x.rows).toNat }

def KernSide.code (q : KernSide) : Nat := q.op.code.toNat
def KernSide.cols (q : KernSide) : Nat := q.od.e0

def KernSide.auxIdx (q : KernSide) (row : Nat) : List Nat := elems (row * q.ad.e0) (if row < 4 then q.cols else q.rows)
def KernSide.xIdx (q : KernSide) : List Nat :=
  if kernX q.code then (List.range q.rows).flatMap (fun i => elems (i * q.xd.e0) q.cols) else []
def KernSide.outIdx (q : KernSide) : List Nat := elems 0 (q.rows * q.cols)

/-- What stands in a kernel's way on one core: an interlock (`none`), or an exception with its detail. -/
def kernCheck (s : State) (q : KernSide) : Except (Option (Nat × Nat)) Unit :=
  let k := s.core q.c
  let aux := kernReads q.code ++ kernWrites q.code
  let fits := fun (d : Desc) (is : List Nat) => is.all (fun i => decide (i < d.count)) && s.inside (.own q.c) d is
  let rd := fun (d : Desc) (is : List Nat) => match s.checkElems (.own q.c) d is with
    | .error none => Except.error none
    | .error (some y) => Except.error (some (y, 0))
    | .ok _ => (Except.ok () : Except (Option (Nat × Nat)) Unit)
  if (kernTap q.code && tapHeld k q.op.half) || vecHeld k q.op.out.toNat true || (kernX q.code && vecHeld k q.op.x.toNat false)
      || (!aux.isEmpty && vecHeld k q.op.aux.toNat true) then .error none
  else if q.rows = 0 ∨ 256 < q.rows then .error (some (xShape, 0))
  else if !fits q.od q.outIdx then .error (some (xRange, q.op.out.toNat))
  else if !fits q.xd q.xIdx || (kernX q.code && decide (q.xd.e0 < q.cols)) then .error (some (xRange, q.op.x.toNat))
  else if aux.any (fun r => decide (q.ad.e0 < (q.auxIdx r).length) || !fits q.ad (q.auxIdx r)) then .error (some (xRange, q.op.aux.toNat))
  else do
    rd q.xd q.xIdx
    (kernReads q.code).foldlM (fun _ r => rd q.ad (q.auxIdx r)) ()

/-- One row of one core's operands; decoding events are charged by `kernLoads`. A tap column beyond the half's 64 is a free value (log entry 20). -/
def kernRowIn (s : State) (q : KernSide) (i : Nat) (dg db : List LaneOut) : KernIn :=
  let k := s.core q.c
  let em := s.num.emu
  let aux := fun (row : Nat) => if (kernReads q.code).contains row then (elems (row * q.ad.e0) q.cols).map (fun j => ((laneIn (s.elemValue (.own q.c) q.ad j)).1, [])) else []
  { tap := if kernTap q.code then (List.range q.cols).map (fun j =>
      if j < 64 then toFP32 em (decA48 (k.accAt q.op.half i j).toNat) else (decFP32 (Config.freeLane s.fresh (q.c * 65536 + i * 256 + j)), [])) else [],
    x := if kernX q.code then (elems (i * q.xd.e0) q.cols).map (fun j => ((laneIn (s.elemValue (.own q.c) q.xd j)).1, [])) else [],
    gamma := aux 0, beta := aux 1, dg := dg, db := db }

def auxScalar (s : State) (q : KernSide) (row i : Nat) : Val :=
  if (kernReads q.code).contains row then (laneIn (s.elemValue (.own q.c) q.ad (row * q.ad.e0 + i))).1 else .fin false 0 0

def kernPar (s : State) (c : Nat) (x : KernOp) (w : Nat) : KernPar :=
  let em := s.num.emu
  { emu := em, p := (toFP32 em (fBin64.decode ((s.core c).s x.param).toNat)).1, iw := (toFP32 em (vDiv (.fin false 1 0) (.fin false w 0)).1).1 }

/-- The kinds that bringing a core's operands into lanes sets (R96): x at its row and column, γ, β, dγ and dβ once at row 0, μ and r at their row. -/
def kernLoads (s : State) (q : KernSide) : List Ev :=
  let ev := fun (row col : Nat) (d : Desc) (i : Nat) => (laneIn (s.elemValue (.own q.c) d i)).2.map (fun kd =>
    ({ kind := kd, row := row, col := col, kgroup := noGroup, pass := 0 } : Ev))
  (if kernX q.code then (List.range q.rows).flatMap (fun i => (List.range q.cols).flatMap (fun j => ev i j q.xd (i * q.xd.e0 + j))) else [])
    ++ (kernReads q.code).flatMap (fun a => if a < 4 then (List.range q.cols).flatMap (fun j => ev 0 j q.ad (a * q.ad.e0 + j))
      else (List.range q.rows).flatMap (fun i => ev i 0 q.ad (a * q.ad.e0 + i)))

/-- What the rows processed so far gave: per core the output lanes and the accumulators, and μ, r and the scalars' kinds of each row. -/
structure KernAcc where
  outs  : List (List (List LaneOut))   -- rows, newest first; per core; per column
  sums  : List (List (List LaneOut))   -- the same of dγ and dβ as each row left them, for their kinds
  dg    : List (List LaneOut)
  db    : List (List LaneOut)
  scal  : List (Val × Val × List Nat)
  deriving DecidableEq, Repr

def kernAll (s : State) (qs : List KernSide) (code rows : Nat) (par : KernPar) : KernAcc :=
  let auxCols := fun (q : KernSide) (row : Nat) =>
    if (kernReads code).contains row then (elems (row * q.ad.e0) q.cols).map (fun j => ((laneIn (s.elemValue (.own q.c) q.ad j)).1, [])) else []
  let start : KernAcc := { outs := [], sums := [], dg := qs.map (fun q => auxCols q 2), db := qs.map (fun q => auxCols q 3), scal := [] }
  (List.range rows).foldl (fun (a : KernAcc) (i : Nat) =>
    let ins := (qs.zip (a.dg.zip a.db)).map (fun p => kernRowIn s p.1 i (mute p.2.1) (mute p.2.2))
    let mu := (qs.head?.map (fun q => auxScalar s q 4 i)).getD (.fin false 0 0)
    let r := (qs.head?.map (fun q => auxScalar s q 5 i)).getD (.fin false 0 0)
    let o := kernRow code par mu r ins
    { outs := o.1.map (·.y) :: a.outs, sums := o.1.map (fun k => k.dg ++ k.db) :: a.sums, dg := o.1.map (·.dg), db := o.1.map (·.db), scal := (o.2.1, o.2.2.1, o.2.2.2) :: a.scal }) start

def laneEvents (row : Nat) (ls : List LaneOut) : List Ev :=
  ls.zipIdx.flatMap (fun p => p.1.2.map (fun kd => ({ kind := kd, row := row, col := p.2, kgroup := noGroup, pass := 0 } : Ev)))

/-- The kinds of one row's steps into dγ and dβ, at the row and the column. -/
def kernSumEvents (q : KernSide) (row : Nat) (ls : List LaneOut) : List Ev :=
  ls.zipIdx.flatMap (fun p => p.1.2.map (fun kd => ({ kind := kd, row := row, col := p.2 % q.cols, kgroup := noGroup, pass := 0 } : Ev)))

/-- Write one core's results: the output tensor under its descriptor, then the aux rows the kernel writes. -/
def kernStore (s : State) (q : KernSide) (e : EntryRun) (j : Nat) (a : KernAcc) : Except Nat State :=
  let rowsOut := a.outs.reverse.map (fun r => r.getD j [])
  let scal := a.scal.reverse
  let items : List Item := rowsOut.zipIdx.flatMap (fun p => p.1.zipIdx.map (fun y =>
    ({ i := p.2 * q.cols + y.2, v := y.1.1, idx := p.2 * q.cols + y.2 } : Item)))
  let auxItems := fun (row : Nat) (vs : List Val) => vs.zipIdx.map (fun y => ({ i := row * q.ad.e0 + y.2, v := y.1, idx := row * q.ad.e0 + y.2 } : Item))
  let sums := a.sums.reverse.map (fun r => r.getD j [])
  let evs := kernLoads s q ++ rowsOut.zipIdx.flatMap (fun p => laneEvents p.2 p.1) ++ sums.zipIdx.flatMap (fun p => kernSumEvents q p.2 p.1)
    ++ scal.zipIdx.flatMap (fun p => p.1.2.2.map (fun kd => ({ kind := kd, row := p.2, col := 0, kgroup := noGroup, pass := 0 } : Ev)))
  let cause : Cause := { unit := 1, out := q.od.tid, a := 0, b := 0, clause := e.clause, index := e.issued, core := q.c }
  let s0 := s.noteEvents q.c e cause evs
  let auxVals := fun (row : Nat) =>
    if row = 2 then (a.dg.getD j []).map (·.1) else if row = 3 then (a.db.getD j []).map (·.1)
    else if row = 4 then scal.map (·.1) else scal.map (·.2.1)
  do
    let s1 ← s0.storeItems q.c e (.own q.c) q.od 1 0 0 e.issued items
    (kernWrites q.code).foldlM (fun st row => st.storeItems q.c e (.own q.c) q.ad 1 0 0 e.issued (auxItems row (auxVals row))) s1

/-- Whether a core stands at a VKERN of the same code and span and could issue it. -/
def atKernel (s : State) (x : KernOp) (c : Nat) : Option KernSide :=
  let k := s.core c
  match k.entry with
  | none => none
  | some e =>
    if e.stopped || k.wait.isSome || (decide (e.limit ≠ 0) && decide (e.limit ≤ e.issued)) then none
    else
      match (k.word e.pc).bind (decodeWord c) with
      | some (.vkern _ y) => if y.code = x.code ∧ y.span = x.span then some (kernSide s c y) else none
      | _ => none

def kernBody (c : Nat) (x : KernOp) (s : State) : Issued :=
  let own := kernSide s c x
  match kernCheck s own with
  | .error none => .stall
  | .error (some y) => .raise y.1 y.2
  | .ok _ =>
    let sides := (kernGroup c x).map (atKernel s x)
    if sides.any (·.isNone) then .stall
    else
      let qs := sides.filterMap id
      let bad := qs.any (fun q => (match kernCheck s q with
        | .ok _ => false
        | .error _ => true) || q.rows != own.rows)
      if bad then .stall
      else
        let a := kernAll s qs own.code own.rows (kernPar s c x (own.cols * KernOp.spanCores x))
        let fin := qs.zipIdx.foldlM (fun (st : State) (p : KernSide × Nat) =>
          match (st.core p.1.c).entry with
          | some e => do
            let st' ← kernStore st p.1 e p.2 a
            .ok (if p.1.c = c then st' else st'.setCore p.1.c ((st'.core p.1.c).retire none))
          | none => .ok st) (s.nextFree)
        match fin with
        | .error y => .raise y x.out.toNat
        | .ok s' => .done s'

/-- VKERN: one fused kernel over B rows. -/
def execVkern (c : Nat) (x : KernOp) (s : State) : Out := issue c (.vkern c x) (fun _ _ st => kernBody c x st) s

end Sys2Proof.Machine
end

