-- ==== Sys2Proof/Machine/Verify.lean ====
section
/-!
DEFINITION. Program images (06_core_instruction_set R141, R142) and the analysis of PROGRAM_VERIFY (R143, R474).
-/

namespace Sys2Proof.Machine

/-! Reading an image. The first fault of a structure is its status and byte offset. -/

abbrev Fault_ := Nat × Nat

def badFieldAt (off : Nat) : Fault_ := (0x0103, off)
def badLengthAt (off : Nat) : Fault_ := (0x0102, off)

/-- The fault at the lowest offset. -/
def firstFault (l : List Fault_) : Option Fault_ :=
  l.foldl (fun (m : Option Fault_) x => match m with
    | none => some x
    | some y => if x.2 < y.2 then some x else some y) none

def faultIf (b : Bool) (f : Fault_) : List Fault_ := if b then [f] else []

/-- The four sections of an image as (header offset of its place, header offset of its count, place, length). -/
def imageSections (h : Bytes) : List (Nat × Nat × Nat × Nat) :=
  [ (0x18, 4, field h 0x18 4, 8 * field h 4 2), (0x1C, 6, field h 0x1C 4, 64 * field h 6 2), (0x20, 8, field h 0x20 4, 8 * field h 8 2),
    (0x24, 0xC, field h 0x24 4, field h 0xC 4) ]

/-- How many bytes of its region an image takes. -/
def imageEnd (h : Bytes) : Nat := (imageSections h).foldl (fun m x => max m (x.2.2.1 + x.2.2.2)) 0x30

/-- Two stretches of bytes have a byte in common. -/
def spansMeet (a b : Nat × Nat) : Bool := decide (a.1 < b.1 + b.2 ∧ b.1 < a.1 + a.2)

/-- The faults of *Program image header*: its ranges, the places of the sections, and counts that run beyond the region (R141, R368). -/
def headerFaults (b : Bytes) : List Fault_ :=
  let ovl := field b 0xC 4
  let secs := imageSections b
  let used := (secs.filter (fun x => decide (0 < x.2.2.2)))
  faultIf (decide (b.length < 0x30)) (badLengthAt 0)
    ++ faultIf (field b 0 4 != 1) (badFieldAt 0) ++ faultIf (!decide (1 ≤ field b 4 2 ∧ field b 4 2 ≤ 1024)) (badFieldAt 4)
    ++ faultIf (decide (64 < field b 6 2)) (badFieldAt 6) ++ faultIf (!decide (1 ≤ field b 8 2 ∧ field b 8 2 ≤ 8192)) (badFieldAt 8)
    ++ faultIf (!allZero b 0xA 2) (badFieldAt 0xA) ++ faultIf (decide (2097152 < ovl) || ovl % 8 != 0) (badFieldAt 0xC)
    ++ secs.flatMap (fun x => faultIf (x.2.2.1 % 64 != 0) (badFieldAt x.1))
    ++ faultIf (ovl == 0 && field b 0x24 4 != 0) (badFieldAt 0x24) ++ faultIf (!allZero b 0x28 8) (badFieldAt 0x28)
    ++ used.flatMap (fun x => faultIf (decide (b.length < x.2.2.1 + x.2.2.2)) (if x.1 = 0x24 then badFieldAt 0x24 else badLengthAt x.2.1))
    ++ used.zipIdx.flatMap (fun x => faultIf (decide (x.1.2.2.1 < 0x30) || (used.take x.2).any (fun y => spansMeet y.2.2 x.1.2.2)) (badFieldAt x.1.1))

/-- The descriptors that a matrix or vector instruction names (R132). -/
def Instr.vecNames : Instr → List Nat
  | .mm _ x => [x.a.toNat, x.b.toNat] ++ (if x.mode.extractLsb' 4 2 = 2 then [x.c.toNat] else []) ++ (if x.mode.getLsbD 6 then [x.out.toNat] else [])
  | .vrand _ x => [x.desc.toNat]
  | .vld _ x => [x.desc.toNat]
  | .vst _ x => [x.desc.toNat]
  | .vred _ x => x.x.toNat :: (if x.kind = 1 then [x.y.toNat] else [])
  | .vkern _ x => [x.x.toNat, x.out.toNat, x.aux.toNat]
  | _ => []

/-- The target of a branch at an index. -/
def branchTarget : Instr → Nat → Option Int
  | .br _ x, i => some ((i : Int) + x.off.toInt)
  | .jmp _ off, i => some ((i : Int) + off.toInt)
  | _, _ => none

/-- Whether a word may stand at an index of the resident image, or in the overlay image (no index yet). -/
def wordOk (spaces : List Nat) (idx : Option Nat) (w : Word) : Bool :=
  match decodeWord 0 w with
  | none => false
  | some i =>
    (Instr.vecNames i).all (fun t => spaces.getD t 0 == 0)
      && (match idx with
          | none => true
          | some k => (match branchTarget i k with
              | some t => decide (0 ≤ t ∧ t ≤ 8191)
              | none => true))

/-- Words of a stretch of bytes. -/
def wordsOf (b : Bytes) (off n : Nat) : List Word := (List.range n).map (fun i => BitVec.ofNat 64 (field b (off + 8 * i) 8))

/-- The faults of the entry records, the descriptors and the words, where the resident image stands from an index. -/
def bodyFaults (at' : Nat) (b : Bytes) : List Fault_ :=
  let eo := field b 0x18 4
  let dsc := field b 0x1C 4
  let ro := field b 0x20 4
  let oo := field b 0x24 4
  let rc := field b 8 2
  let descs := (List.range (field b 6 2)).map (fun j => slice b (dsc + 64 * j) 64)
  let spaces := descs.map (fun d => (Desc.parse d).space)
  (List.range (field b 4 2)).flatMap (fun j =>
      faultIf (decide (rc ≤ field b (eo + 8 * j) 2)) (badFieldAt (eo + 8 * j)) ++ faultIf (!allZero b (eo + 8 * j + 2) 2) (badFieldAt (eo + 8 * j + 2)))
    ++ descs.zipIdx.flatMap (fun d => match descFault d.1 with
      | some o => [badFieldAt (dsc + 64 * d.2 + o)]
      | none => [])
    ++ (wordsOf b ro rc).zipIdx.flatMap (fun w => faultIf (!wordOk spaces (some (at' + w.2)) w.1) (badFieldAt (ro + 8 * w.2)))
    ++ (wordsOf b oo (field b 0xC 4 / 8)).zipIdx.flatMap (fun w => faultIf (!wordOk spaces none w.1) (badFieldAt (oo + 8 * w.2)))

/-- An image as its bytes give it. -/
def imageOf (b : Bytes) : Image :=
  { tag := field b 0x10 8,
    entries := (List.range (field b 4 2)).map (fun j => (field b (field b 0x18 4 + 8 * j) 2, field b (field b 0x18 4 + 8 * j + 4) 4)),
    descs := (List.range (field b 6 2)).map (fun j => slice b (field b 0x1C 4 + 64 * j) 64),
    resident := wordsOf b (field b 0x20 4) (field b 8 2),
    overlay := wordsOf b (field b 0x24 4) (field b 0xC 4 / 8) }

/-- Read an image whose resident part is placed from an index (R415), or its first fault (R142). -/
def readImageAt (at' : Nat) (b : Bytes) : Except Fault_ Image :=
  match firstFault (headerFaults b) with
  | some f => .error f
  | none =>
    match firstFault (bodyFaults at' b) with
    | some f => .error f
    | none => .ok (imageOf b)

def readImage (b : Bytes) : Except Fault_ Image := readImageAt 0 b

/-! Paths (R474). What a path knows of a core: the index, the loops with their bodies and whether they may iterate again, and the returns stacked with
the loops active at their calls. -/

structure Flow where
  pc    : Nat
  loops : List (Nat × Nat × Bool)
  calls : List (Nat × Nat)
  deriving DecidableEq, Repr

/-- Where reaching an index leads: to the start of a loop that ends there, or past it. -/
def flowSettle : List (Nat × Nat × Bool) → Nat → List (List (Nat × Nat × Bool) × Nat)
  | [], pc => [([], pc)]
  | l :: ls, pc =>
    if pc = l.2.1 then (if l.2.2 then [(l :: ls, l.1)] else []) ++ flowSettle ls pc
    else [(l :: ls, pc)]

def Flow.reach (f : Flow) (pc : Nat) : List Flow := (flowSettle f.loops pc).map (fun x => { f with loops := x.1, pc := x.2 })

/-- A branch stays in the body of the innermost loop (R125). -/
def Flow.branch (f : Flow) (t : Int) : List Flow :=
  match f.loops with
  | l :: _ => if (l.1 : Int) ≤ t ∧ t < l.2.1 then [{ f with pc := t.toNat }] else []
  | [] => if 0 ≤ t then [{ f with pc := t.toNat }] else []

/-- Where a path goes on after an instruction; nowhere where it ends the entry or raises an exception. -/
def Flow.next (f : Flow) (i : Instr) : List Flow :=
  match i with
  | .endEntry _ => []
  | .raise _ _ => []
  | .loopStart _ x =>
    let len := x.len.toNat
    let skip := if x.imm && x.count != 0 then [] else f.reach (f.pc + 1 + len)
    let run := if x.imm && x.count == 0 then []
      else [{ f with loops := (f.pc + 1, f.pc + 1 + len, !(x.imm && x.count == 1)) :: f.loops, pc := f.pc + 1 }]
    if 4 ≤ f.loops.length then [] else skip ++ run
  | .breakLoop _ => (match f.loops with
    | [] => []
    | l :: ls => { f with loops := ls }.reach l.2.1)
  | .br _ x => f.branch ((f.pc : Int) + x.off.toInt) ++ f.reach (f.pc + 1)
  | .jmp _ off => f.branch ((f.pc : Int) + off.toInt)
  | .callSub _ t => if 8 ≤ f.calls.length then [] else [{ f with calls := (f.pc + 1, f.loops.length) :: f.calls, pc := t.toNat }]
  | .retSub _ => (match f.calls with
    | [] => []
    | r :: rs => if r.2 < f.loops.length then [] else { f with calls := rs }.reach r.1)
  | _ => f.reach (f.pc + 1)

/-- The instructions that may stand at each index: the resident image, and what the OVLs of the image place from the overlay image. -/
def Image.placed (i : Image) : List (Nat × Instr) :=
  let dec := fun (w : Word) => decodeWord 0 w
  let ovls := (i.resident ++ i.overlay).filterMap (fun w => match dec w with
    | some (.ovl _ x) => some x
    | _ => none)
  i.resident.zipIdx.filterMap (fun w => (dec w.1).map (fun n => (w.2, n)))
    ++ ovls.flatMap (fun x => (List.range x.count.toNat).filterMap (fun j =>
      if i.resident.length ≤ x.dst.toNat + j ∧ x.dst.toNat + j ≤ 8191 then
        (i.overlay[x.src.toNat + j]?).bind (fun w => (dec w).map (fun n => (x.dst.toNat + j, n)))
      else none))

/-- Everything that a step relation reaches from a list, by a worklist; `fuel` bounds its length. -/
def closure {α : Type} [DecidableEq α] (next : α → List α) : Nat → List α → List α → List α
  | 0, _, seen => seen
  | n + 1, todo, seen =>
    match todo with
    | [] => seen
    | x :: xs => if seen.contains x then closure next n xs seen else closure next n (next x ++ xs) (x :: seen)

def pathFuel : Nat := 2 ^ 40

/-- A point of a path: what it knows, and the instruction it stands at. -/
abbrev Point := Flow × Instr

def pointsAt (code : List (Nat × Instr)) (f : Flow) : List Point := (code.filter (fun e => e.1 == f.pc)).map (fun e => (f, e.2))

def pointNext (code : List (Nat × Instr)) (p : Point) : List Point := (p.1.next p.2).flatMap (pointsAt code)

/-- Every point that an entry reaches. -/
def entryPoints (code : List (Nat × Instr)) (start : Nat) : List Point :=
  closure (pointNext code) pathFuel (pointsAt code { pc := start, loops := [], calls := [] }) []

/-- A point with whether the path has passed a SIG since it left the first access. -/
def freeNext (code : List (Nat × Instr)) (x : Point × Bool) : List (Point × Bool) :=
  let pass := (pointNext code x.1).map (fun p => (p, x.2))
  match x.1.2 with
  | .clauseFence _ => []
  | .endEntry _ => []
  | .sig _ _ => pass.map (fun p => (p.1, true))
  | .wait _ _ => if x.2 then [] else pass
  | _ => pass

/-- What a path from a point reaches without passing a FENCE, an END, or a SIG followed by a WAIT. -/
def freeFrom (code : List (Nat × Instr)) (p : Point) : List Point :=
  ((closure (freeNext code) pathFuel ((pointNext code p).map (fun q => (q, false))) []).map (·.1)).eraseDups

/-! What an access reaches (R474). -/

/-- How an instruction reaches through a descriptor. -/
inductive Reach where
  | all                        -- every element
  | head (n : Nat)             -- the first n elements
  | moved                      -- every element at every row offset
  | block (rows cols : Nat)    -- the first columns of the first rows
  | rowsOf (rs : List (Nat × Nat))   -- the first columns of given rows
  deriving DecidableEq, Repr

structure Access where
  desc  : Nat
  write : Bool
  how   : Reach
  deriving DecidableEq, Repr

def offReach (r : BitVec 4) (n : Nat) : Reach := if r = 0 then .head n else .all
def rowReach (r : BitVec 4) : Reach := if r = 0 then .all else .moved

/-- The accesses of an instruction. `cols` is the output width of a kernel: the extent 0 of its output descriptor. -/
def Instr.accesses (descs : List Bytes) : Instr → List Access
  | .ld _ x => [⟨x.src.toNat, false, rowReach x.srcRow⟩, ⟨x.dst.toNat, true, rowReach x.dstRow⟩]
  | .ldadd _ x => [⟨x.src.toNat, false, rowReach x.srcRow⟩, ⟨x.dst.toNat, true, rowReach x.dstRow⟩]
  | .ldzero _ x => [⟨x.dst.toNat, true, rowReach x.dstRow⟩]
  | .mm _ x =>
    [⟨x.a.toNat, false, .all⟩, ⟨x.b.toNat, false, .all⟩] ++ (if x.mode.extractLsb' 4 2 = 2 then [⟨x.c.toNat, false, .all⟩] else [])
      ++ (if x.mode.getLsbD 6 then [⟨x.out.toNat, true, .all⟩] else [])
  | .vld _ x => [⟨x.desc.toNat, false, offReach x.off 128⟩]
  | .vst _ x => [⟨x.desc.toNat, true, offReach x.off 128⟩]
  | .vred _ x => ⟨x.x.toNat, false, offReach x.off 65536⟩ :: (if x.kind = 1 then [⟨x.y.toNat, false, offReach x.off 65536⟩] else [])
  | .vkern _ x =>
    let cols := (Desc.parse (descs.getD x.out.toNat (zeros 64))).e0
    let aux := fun (rs : List Nat) => Reach.rowsOf (rs.map (fun r => (r, if r < 4 then cols else 256)))
    let code := x.code.toNat
    (if kernX code then [⟨x.x.toNat, false, .block 256 cols⟩] else []) ++ [⟨x.out.toNat, true, .head (256 * cols)⟩]
      ++ (if (kernReads code).isEmpty then [] else [⟨x.aux.toNat, false, aux (kernReads code)⟩])
      ++ (if (kernWrites code).isEmpty then [] else [⟨x.aux.toNat, true, aux (kernWrites code)⟩])
  | _ => []

/-- The stretches of bytes of columns lo to hi - 1 of row r (in logical order of rows): elements, and the MX scale plane. -/
def Desc.strip (d : Desc) (r lo hi : Nat) : List (Nat × Nat) :=
  if hi ≤ lo then []
  else if !d.fmt.isMx then [(d.addr (r * d.e0 + lo), (hi - lo) * (d.fmt.elemBits / 8))]
  else
    let a := d.block (r * d.e0 + lo)
    let z := d.block (r * d.e0 + hi - 1)
    [(a.2.1, z.2.1 + d.fmt.recordBytes - a.2.1), (a.2.2, z.2.2 + 1 - a.2.2)]

def Desc.rows (d : Desc) : Nat := d.e1 * d.e2 * d.e3

def Desc.headSpans (d : Desc) (n : Nat) : List (Nat × Nat) :=
  (List.range (min d.rows (ceilDiv n (max 1 d.e0)))).flatMap (fun r => d.strip r 0 (min d.e0 (n - r * d.e0)))

/-- The size of a space that a core reaches as its own store: 4 MiB and 16 MiB (R113, R117). -/
def spaceSize (space : Nat) : Nat := if space = 0 then 0x400000 else 0x1000000

/-- The row offsets that keep a tensor inside its space. -/
def Desc.offsets (d : Desc) : List Nat :=
  let unit := if d.fmt.isMx && d.axis1 then 32 else 1
  let ends := fun (x : Desc) => (x.headSpans x.count).all (fun s => decide (s.1 + s.2 ≤ spaceSize d.space))
  if d.s1 = 0 ∧ d.fmt.isMx = false then [0] else ((List.range (spaceSize d.space + 1)).map (· * unit)).filter (fun r => ends (d.move r))

def Reach.spans (d : Desc) : Reach → List (Nat × Nat)
  | .all => d.headSpans d.count
  | .head n => d.headSpans (min n d.count)
  | .moved => d.offsets.flatMap (fun r => (d.move r).headSpans d.count)
  | .block rows cols => (List.range (min rows d.rows)).flatMap (fun r => d.strip r 0 (min cols d.e0))
  | .rowsOf rs => (rs.filter (fun r => decide (r.1 < d.rows))).flatMap (fun r => d.strip r.1 0 (min r.2 d.e0))

/-- Widened to whole 64-byte lines. -/
def lineSpan (x : Nat × Nat) : Nat × Nat := (x.1 / 64 * 64, roundUp 64 (x.1 + x.2) - x.1 / 64 * 64)

/-- Two accesses have bytes of one of spaces 0 and 1 in common. -/
def accessesMeet (descs : List Bytes) (x y : Access) : Bool :=
  let dx := Desc.parse (descs.getD x.desc (zeros 64))
  let dy := Desc.parse (descs.getD y.desc (zeros 64))
  dx.space == dy.space && decide (dx.space ≤ 1)
    && ((x.how.spans dx).map lineSpan).any (fun a => ((y.how.spans dy).map lineSpan).any (spansMeet a))

/-! Findings (*Verification findings*). -/

structure Finding where
  code  : Nat
  entry : Nat
  d1    : Nat
  d2    : Nat
  i1    : Nat
  i2    : Nat
  deriving DecidableEq, Repr

def fOverlap : Nat := 1
def fUnchecked : Nat := 2
def fNoLimit : Nat := 3
def fUnreachable : Nat := 4

/-- A DSET that may change a base or an extent. -/
def dsetsBase (i : Instr) (t : Nat) : Bool :=
  match i with
  | .dset _ d f _ => d.toNat == t && (decide (f.toNat ≤ 1) || decide (3 ≤ f.toNat ∧ f.toNat ≤ 6))
  | _ => false

/-- The finding of two accesses that a path joins, if there is one, the access of the lower index first: a DSET of either descriptor between them leaves the pair undecided. -/
def pairFinding (code : List (Nat × Instr)) (descs : List Bytes) (entry : Nat) (p q : Point) (between : List Point) (x y : Access) : Option Finding :=
  if x.desc = y.desc ∨ (x.write || y.write) = false then none
  else
    let f := fun (c : Nat) => some (if q.1.pc < p.1.pc then { code := c, entry := entry, d1 := y.desc, d2 := x.desc, i1 := q.1.pc, i2 := p.1.pc : Finding }
      else { code := c, entry := entry, d1 := x.desc, d2 := y.desc, i1 := p.1.pc, i2 := q.1.pc : Finding })
    let changed := between.any (fun b => (dsetsBase b.2 x.desc || dsetsBase b.2 y.desc) && (freeFrom code b).contains q)
    if changed then f fUnchecked else if accessesMeet descs x y then f fOverlap else none

/-- The unordered pairs of an entry (R474). -/
def pairFindings (code : List (Nat × Instr)) (descs : List Bytes) (entry : Nat) (pts : List Point) : List Finding :=
  let acc := fun (p : Point) => Instr.accesses descs p.2
  (pts.flatMap (fun p =>
    if (acc p).isEmpty then []
    else
      let free := freeFrom code p
      free.flatMap (fun q => (acc p).flatMap (fun x => (acc q).filterMap (fun y => pairFinding code descs entry p q free x y))))).eraseDups

/-- Both directions of a pair are one finding. -/
def Finding.mirrors (a b : Finding) : Bool := a.code == b.code && a.d1 == b.d2 && a.d2 == b.d1 && a.i1 == b.i2 && a.i2 == b.i1

def dropMirrors : List Finding → List Finding
  | [] => []
  | f :: fs => f :: (dropMirrors fs).filter (fun g => !f.mirrors g)

/-- Backward branches of an entry without a limit. -/
def limitFindings (entry limit : Nat) (pts : List Point) : List Finding :=
  if limit ≠ 0 then []
  else (pts.filterMap (fun p => match branchTarget p.2 p.1.pc with
    | some t => if t ≤ (p.1.pc : Int) then some { code := fNoLimit, entry := entry, d1 := 0, d2 := 0, i1 := p.1.pc, i2 := 0 : Finding } else none
    | none => none)).eraseDups

/-- Resident instructions that no entry reaches, as runs of indices. -/
def unreached (seen : List Nat) (n : Nat) : List Finding :=
  (List.range n).filterMap (fun i =>
    if seen.contains i || (decide (0 < i) && !seen.contains (i - 1)) then none
    else
      let last := ((List.range n).filter (fun k => decide (i ≤ k) && (elems i (k + 1 - i)).all (fun m => !seen.contains m))).getLast?.getD i
      some { code := fUnreachable, entry := 0, d1 := 0, d2 := 0, i1 := i, i2 := last : Finding })

/-- The findings of an image, entry by entry, then what no entry reaches. -/
def Image.verify (i : Image) : List Finding :=
  let code := i.placed
  let pts := i.entries.map (fun e => entryPoints code e.1)
  (i.entries.zip pts).zipIdx.flatMap (fun e =>
      dropMirrors (pairFindings code i.descs e.2 e.1.2) ++ limitFindings e.2 e.1.1.2 e.1.2)
    ++ unreached ((pts.flatten).map (fun p => p.1.pc)) i.resident.length

/-- *Verification findings* record (R396). -/
def Finding.record (f : Finding) : Bytes :=
  leBytes 1 f.code ++ zeros 3 ++ leBytes 2 f.entry ++ leBytes 1 f.d1 ++ leBytes 1 f.d2 ++ leBytes 4 f.i1 ++ leBytes 4 f.i2

end Sys2Proof.Machine
end

