-- ==== Sys2Proof/Machine/Sessions.lean ====
section
/-!
DEFINITION. Sessions close (15_host_transport_mailboxes R361, R364), evaluations whose transfers close (16_vuhal_command_reference R415), and taking the
module out of service (R408).
-/

namespace Sys2Proof.Machine

/-- A descriptor of an evaluation image in space 5 names a weight pair that a job in force binds (R415). -/
def State.evalSpaceOk (s : State) (d : Desc) : Bool :=
  decide (d.space ≠ 5) || (match s.region d.region with
    | none => false
    | some g => g.kind == 1 && (s.pairJob d.region).isSome)

/-- The image of an evaluation: its resident part placed from load_index stays inside instruction memory and it breaks neither R142 nor the rule on
space 5 (R415). A fault of R142 has its offset in the image; of the other two the spec names no field. -/
def State.evalImage (s : State) (at' : Nat) (b : Bytes) : Except (Option Fault_) Image :=
  match readImageAt at' b with
  | .error f => .error (some f)
  | .ok i => if at' + i.resident.length ≤ 8192 ∧ i.descs.all (fun d => s.evalSpaceOk (Desc.parse d)) = true then .ok i else .error none

/-- An evaluation's image as it stands in module memory. -/
def State.storedImage (s : State) (v : Eval) : Except (Option Fault_) Image := s.evalImage v.loadIndex (s.readMem (s.regionBase v.imageReg) v.imageBytes)

/-- A bulk-in transfer into an evaluation's image or input region closes; the evaluation is ready when none is open (R415). An image that came by
transfer is checked then, and one that breaks the rules of R415 fails its evaluation with BAD_FIELD (log entry 63). -/
def State.evalTransferClosed (s : State) (u : TransferFor) : State :=
  match u with
  | .evalImage i =>
    match s.evals.find? (fun v => v.id == i && v.imageOpen.isSome) with
    | none => s
    | some v => match s.storedImage v with
      | .ok g => s.setEval i (fun y => { y with imageOpen := none, image := some g })
      | .error _ => (s.setEval i (fun y => { y with imageOpen := none })).failEval i 3 0x0103
  | .evalInput i => s.setEval i (fun v => { v with inputOpen := none })
  | _ => s

/-- The causes of SESSION_CLOSED, in the model's order (log entry 202): a CLOSE frame, SESSION_CLOSE, a timeout, and going out of service. -/
def closedByFrame : Nat := 0
def closedByCommand : Nat := 1
def closedByTimeout : Nat := 2
def closedByService : Nat := 3

/-- A session closes (R364): its slots become free, its transfers and streams end, and a checkpoint that uses it as sink fails. What it has waiting or
running stays in the queue, and its response goes nowhere. -/
def State.closeSession (s : State) (id cause : Nat) : State :=
  match s.session id with
  | none => s
  | some x =>
    let h := s.host
    let s1 := s.withHost { h with sessions := h.sessions.filter (fun y => y.id != id),
                                  tenants := h.tenants.map (fun y => { y with slots := y.slots.filter (fun e => e.2 != id) }) }
    let s2 := x.transfers.foldl (fun st t => st.evalTransferClosed t.use) s1
    let s3 := match s2.ckpt.run with
      | some r => if r.session = id then s2.failCheckpoint 0x0202 else s2
      | none => s2
    (s3.refreshQuota x.tenant).log { code := 0x6002, tenant := x.tenant, detail := leBytes 4 id ++ leBytes 1 cause }

/-- Taking the module out of service: it fences itself, closes the sessions of tenants 0 to 2, and is OUT_OF_SERVICE (R408). -/
def State.goOutOfService (s : State) (cause : Nat) : State :=
  let s1 := s.fenceModule
  let s2 := (s1.withRun { s1.run with mode := .outOfService }).withSup { s1.sup with outOf := true, outCause := cause, returning := false }
  (s2.host.sessions.filter (fun x => decide (x.tenant ≤ 2))).foldl (fun st x => st.closeSession x.id closedByService) s2

end Sys2Proof.Machine
end

