-- ==== Sys2Proof/Machine/Reset.lean ====
section
/-!
DEFINITION. Resets (17_reset_power_startup R417 to R432): the fuse map, what each level loses, merging, and the escalation history. Target die codes are
those of the RESET command (16_vuhal_command_reference R407): logical C-dies 0 to 7, M-dies from 0x10, N-dies from 0x20.
-/

namespace Sys2Proof.Machine

/-! The fuse map (R418). Fields are numbered in the order of *Reset map*. -/

def fuPowerOn : Nat := 0
def fuBrownOut : Nat := 1
def fuResetN : Nat := 2
def fuResetLong : Nat := 3
def fuCommand : Nat := 4
def fuCoreWatch : Nat := 5
def fuDieWatch : Nat := 6
def fuManage : Nat := 7
def fuSafety : Nat := 8
def fuTick : Nat := 9

/-- The fuse defaults. -/
def fuseMap : List Nat := [0, 0, 1, 0, 4, 4, 2, 1, 0, 2]

/-- The source codes of *Escalation view*, by field of the map. -/
def sourceCode (f : Nat) : Nat := [0, 1, 2, 2, 3, 4, 4, 4, 5, 6].getD f 0

/-- The lower number of the fuse field and the option field. -/
def State.mapLevel (s : State) (f : Nat) : Nat := min (fuseMap.getD f 0) (s.sup.opts.raises.getD f 7)

/-- A die-scoped source applied at L3 or L4 acts at L2. -/
def dieLevel (l : Nat) : Nat := min l 2

/-- The part of a target that a level uses. -/
def ResetTarget.at_ (t : ResetTarget) (level : Nat) : ResetTarget :=
  { die := if level ≤ 1 then 0 else t.die, cluster := if level ≤ 2 then 0 else t.cluster, core := if level ≤ 3 then 0 else t.core }

def ResetTarget.whole : ResetTarget := { die := 0, cluster := 0, core := 0 }
def ResetTarget.ofCore (c : Nat) : ResetTarget := { die := dieOfCore c, cluster := clusterOfCore c % 8, core := c % 8 }

/-- The logical number of a physical C-die that is active. -/
def State.logicalOf (s : State) (p : Nat) : Option Nat := s.dieMap.findIdx? (· == p)

/-- The die code of nutshell entries for a target (*Telemetry selectors*). -/
def State.targetSource (s : State) (level : Nat) (t : ResetTarget) : Nat :=
  if level ≤ 1 then srcS else if t.die < 8 then srcC (s.physDie t.die) else t.die

/-! What a reset loses (R417, R430). -/

/-- The logical cores in a target's scope. -/
def coresOf (level : Nat) (t : ResetTarget) : List Nat :=
  if 8 ≤ t.die then [] else if level = 2 then dieCores t.die else if level = 3 then clusterCores (t.die * 8 + t.cluster) else [t.die * 64 + t.cluster * 8 + t.core]

/-- The sync objects in a target's scope. -/
def objectsOf (level : Nat) (t : ResetTarget) : List Nat :=
  let cores := (coresOf level t).flatMap (fun c => (List.range 64).map (objKey 0 c))
  let cluster := fun (u : Nat) => (List.range 256).map (objKey 1 u)
  if 8 ≤ t.die then []
  else if level = 2 then cores ++ (List.range 8).flatMap (fun k => cluster (t.die * 8 + k)) ++ (List.range 2048).map (objKey 2 t.die)
  else if level = 3 then cores ++ cluster (t.die * 8 + t.cluster)
  else cores

/-- Whether a core, a cluster or a die's objects lie in a target's scope. -/
def inScope (level : Nat) (t : ResetTarget) (key : Nat) : Bool :=
  decide (t.die < 8) && keyDie key == t.die && (level == 2 || (keyScope key != 2
    && (if level = 3 then (if keyScope key = 1 then keyUnit key % 8 else keyUnit key / 8 % 8) == t.cluster
        else keyScope key == 0 && keyUnit key == t.die * 64 + t.cluster * 8 + t.core)))

/-- A reset at L4, L3 or L2 of a C-die reaches its cores: entries stop, the objects they own are poisoned, and what the cores and, from L3 up, the
cluster stores hold is lost. Nothing runs there until the reset completes. -/
def State.loseCores (s : State) (level : Nat) (t : ResetTarget) : State :=
  let cs := coresOf level t
  let s1 := cs.foldl State.poisonOwned (s.stopCores cs)
  let s2 := (objectsOf level t).foldl (fun st key => st.poison none key) s1
  let s3 := cs.foldl State.freshCore s2
  let units := if level = 2 then elems (t.die * 8) 8 else if level = 3 then [t.die * 8 + t.cluster] else []
  let bad := SMap.keep (fun k => !(cs.contains (k / 2 ^ 32) || units.any (fun u => k / 2 ^ 32 == 512 + u))) s3.mem.badStore
  let s4 := s3.withMem { s3.mem with clusters := SMap.keep (fun u => !units.contains u) s3.mem.clusters, badStore := bad }
  let r := s4.recov
  s4.withRecov { r with offCore := cs.foldl (fun m c => SMap.insert m c (2 ^ 64)) r.offCore }

/-- The M-die that holds a staging address (R184). -/
def saDie (sa : Nat) : Nat := mdieOf sa

/-- A reset at L2 of an M-die: its jobs stop, its staging store, its pending contributions and its queues are lost, and the steps they served do not
seal. Its GDDR7 contents, with the buffer states, stay (R202). A WC rebuild stops and leaves the plane EMPTY. -/
def State.loseMDie (s : State) (m : Nat) : State :=
  let hit := s.mem.jobRuns.filter (fun r => r.mdie == m)
  let s1 := hit.foldl (fun st r => st.failStep r.step fEntry) (s.stopJobs (fun r => r.mdie == m))
  let lost := s1.mem.adds.filter (fun q => saDie q.sa == m)
  let s2 := lost.foldl (fun st q => st.failStep q.step fEntry) s1
  let q := s2.mem
  let dels := (q.early ++ q.waiting.map (·.1) ++ q.outbox).filter (fun d => d.mdie == m)
  let s3 := dels.foldl (fun st d => st.failStep d.step fEntry) s2
  let mine := fun (d : Delivery) => d.mdie != m
  let dies := s3.mem.mdies
  let die := SMap.get MDie.blank dies m
  (s3.withMem { s3.mem with
      adds := q.adds.filter (fun x => saDie x.sa != m), early := q.early.filter mine, waiting := q.waiting.filter (fun x => mine x.1), outbox := q.outbox.filter mine,
      staging := { q.staging with valid := SMap.keep (fun l => saDie (64 * l) != m) q.staging.valid },
      sums := SMap.keep (fun k => k % 16 != m) q.sums,
      pairs := q.pairs.map (fun e => if e.1 % 8 = m ∧ e.2.rebuild.isSome = true then (e.1, { e.2 with rebuild := none, wc := .empty }) else e),
      mdies := SMap.insert dies m { die with scrubNext := 0, corrQueue := [] },
      selfRefresh := SMap.insert q.selfRefresh m true }).failCheckpoint 0x0601

/-- A reset at L2 of an N-die: its operations, collectives and port queues are lost; its ports retrain. -/
def State.loseNDie (s : State) (n : Nat) : State :=
  let slots := (s.ndie n).slots.map (·.1)
  let s1 := slots.foldl (fun st k => st.abandonOp n k) s
  let s2 := s1.fab.colls.foldl (fun st e => st.dropColl e.1 e.2 fEntry) s1
  let down := fun (p : Nat) (x : Port) =>
    if p / 8 = n then { Port.blank with state := if x.state = 4 then 4 else 1, delay := x.delay, peer := x.peer, bringUps := x.bringUps, cnt := x.cnt, quar := x.quar,
                                        auditBad := x.auditBad } else x
  let s3 := s2.withFab { s2.fab with ports := s2.fab.ports.map (fun e => (e.1, down e.1 e.2)), ins := [] }
  (s3.setHostPort n { s3.hostPort n with state := 1, challenges := [] }).failCheckpoint 0x0601

/-- The ports of a module whose N-dies are reset: a FAILED port stays so unless the reset is at L0 (R258); the counters stay (R281). -/
def coldPort (x : Port) : Port := { Port.blank with state := if x.state = 4 then 4 else 0, bringUps := x.bringUps, cnt := x.cnt }

/-- The quotas of the configuration record in force, or the defaults (R373, R390). -/
def quotasOf (cfg : Option Bytes) (t : Nat) : List Nat :=
  match t, cfg with
  | 0, _ => Tenant.blank.quota
  | _, none => Tenant.blank.quota
  | t, some b =>
    let o := 0x34 + 16 * (t - 1)
    let pick := fun (i d v : Nat) => if bit (field b (o + 1) 1) i then v else d
    [pick 0 16 (field b (o + 2) 1), pick 1 0 (field b (o + 4) 4), pick 2 1000 (field b (o + 8) 4), pick 3 0 (field b (o + 12) 4)]

def hostReset (cfg : Option Bytes) (ports : SMap HostPort) : HostState :=
  { sessions := [], tenants := (List.range 4).map (fun t => { Tenant.blank with quota := quotasOf cfg t }),
    ports := ports, turn := 0 }

/-- The mode after L0 or L1: IDLE, unless the module is OUT_OF_SERVICE (R379, R417). -/
def State.modeAfter (s : State) : Mode := if s.sup.outOf then .outOfService else .idle

/-- The tick unit after L0 or L1: the count runs from zero until an epoch is adopted, and commas are no longer stopped (R24, R25). -/
def Clock.again (c : Clock) : Clock := { Clock.start with present := c.present, slips := c.slips, elapsed := c.elapsed }

/-- The M-dies' counters of R197 stay at L1; their queues do not. -/
def MDie.warm (d : MDie) : MDie := { d with scrubNext := 0, corrQueue := [] }

/-- What L1 leaves of memory: GDDR7 contents with the region table and the buffer states, and the counters of R197 and R229. -/
def Mem.warm (m : Mem) : Mem :=
  { Mem.blank with cells := m.cells, bad := m.bad, recast := m.recast, regions := m.regions,
                   pairs := m.pairs.map (fun e => if e.2.rebuild.isSome then (e.1, { e.2 with rebuild := none, wc := .empty }) else e),
                   pairV0 := m.pairV0, mdies := m.mdies.map (fun e => (e.1, e.2.warm)), near := m.near, sramCe := m.sramCe, sramUe := m.sramUe,
                   links := m.links.map (fun e => (e.1, { e.2 with failRun := 0, retrained := none })), damaged := m.damaged, trained := m.trained,
                   selfRefresh := (List.range 8).foldl (fun x i => SMap.insert x i true) [] }

/-- What L1 leaves of the recovery state: the repair record, a swap in progress, the failure history and the counters of *Health header*. -/
def Recov.warm (r : Recov) : Recov :=
  { Recov.blank with spareUsed := r.spareUsed, remapped := r.remapped, retired := r.retired, swap := r.swap, offDie := r.offDie, lost := r.lost,
                     expiries := r.expiries, badReads := r.badReads, shadowBad := r.shadowBad, unshadowed := r.unshadowed, digestBad := r.digestBad,
                     refreshes := r.refreshes, remaps := r.remaps, swaps := r.swaps, selfFences := r.selfFences }

/-- The operation counters stay at L1; what was open is abandoned. -/
def NDie.warm (x : NDie) : NDie :=
  { NDie.blank with opened := x.opened, completed := x.completed, abandoned := x.abandoned + x.slots.length, cnt := x.cnt }

def HostPort.warm (x : HostPort) : HostPort := { HostPort.blank with state := 0, cnt := x.cnt }

/-- L1: the run and the membership end, sessions close, staged changes and every SRAM but the nutshell are lost (R417). The manifest and a committed
restore stay (R351, R354), and so do the ledger area, the option registers, and the run ID last armed (R399). -/
def State.loseWarm (s0 : State) : State :=
  let s := ((s0.stopEvals).failCheckpoint 0x0601).failRestore 0x0601
  let c := s.ckpt
  { State.reset with
    fresh := s.fresh, pending := s.pending, sent := s.sent, clk := s.clk.again,
    run := { Run.start with mode := s.modeAfter, lastArmed := s.run.lastArmed },
    ledger := { s.ledger with seals := [] }, dieMap := s.dieMap, mem := s.mem.warm, modId := s.modId, slotId := s.slotId,
    fab := { Fab.blank with ports := s.fab.ports.map (fun e => (e.1, coldPort e.2)), ndies := s.fab.ndies.map (fun e => (e.1, e.2.warm)) },
    recov := s.recov.warm, evals := s.evals, host := hostReset s.sup.config (s.host.ports.map (fun e => (e.1, e.2.warm))),
    ckpt := { Ckpt.blank with status := c.status, done := c.done, manifest := c.manifest, sha := c.sha, staged := c.staged },
    sup := { s.sup with asks := [], askReset := none }, nut := s.nut, alerts := s.alerts }

/-- The ledger after L0: empty, its sequence the saved mark plus 4,096 and its hash the saved one, with a gap to report (R306). A module that has
written no entry starts at 0. -/
def Ledger.cold (l : Ledger) : Ledger :=
  if l.nextSeq = 0 then Ledger.start
  else { Ledger.start with nextSeq := l.flashSeq + 4096, prevHash := l.flashHash, gap := true, flashSeq := l.flashSeq, flashHash := l.flashHash,
                           flashLast := l.flashLast }

/-- L0: the module returns to its reset state but for module flash and the nutshell (R417); what the flash records give comes into force as the
release stages read them. -/
def State.loseCold (s : State) : State :=
  let r := s.recov
  let u := s.sup
  { State.reset with
    fresh := s.fresh, pending := s.pending, sent := s.sent, clk := { s.clk.again with slips := 0 },
    run := { Run.start with mode := s.modeAfter },
    ledger := s.ledger.cold, dieMap := s.dieMap, modId := s.modId, slotId := s.slotId,
    recov := { Recov.blank with spareUsed := r.spareUsed, remapped := r.remapped, retired := r.retired, swap := r.swap, offDie := r.offDie },
    host := hostReset u.config [(0, { HostPort.blank with state := 0 }), (1, { HostPort.blank with state := 0 })],
    sup := { Super.start with
      part := u.part, reset := u.reset, resets := u.resets, counted := u.counted, outOf := u.outOf, returning := u.returning, outCause := u.outCause,
      loadStarts := u.loadStarts, restarts := u.restarts, opts := u.opts, flashOpt := u.flashOpt, optFault := u.optFault, certBad := u.certBad, idBad := u.idBad,
      straps := u.straps, resetNLow := u.resetNLow, input := u.input, pwrEn := u.pwrEn, pwrGood := u.pwrGood, standby := u.standby,
      reverse := u.reverse, mv := u.mv, ma := u.ma, watts := u.watts, temps := u.temps, memTemps := u.memTemps, hot := u.hot, config := u.config, flashCfg := u.flashCfg },
    nut := s.nut, alerts := s.alerts }

/-- The losses of a reset at a level over its targets. -/
def State.lose (s : State) (level : Nat) (ts : List ResetTarget) : State :=
  if level = 0 then s.loseCold
  else if level = 1 then s.loseWarm
  else ts.foldl (fun st t =>
    if t.die < 8 then st.loseCores level t
    else if isMDie t.die then st.loseMDie (t.die - 0x10)
    else st.loseNDie (t.die - 0x20)) s

/-! Beginning and merging (R420, R425, R431). -/

/-- Escalation table: 4 counted resets within 600 s (R431). -/
def escThreshold : Nat := 4
def escWindow : Nat := 60000000000

def State.countedNow (s : State) : List Nat := s.sup.counted.filter (fun t => decide (s.clk.elapsed < t + escWindow))

/-- One record of the escalation history for each source, newest first. -/
def State.noteReset (s : State) (src level : Nat) (t : ResetTarget) : State :=
  let x := t.at_ level
  let l : ResetLog := { ref := s.clk.ref, source := src, level := level, die := x.die, cluster := x.cluster, core := x.core, raised := false }
  s.withSup { s.sup with resets := (l :: s.sup.resets).take 16 }

/-- A reset counts once for escalation, at L2 or above and for no power-on. -/
def State.countReset (s : State) : State := s.withSup { s.sup with counted := s.clk.elapsed :: s.countedNow }

/-- RESET_START; for a RESET command at L1 or L0 it freezes the record (R442, R455, log entry 49). -/
def State.logStart (s : State) (r : ResetRun) (freeze : Bool) : State :=
  let t := (r.targets.headD ResetTarget.whole).at_ r.level
  let n : Note := { code := 0x1001, source := s.targetSource r.level t,
                    detail := leBytes 1 r.source ++ leBytes 1 r.level ++ leBytes 1 t.die ++ leBytes 1 t.cluster ++ leBytes 1 t.core ++ r.merged.flatMap (leBytes 1) }
  if freeze then s.logFreeze n else s.log n

/-- The scope of a reset in progress takes in another. -/
def ResetRun.covers (r : ResetRun) (level : Nat) (t : ResetTarget) : Bool :=
  decide (r.level ≤ level) && (decide (r.level ≤ 1) || (decide (2 ≤ level) && r.targets.any (fun x => x.at_ r.level == t.at_ r.level)))

/-- A reset that arrives while options load restarts the load; the fourth restart within 1 s asserts ALERT_N (R425). -/
def State.restartLoad (s : State) : State :=
  let recent := (s.clk.elapsed :: s.sup.restarts).filter (fun t => decide (s.clk.elapsed < t + 100000000))
  let s1 := (s.withSup { s.sup with loadStarts := sat16 (s.sup.loadStarts + 1), restarts := recent }).log { code := 0x1006, alert := decide (4 ≤ recent.length) }
  if 4 ≤ recent.length then s1.alert 6 else s1

/-- Start the stages of a reset: the losses happen at once, a restore that has not committed ends (R354), and stage 0 runs. -/
def State.startStages (s : State) (r : ResetRun) (freeze : Bool) : State :=
  let s1 := s.logStart r freeze
  let s2 := (s1.failRestore 0x0601).lose r.level r.targets
  let u := s2.sup
  s2.withSup { u with reset := some r, stopped := if r.level ≤ 1 then false else u.stopped, stage := if r.level ≤ 1 then 0 else u.stage,
                      loadStarts := if r.level = 0 then sat16 (u.loadStarts + 1) else u.loadStarts }

/-- Begin a reset from a source of the map, at the level applied and with its target; one in progress merges it (R420). `hung` is an M-die that cannot
place its devices in self-refresh. -/
def State.beginReset (s0 : State) (f level : Nat) (t : ResetTarget) (hung : List Nat) : State :=
  let src := sourceCode f
  let s := s0.noteReset src level t
  let counts := decide (level ≤ 2) && f != fuPowerOn
  match s.sup.reset with
  | none =>
    let s1 := if counts then s.countReset else s
    s1.startStages { level := level, source := src, targets := if level ≤ 1 then [] else [t.at_ level], stage := 0, began := s.clk.elapsed,
                     opens := s.clk.elapsed, merged := [], refLost := false, noKeep := hung,
                     esc := counts && decide (escThreshold ≤ s1.sup.counted.length) && !s.sup.outOf } (f == fuCommand && decide (level ≤ 1))
  | some r =>
    let s1 := if r.level = 0 ∧ r.stage = 1 then s.restartLoad else s
    if r.covers level t then s1.withSup { s1.sup with reset := some { r with merged := r.merged ++ [src] } }
    else
      let l := min r.level level
      let ts := if l ≤ 1 then [] else ((r.targets ++ [t]).map (fun x => x.at_ l)).eraseDups
      let more := counts && decide (2 < r.level)
      let s2 := if more then s1.countReset else s1
      s2.startStages { r with level := l, targets := ts, stage := 0, opens := s.clk.elapsed, merged := r.merged ++ [src], refLost := false,
                              noKeep := r.noKeep ++ hung,
                              esc := r.esc || (more && decide (escThreshold ≤ s2.sup.counted.length) && !s.sup.outOf) } (f == fuCommand && decide (level ≤ 1))

/-- A reset from a source that covers the module: the level that the map gives (R418). -/
def State.resetWhole (s : State) (f : Nat) : State :=
  let l := min 1 (s.mapLevel f)
  let s1 := if l < fuseMap.getD f 0 then s.log { code := 0x1003, detail := leBytes 1 (sourceCode f) ++ leBytes 1 l } else s
  s1.beginReset f l ResetTarget.whole []

/-- A reset from a die-scoped source; at L3 and L4 it acts at L2. -/
def State.resetDie (s : State) (f code : Nat) (hung : Bool) : State :=
  let l := dieLevel (s.mapLevel f)
  let s1 := if s.mapLevel f < fuseMap.getD f 0 then s.log { code := 0x1003, detail := leBytes 1 (sourceCode f) ++ leBytes 1 l } else s
  s1.beginReset f l { die := code, cluster := 0, core := 0 } (if hung && isMDie code then [code - 0x10] else [])

/-- A reset from the core watchdog; at L3 it acts on the core's cluster. -/
def State.resetCore (s : State) (c : Nat) : State :=
  let l := s.mapLevel fuCoreWatch
  let s1 := if l < fuseMap.getD fuCoreWatch 0 then s.log { code := 0x1003, detail := leBytes 1 (sourceCode fuCoreWatch) ++ leBytes 1 l } else s
  s1.beginReset fuCoreWatch l (ResetTarget.ofCore c) []

end Sys2Proof.Machine
end

