-- ==== Sys2Proof/Machine/ResetEvents.lean ====
section
/-!
DEFINITION. The events of the reset controller (17_reset_power_startup R419 to R434): hangs, watchdogs, RESET_N, and the release stages of a reset.
-/

namespace Sys2Proof.Machine

/-! Stages (R428). -/

/-- Whether a target's die belongs to a stage: 3 for M-dies, 4 for N-dies, 5 to 7 for C-dies. -/
def stageOfDie (stage code : Nat) : Bool :=
  if stage = 3 then isMDie code else if stage = 4 then isNDie code else decide (5 ≤ stage ∧ stage ≤ 7) && decide (code < 8)

/-- The stages of a reset: all at L1 and L0, those of its dies at L2, 0, 6 and 7 at L3, 0 and 7 at L4. -/
def ResetRun.runs (r : ResetRun) (stage : Nat) : Bool :=
  if r.level ≤ 1 then decide (stage ≤ 8)
  else stage == 0 || (if r.level = 2 then r.targets.any (fun t => stageOfDie stage t.die) else if r.level = 3 then stage == 6 || stage == 7 else stage == 7)

/-- The stage after the one that completes. -/
def ResetRun.next (r : ResetRun) : Option Nat := (List.range 9).find? (fun k => decide (r.stage < k) && r.runs k)

/-- What holds a reset before its release stages: RESET_N low (R421), or a brown-out or over-voltage (R433). -/
def State.resetHeld (s : State) : Bool := s.sup.resetNLow.isSome || decide (3 ≤ s.sup.input)

/-- Whether the reset covers an M-die. -/
def ResetRun.hasMDie (r : ResetRun) (m : Nat) : Bool := decide (m < 8) && (decide (r.level ≤ 1) || (r.level == 2 && r.targets.any (fun t => t.die == 0x10 + m)))

/-- Whether a stage can find something. -/
def foundNow (r : ResetRun) : StageFinding → Bool
  | .noSelfRefresh m => r.stage == 0 && decide (1 ≤ r.level) && r.hasMDie m
  | .flashHold _ => r.stage == 0
  | .optionFlashInvalid => r.stage == 1 && r.level == 0
  | .optionOtpInvalid => r.stage == 1 && r.level == 0
  | .romMismatch _ => r.stage == 1
  | .identityInvalid d => r.stage == 1 && r.level == 0 && (isCDie d || isMDie d || isNDie d || d == srcS)
  | .certMissing c => r.stage == 8 && decide (c ≤ 2)
  | .shortPathFailed m => r.stage == 3 && decide (1 ≤ r.level) && r.hasMDie m
  | .trainingFailed m d => r.stage == 3 && r.hasMDie m && decide (d < 9)

/-- A start-up that stops after stage 1 (R426, R446). -/
def State.stopStart (s : State) (n : Note) : State := ((s.withSup { s.sup with stopped := true }).log { n with alert := true }).alert 5

/-- An active C-die has failed; a spare or retired one is retired (R320, R448). -/
def State.failPhysDie (s : State) (p : Nat) : State :=
  match s.logicalOf p with
  | some d => s.failDie d
  | none => s.withRecov { s.recov with retired := if s.recov.retired.contains p then s.recov.retired else p :: s.recov.retired }

/-- The contents of an M-die's devices are lost: every cell, re-cast element and buffer state there. -/
def State.loseGddr (s : State) (m : Nat) : State :=
  let q := s.mem
  s.withMem { q with cells := q.cells.filter (fun c => s.dieAt c.1 != m), recast := SMap.keep (fun a => s.dieAt a != m) q.recast,
                     bad := SMap.keep (fun a => s.dieAt (256 * a) != m) q.bad, pairs := SMap.keep (fun k => k % 8 != m) q.pairs }

/-- An M-die lost its contents by fallback training: every shard is damaged, SHARD_LOST is logged, and, outside L1, the module fences itself as FENCE
does (R202, R430). -/
def State.lostByTraining (s : State) (level m : Nat) : State :=
  let s1 := (s.loseGddr m).shardLost
  if level = 1 then s1 else s1.fenceModule

/-- What a finding does. -/
def State.stageFound (s : State) (r : ResetRun) : StageFinding → State
  | .noSelfRefresh m => s.withSup { s.sup with reset := some { r with noKeep := r.noKeep ++ [m] } }
  | .flashHold suspended =>
    let s1 := s.log { code := 0x1009 }
    if suspended then s1.log { code := 0x100A } else s1
  | .optionFlashInvalid => ((s.withSup { s.sup with flashOpt := false, optFault := true }).log { code := 0x1007, alert := true }).alert 5
  | .optionOtpInvalid => s.stopStart { code := 0x1008 }
  | .romMismatch d => s.stopStart { code := 0x100E, detail := d }
  | .identityInvalid d =>
    let s1 := (s.withSup { s.sup with idBad := d :: s.sup.idBad }).log { code := 0x100F, source := d }
    if isCDie d then s1.failPhysDie d else s1.hwFault 0x100F
  | .certMissing c => ((s.withSup { s.sup with certBad := c :: s.sup.certBad }).log { code := 0x1014, alert := true, detail := leBytes 1 c }).alert 5
  | .shortPathFailed m => s.withSup { s.sup with reset := some { r with noKeep := r.noKeep ++ [m] } }
  | .trainingFailed m d => (s.log { code := 0x200A, source := srcM m, detail := leBytes 1 d }).hwFault 0x200A

/-- The configuration record of flash comes into force, with its module ID and quotas (R390, R373). -/
def State.loadConfig (s : State) : State :=
  let cfg := s.sup.flashCfg
  let id := match cfg with
    | some b => field b 4 2
    | none => 0
  let s1 := (s.withModId id).withSup { s.sup with config := cfg }
  s1.withHost (hostReset cfg s1.host.ports)

/-- Stage 1: at L0 the options load, SLOT_ID is latched (R464) and the configuration record comes into force; the first start-up after the nutshell was
lost says so (R456). -/
def State.stageOne (s : State) (level : Nat) : State :=
  let s1 := if level = 0 then (s.loadConfig).withSlotId s.sup.straps else s
  if s1.nut.lost then (s1.withNut { s1.nut with lost := false }).log { code := 0x1013 } else s1

/-- Stage 3: the M-dies have trained; those whose contents could not be kept have lost them. -/
def State.stageThree (s : State) (r : ResetRun) : State :=
  let dies := (List.range 8).filter r.hasMDie
  let s1 := s.withMem { s.mem with trained := dies.foldl (fun m d => SMap.insert m d true) s.mem.trained,
                                   selfRefresh := SMap.keep (fun d => !dies.contains d) s.mem.selfRefresh }
  if r.level = 0 then s1 else (r.noKeep.filter r.hasMDie).eraseDups.foldl (fun st m => st.lostByTraining r.level m) s1

/-- Stage 4: host ports come up again. -/
def State.stageFour (s : State) (r : ResetRun) : State :=
  (List.range 2).foldl (fun st n => if r.level ≤ 1 ∨ r.targets.any (fun t => t.die == 0x20 + n) = true then
    st.setHostPort n { st.hostPort n with state := 2 } else st) s

def State.stageEffect (s : State) (r : ResetRun) : State :=
  match r.stage with
  | 1 => s.stageOne r.level
  | 3 => s.stageThree r
  | 4 => s.stageFour r
  | _ => s

/-! Completion. -/

/-- The objects of the scope are at zero (R244), and the cores run the entries of the next window that opens (R430). -/
def State.bringBack (s : State) (r : ResetRun) : State :=
  r.targets.foldl (fun st t =>
    let cs := coresOf r.level t
    let s1 := st.withSync (st.sync.map (fun e => if inScope r.level t e.1 then
      (e.1, { SyncObj.blank with window := e.2.window, held := if r.level = 2 then [] else e.2.held }) else e))
    let c := s1.recov
    s1.withRecov { c with offCore := if s1.inRun then cs.foldl (fun m x => SMap.insert m x (s1.run.period + 2)) c.offCore
                                     else SMap.keep (fun x => !cs.contains x) c.offCore }) s

/-- The escalation of R431: the records of this reset say so, and the module goes out of service. -/
def State.escalate (s : State) (r : ResetRun) : State :=
  let n := 1 + r.merged.length
  let s1 := s.withSup { s.sup with resets := (s.sup.resets.take n).map (fun x => { x with raised := true }) ++ s.sup.resets.drop n }
  ((s1.goOutOfService 0x100C).logFreeze { code := 0x100C, alert := true }).alert 4

/-- The L0 of a return to service: IDLE, and the counts are cleared (R408, R431). -/
def State.returnToService (s : State) : State :=
  let s1 := s.withSup { s.sup with outOf := false, returning := false, outCause := 0, counted := [] }
  (s1.withRun { s1.run with mode := .idle }).log { code := 0x100D }

def State.finishReset (s : State) (r : ResetRun) : State :=
  let t := (r.targets.headD ResetTarget.whole).at_ r.level
  let s1 := (s.bringBack r).log { code := 0x1002, source := s.targetSource r.level t, detail := leBytes 8 (s.clk.elapsed - r.began) }
  let s2 := s1.withSup { s1.sup with reset := none, stage := if r.level ≤ 1 then 9 else s1.sup.stage }
  if r.esc then s2.escalate r
  else if r.level = 0 ∧ s2.sup.returning = true then
    if s2.sup.outOf then s2.returnToService else s2.withSup { s2.sup with returning := false }
  else s2

/-- The stage in progress completes, with what it found; the next opens after the release gap (R428). Stage 0 waits while RESET_N or an input condition
holds the reset, and stage 2 waits for REFCLK. -/
def execResetStage (found : List StageFinding) (at' : Nat) (s0 : State) : Out :=
  match s0.sup.reset with
  | none => notNow "no reset is in progress"
  | some r =>
    let s := s0.advance at'
    if s.sup.stopped = true ∨ s.sup.pwrEn = false ∨ s.sup.standby = false then notNow "the release has stopped"
    else if r.stage = 0 ∧ s.resetHeld = true then notNow "the reset is held before its release stages"
    else if found.all (foundNow r) = false then notNow "this stage finds no such thing"
    else if r.stage = 2 ∧ s.clk.present = false then
      if r.refLost then notNow "stage 2 waits for REFCLK"
      else .next (((s.withSup { s.sup with reset := some { r with refLost := true } }).log { code := 0x5006, alert := true }).alert 1)
    else if 3 ≤ r.stage ∧ s.clk.elapsed < r.opens then notNow "the release gap has not passed"
    else
      let s1 := found.foldl (fun st f => st.stageFound ((st.sup.reset).getD r) f) s
      let q := (s1.sup.reset).getD r
      if s1.sup.stopped then .next s1
      else
        let s2 := s1.stageEffect q
        match q.next with
        | none => .next (s2.finishReset q)
        | some k =>
          .next (s2.withSup { s2.sup with reset := some { q with stage := k, opens := s2.clk.elapsed + s2.sup.opts.gap },
                                          stage := if q.level ≤ 1 then k else s2.sup.stage })

/-- A target whose stage has failed leaves the reset; with none left, the reset is over. -/
def State.dropTarget (s : State) (r : ResetRun) (code : Nat) : State :=
  let ts := r.targets.filter (fun t => t.die != code)
  let c := s.recov
  let cs := (r.targets.filter (fun t => t.die == code)).flatMap (coresOf r.level)
  let s1 := s.withRecov { c with offCore := SMap.keep (fun x => !cs.contains x) c.offCore }
  s1.withSup { s1.sup with reset := if ts.isEmpty then none else some { r with targets := ts } }

/-- A stage exceeds its bound (R429). A C-die has failed, or at L4 the core (R319); an M-die or N-die is a hardware fault; stage 1 or 2 leaves the module
there. -/
def execResetStageFailed (die : Nat) (s : State) : Out :=
  match s.sup.reset with
  | none => notNow "no reset is in progress"
  | some r =>
    let mine := r.targets.any (fun t => t.die == die)
    if s.sup.stopped = true ∨ s.resetHeld = true then notNow "no stage is running"
    else if r.stage = 1 ∨ r.stage = 2 then
      .next (((s.withSup { s.sup with stopped := true }).logFreeze { code := 0x100B, alert := true, detail := leBytes 1 r.stage ++ leBytes 1 0x30 }).alert 7)
    else if (if r.level ≤ 1 then stageOfDie r.stage die else mine) = false then notNow "this die is not in the scope of the stage"
    else
      let s1 := s.logFreeze { code := 0x100B, source := s.targetSource 2 { die := die, cluster := 0, core := 0 }, detail := leBytes 1 r.stage ++ leBytes 1 die }
      if die < 8 then
        if r.level = 4 then
          .next (((r.targets.filter (fun t => t.die == die)).flatMap (coresOf 4)).foldl State.failCore (s1.dropTarget r die))
        else if r.level ≤ 1 then .next (s1.failDie die)
        else .next ((s1.dropTarget r die).failDie die)
      else if r.level ≤ 1 then .next (s1.hwFault 0x100B)
      else .next ((s1.dropTarget r die).hwFault 0x100B)

/-! RESET_N (R421). -/

/-- RESET_N is low for at least 1 µs. -/
def execResetNLow (at' : Nat) (s0 : State) : Out :=
  let s := s0.advance at'
  if s.sup.resetNLow.isSome = true ∨ s.sup.pwrEn = false then notNow "RESET_N is low already, or the module is off"
  else .next ((s.withSup { s.sup with resetNLow := some s.clk.elapsed }).resetWhole fuResetN)

/-- The low has lasted 2 s: the source becomes reset_n_long. -/
def execResetNLong (s : State) : Out :=
  match s.sup.resetNLow, s.sup.reset with
  | some t, some r =>
    let s1 := s.advanceTo (t + 200000000)
    if s1.mapLevel fuResetLong < r.level then .next (s1.resetWhole fuResetLong)
    else .next s1
  | _, _ => notNow "RESET_N is not low"

/-- RESET_N returns high, and the reset proceeds. -/
def execResetNReleased (s : State) : Out :=
  if s.sup.resetNLow.isNone then notNow "RESET_N is not low" else .next (s.withSup { s.sup with resetNLow := none })

/-- No acknowledgement of the response to a RESET at L0 or L1 for 100 ms: the reset begins (R407). -/
def State.beginAsked (s : State) (level : Nat) : State := (s.withSup { s.sup with askReset := none }).beginReset fuCommand level ResetTarget.whole []

def execResetResponseTimeout (s : State) : Out :=
  match s.sup.askReset with
  | none => notNow "no RESET at L0 or L1 waits"
  | some a => .next ((s.advanceTo (a.2 + 10000000)).beginAsked a.1)

/-! Hangs and watchdogs (R34, R419, R422). -/

/-- The target code of a die given by its physical code; none for a die that is no active one. -/
def State.targetOf (s : State) (die : Nat) : Option Nat := if isCDie die then s.logicalOf die else if isMDie die ∨ isNDie die then some die else none

/-- Commas fall: the tick unit checks acknowledgements. -/
def State.commasFall (s : State) : Bool := s.inRun && s.clk.present && !s.clk.stopped && s.run.kind != .none

/-- A logical C-die whose swap has not brought in the spare. -/
def State.swapping (s : State) (code : Nat) : Bool :=
  match s.recov.swap with
  | some w => w.logical == code
  | none => false

/-- DIE_HANG with the error code, the low 32 bits of the comma and the level applied; it freezes the record. -/
def State.logHang (s : State) (die : Nat) (err : BitVec 32) (level : Nat) : State :=
  (s.logFreeze { code := 0x1004, source := die, alert := true, step := s.run.lag0.getD 0,
                 detail := leBytes 4 err.toNat ++ leBytes 4 (s.run.comma % 2 ^ 32) ++ leBytes 1 level }).alert 7

/-- A die misses the acknowledgement of the last comma: it is hung, and is reset as the tick_hang field gives. -/
def execAckMissed (die : Nat) (err : BitVec 32) (s0 : State) : Out :=
  match s0.targetOf die with
  | none => notNow "the tick unit does not check this die"
  | some code =>
    if s0.commasFall = false ∨ s0.inReset code = true ∨ s0.swapping code = true then notNow "the tick unit does not check this die now"
    else
      let s1 := (s0.advance (s0.run.clauseRef + 2000)).log { code := 0x5009, source := die, detail := leBytes 4 (s0.run.comma % 2 ^ 32) }
      let s2 := (s1.advance (s0.run.clauseRef + 2200)).logHang die err (dieLevel (s1.mapLevel fuTick))
      .next (s2.resetDie fuTick code true)

/-- The die's management agent misses two heartbeats. -/
def execDieWatchdog (die : Nat) (err : BitVec 32) (s : State) : Out :=
  match s.targetOf die with
  | none => notNow "no such active die"
  | some code =>
    if s.inReset code then notNow "a reset covers the die"
    else
      let s1 := s.logFreeze { code := 0x1005, source := die }
      .next ((s1.logHang die err (dieLevel (s1.mapLevel fuDieWatch))).resetDie fuDieWatch code true)

/-- A core's sequencer makes no progress for 1 ms: a second time within 600 s the core has failed (R319). -/
def execCoreWatchdog (core : Nat) (err : BitVec 32) (s : State) : Out :=
  let k := s.core core
  let busy := match k.entry with
    | some e => !e.stopped && k.wait.isNone
    | none => false
  if 512 ≤ core ∨ busy = false then notNow "no entry runs on this core, or it holds a WAIT"
  else
    let src := s.coreSource core
    let s1 := s.logFreeze { code := 0x1005, source := src, detail := leBytes 2 core }
    let s2 := s1.logHang src err (s1.mapLevel fuCoreWatch)
    let ts := twice s2.clk.elapsed (SMap.get [] s2.recov.expiries core)
    let s3 := s2.withRecov { s2.recov with expiries := SMap.insert s2.recov.expiries core ts }
    if 2 ≤ ts.length then .next (s3.failCore core) else .next (s3.resetCore core)

/-- Vuhal firmware fails to service its watchdog for 1 s. -/
def execManagementWatchdog (s : State) : Out :=
  if s.sup.pwrEn = false ∨ s.sup.stopped = true then notNow "the management processor does not run"
  else .next ((s.logFreeze { code := 0x1005 }).resetWhole fuManage)

/-- A safety trip: SAFETY_TRIP with its cause freezes the record, and the reset of the safety_trip field starts (R445). -/
def State.safetyTrip (s : State) (cause : Nat) : State := (s.logFreeze { code := 0x700D, detail := leBytes 2 cause }).resetWhole fuSafety

/-- The safety core fails to service its watchdog for 100 ms. -/
def execSafetyWatchdog (s : State) : Out :=
  if s.sup.pwrEn = false ∨ s.sup.standby = false then notNow "the safety core does not run"
  else .next ((s.logFreeze { code := 0x1005 }).safetyTrip 0x1005)

end Sys2Proof.Machine
end

