-- ==== Sys2Proof/Machine/Power.lean ====
section
/-!
DEFINITION. The 52 V input, power-on and power-down, the governor and the safety partition (17_reset_power_startup R433 to R441;
18_supervision_identity_attestation R443 to R445, R454 to R456).
-/

namespace Sys2Proof.Machine

/-! The 52 V input (R433). The conditions are numbered: 0 the operating range, 1 low, 2 high, 3 brown-out, 4 over-voltage. -/

/-- PWR_GOOD changes. -/
def State.setGood (s : State) (b : Bool) : State :=
  if s.sup.pwrGood = b then s else (s.withSup { s.sup with pwrGood := b }).emit (.pin 1 b)

def State.setInput (s : State) (k mv : Nat) : State := s.withSup { s.sup with input := k, mv := mv }

/-- Below 42 V for more than 50 µs, or below 38 V: the power stage turns off, and the reset is held at stage 0 until the condition ends. -/
def execBrownOut (mv : Nat) (s : State) : Out :=
  if s.sup.pwrEn = false ∨ s.sup.input = 3 ∨ 42000 ≤ mv then notNow "no brown-out begins"
  else .next ((((s.setInput 3 mv).setGood false).logFreeze { code := 0x7001, alert := true, detail := leBytes 4 mv }).alert 0 |>.resetWhole fuBrownOut)

/-- 42 V to 46 V. -/
def execInputLow (mv : Nat) (s : State) : Out :=
  if s.sup.pwrEn = false ∨ s.sup.input = 1 ∨ 3 ≤ s.sup.input ∨ mv < 42000 ∨ 46000 ≤ mv then notNow "the input does not become low"
  else .next (((s.setInput 1 mv).log { code := 0x7002, alert := true, detail := leBytes 4 mv }).alert 0)

/-- 56 V to 58 V. -/
def execInputHigh (mv : Nat) (s : State) : Out :=
  if s.sup.pwrEn = false ∨ s.sup.input = 2 ∨ 3 ≤ s.sup.input ∨ mv ≤ 56000 ∨ 58000 < mv then notNow "the input does not become high"
  else .next (((s.setInput 2 mv).log { code := 0x7003, alert := true, detail := leBytes 4 mv }).alert 0)

/-- Above 58 V for more than 50 µs: a safety trip. -/
def execOverVoltage (mv : Nat) (s : State) : Out :=
  if s.sup.pwrEn = false ∨ s.sup.input = 4 ∨ mv ≤ 58000 then notNow "no over-voltage begins"
  else .next ((((s.setInput 4 mv).setGood false).log { code := 0x7004, alert := true, detail := leBytes 4 mv }).alert 0 |>.safetyTrip 0x7004)

/-- The input has stayed within the operating range, with the 0.5 V of hysteresis, for 100 ms: the condition ends. -/
def execInputRecovered (mv : Nat) (s : State) : Out :=
  let low := s.sup.input = 1 ∨ s.sup.input = 3
  if s.sup.input = 0 ∨ mv < (if low then 46500 else 46000) ∨ (if low then 56000 else 55500) < mv then notNow "no input condition ends"
  else
    let s1 := s.setInput 0 mv
    .next (if s1.sup.pwrEn && s1.sup.standby then s1.setGood true else s1)

/-- Power-on (R434): the slot's straps are read, PWR_GOOD is asserted, and a reset at the power_on level starts at stage 0. -/
def execPwrEnAsserted (slot : Nat) (s : State) : Out :=
  if s.sup.pwrEn = true ∨ s.sup.standby = false ∨ 3 ≤ s.sup.input then notNow "the module cannot power up"
  else
    let s1 := s.withSup { s.sup with pwrEn := true, straps := slot % 64, reverse := false, reset := none, resetNLow := none }
    .next ((s1.setGood true).resetWhole fuPowerOn)

/-- Every port is down: the module is off. -/
def State.portsOff (s : State) : State :=
  let s1 := s.withFab { s.fab with ports := s.fab.ports.map (fun e => (e.1, coldPort e.2)) }
  (List.range 2).foldl (fun st p => st.setHostPort p { st.hostPort p with state := 0 }) s1

/-- PWR_EN is deasserted (R436): every entry and job stops as at a fence, the draw falls at the slew limit, and PWR_GOOD drops. -/
def execPowerDown (s : State) : Out :=
  if s.sup.pwrEn = false then notNow "PWR_EN is low already"
  else
    let s1 := (s.log { code := 0x7005 }).stopAll
    let s2 := (s1.withSup { s1.sup with pwrEn := false, reset := none, askReset := none, resetNLow := none, stage := 0 }).portsOff
    .next (s2.setGood false)

/-- Current flows back into the input: the blocker opens (R435). -/
def execReverseBlock (s : State) : Out :=
  if s.sup.reverse then notNow "the blocker is open" else .next ((s.withSup { s.sup with reverse := true }).log { code := 0x700B })

/-- The input falls below 20 V: the always-on rails drop, every sideband output is high-impedance, and both nutshell banks are lost (R456, R463). -/
def execStandbySupplyLost (s : State) : Out :=
  if s.sup.standby = false then notNow "the standby supply is down"
  else
    let s1 := (s.withNut { s.nut with live := [], frozen := [], archiving := none, lost := true }).portsOff
    let s2 := s1.withSup { s1.sup with standby := false, pwrGood := false, reset := none, askReset := none, resetNLow := none, stage := 0 }
    .next (((s2.withAlerts 0).emit (.pin 0 true)).emit (.pin 1 false))

/-- The input rises above 20 V: power-on for the sideband logic. The recorder's sequence restarts from 0 (R454), and the alert causes and load_starts are
at their reset values (R425, R467). With PWR_EN high the module is held at stage 0 of the power-on reset until the input recovers. -/
def execStandbySupplyUp (s : State) : Out :=
  if s.sup.standby then notNow "the standby supply is up"
  else
    let s1 := (s.withNut { s.nut with next := 0 }).withSup { s.sup with standby := true, input := 3, loadStarts := 0, restarts := [] }
    .next (if s1.sup.pwrEn then s1.resetWhole fuPowerOn else s1.withSup { s1.sup with input := 0 })

/-! The governor (R437 to R441). -/

/-- The ramp phase in force in µs (R439). -/
def State.phaseUs (s : State) : Nat := (s.sup.phase).getD (s.slotId * 64)

/-- In the first phase µs after each comma, or outside a run after each 10 ms of the reference count, the ceiling does not rise and the floor does not
fall. -/
def State.inPhase (s : State) : Bool :=
  decide ((if s.inRun then s.clk.ref - s.run.clauseRef else s.clk.ref % 1000000) < s.phaseUs * 100)

/-- A junction at 100 degrees, or a GDDR7 device above 95. -/
def sampleHot (x : PowerSample) : Bool := x.temps.any (fun t => decide (1600 ≤ t)) || x.mems.any (fun t => decide (1520 < t))

/-- What the ceiling may not exceed, in 10 mW: the cap, and 68 A at the present voltage. -/
def State.ceilingMax (s : State) (mv : Nat) : Nat := min (s.sup.cap * 100) (mv * 68 / 10)

/-- The ceiling after a sample (R438 to R440): it moves by at most the slew limit, down to what it may not exceed at any time, up on demand above it and
down on demand below the floor outside the phase. -/
def State.nextCeiling (s : State) (x : PowerSample) (d : Nat) : Nat :=
  let c := s.sup.ceiling
  let top := s.ceilingMax x.mv
  if top < c then max top (c - s.sup.slew)
  else if sampleHot x then max (min c 5000) (c - s.sup.slew)
  else if s.inPhase then c
  else if c < d then min top (c + s.sup.slew)
  else if d < s.sup.floor then max (min c 5000) (c - s.sup.slew)
  else c

/-- Flags bits 2:0 of *Power status*. -/
def State.limitBits (s : State) (x : PowerSample) (d : Nat) : Nat :=
  let c := s.sup.ceiling
  let top := s.ceilingMax x.mv
  bitNat (decide (top < c) || (decide (top ≤ c) && decide (c < d))) + 2 * bitNat ((decide (c < top) && decide (c < d)) || decide (d < s.sup.floor))
    + 4 * bitNat (sampleHot x)

/-- Log a limiting condition once in each window in which it holds (R440). -/
def State.logLimit (s : State) (on : Bool) (code : Nat) : State :=
  if !on || !s.inRun || s.sup.limLogged.contains code then s
  else (s.withSup { s.sup with limLogged := code :: s.sup.limLogged }).log { code := code, alert := code == 0x7009 }

/-- The means: 100 samples make a 1 ms mean, of which the last 100 are kept. -/
def Super.measure (u : Super) (x : PowerSample) : Super :=
  let ms := (x.mv * x.ma / 1000) :: u.mean
  let v := { u with mv := x.mv, ma := x.ma, watts := x.watts, temps := x.temps, memTemps := x.mems, energy := u.energy + x.mv * x.ma,
                    hot := x.temps.any (fun t => decide (1680 < t)) }
  if ms.length < 100 then { v with mean := ms }
  else
    let m := sumNat ms / 100
    { v with mean := [], means := (m :: u.means).take 100, peak := max u.peak m }

/-- A governor sample, every 10 µs. An input current above 75 A is a safety trip. -/
def execGovernorSample (x : PowerSample) (s : State) : Out :=
  if s.sup.pwrEn = false ∨ x.watts.length ≠ 8 ∨ x.temps.length ≠ 20 ∨ x.mems.length ≠ 8 then notNow "the governor takes no such sample"
  else
    let d := x.mv * x.ma / 10000
    let c := s.nextCeiling x d
    let bits := s.limitBits x d
    let u := s.sup.measure x
    let s1 := s.withSup { u with ceiling := c, floor := c - 5000, limiting := bits, ramps := if s.sup.ceiling < d then min 63 (u.ramps + 1) else u.ramps - 1 }
    let s2 := ((s1.logLimit (bit bits 0) 0x7007).logLimit (bit bits 1) 0x7008).logLimit (bit bits 2) 0x7009
    let s3 := if sampleHot x then s2.alert 2 else s2
    if 75000 < x.ma then .next (((s3.log { code := 0x7006, alert := true, detail := leBytes 4 x.ma }).alert 7).safetyTrip 0x7006)
    else .next s3

/-- A junction above 110 degrees for 1 ms is a safety trip (R441). -/
def execThermalTrip (die : Nat) (s : State) : Out :=
  if s.sup.pwrEn = false ∨ (isCDie die || isMDie die || isNDie die || die == srcS) = false then notNow "no such powered die"
  else .next ((((s.withSup { s.sup with hot := true }).log { code := 0x700A, source := die, alert := true }).alert 2).safetyTrip 0x700A)

/-! The safety partition (R443, R444). Items are numbered from 0 in the order of *Safety-held items* (log entry 50). -/

def itemCap : Nat := 0
def itemRamp : Nat := 2
def itemService : Nat := 8

/-- Whether the safety core applies a request. A ramp request carries the slew limit in bits 15:0 and the phase above, zero for the slot's. -/
def State.allows (s : State) (a : SafetyAsk) : Bool :=
  if a.item = itemCap then decide (1200 ≤ a.value ∧ a.value ≤ 3000)
  else if a.item = itemRamp then decide (100 ≤ a.value % 65536 ∧ a.value % 65536 ≤ s.sup.opts.slewMax) && decide (a.value / 65536 ≤ 10000)
  else if a.item = itemService then a.value == 1 || (a.value == 0 && !s.sup.hot && s.sup.input == 0)
  else false

def State.applyAsk (s : State) (a : SafetyAsk) : State :=
  if a.item = itemCap then s.withSup { s.sup with cap := a.value }
  else if a.item = itemRamp then
    s.withSup { s.sup with slew := a.value % 65536, phase := if a.value / 65536 = 0 then none else some (a.value / 65536) }
  else if a.value = 1 then s.goOutOfService 0
  else s.withSup { s.sup with returning := true }

/-- The command that carried a request gets its answer. -/
def State.answerAsk (s : State) (a : SafetyAsk) (r : Reply) : State :=
  match a.tenant with
  | some t => s.respond t r
  | none => s

/-- The safety core takes the oldest request and applies or refuses it. -/
def execSafetyRequest (s : State) : Out :=
  match s.sup.asks with
  | [] => notNow "the safety request queue is empty"
  | a :: rest =>
    let s1 := s.withSup { s.sup with asks := rest }
    if s1.allows a then .next ((s1.applyAsk a).answerAsk a { status := 0 })
    else .next ((s1.log { code := 0x700C, tenant := a.tenant.getD 0xFF, detail := leBytes 1 a.item ++ leBytes 4 a.value }).answerAsk a { status := 0x0203 })

/-- A write that reaches a safety register by another path is discarded, counted and logged (R443). -/
def execSafetyRegisterWrite (item : Nat) (value : BitVec 32) (s : State) : Out :=
  .next ((s.withSup { s.sup with refused := s.sup.refused + 1 }).log { code := 0x700C, detail := leBytes 1 item ++ leBytes 4 value.toNat })

/-- The archive of the frozen bank completes in the oldest of the three slots (R456). -/
def execArchiveDone (s : State) : Out :=
  match s.nut.archiving with
  | none => notNow "no archive is in progress"
  | some e =>
    let n := s.nut
    .next ((s.withNut { n with archiving := none, archives := ((e, n.frozen) :: n.archives).take 3, slot := (n.slot + 1) % 3 }).log
      { code := 0x1012, detail := leBytes 1 n.slot })

end Sys2Proof.Machine
end

