-- ==== Sys2Proof/Machine/Sideband.lean ====
section
/-!
DEFINITION. SMBus and JTAG (19_electrical_mechanical R466 to R468).
-/

namespace Sys2Proof.Machine

/-- The alert causes whose conditions hold now (*SMBus alert causes*, R467). -/
def State.alertsHeld (s : State) : Nat :=
  let u := s.sup
  let on := fun (b : Bool) (i : Nat) => if b then 2 ^ i else 0
  on (u.input != 0) 0 + on (!s.clk.present || decide (3 ≤ s.clk.slipRun) || s.frame.skewRuns.any (fun e => decide (3 ≤ e.2))) 1 + on (bit u.limiting 2 || u.hot) 2
    + on (s.fab.ports.any (fun e => e.2.state == 4 || e.2.quar) || s.mem.mdies.any (fun e => e.2.degraded)) 3 + on s.isFenced 4
    + on (u.optFault || !u.certBad.isEmpty || (u.stopped && u.stage == 1)) 5

/-- A read of SMBus code 0x02 returns the causes and clears those whose conditions have ended; ALERT_N is released when none is left. -/
def execAlertCausesRead (s : State) : Out :=
  if s.sup.standby = false then notNow "the SMBus logic has no supply"
  else
    let held := s.alertsHeld
    let s1 := (s.emit (.smbus (leBytes 4 (s.alerts ||| held)))).withAlerts held
    if held = 0 ∧ s.alerts ≠ 0 then .next (s1.emit (.pin 0 true))
    else if held ≠ 0 ∧ s.alerts = 0 then .next (s1.emit (.pin 0 false))
    else .next s1

/-- An SMBus write is not acknowledged after its command code, and changes nothing. -/
def execSmbusWrite (_code : Byte) (s : State) : Out := .next s

/-- BYPASS, and every instruction that is not listed. -/
def execBypass (_code : Nat) (s : State) : Out := .next s

/-- IDCODE shifts out the device code, which the spec does not give. -/
def execIdcode (s : State) : Out := .next (s.emit (.jtag (leBytes 4 Config.jtagIdcode.toNat)))

/-- The sideband and power-stage pins that boundary scan samples, in the order of *Sideband connector* (log entry 51). -/
def State.pins (s : State) : Nat :=
  bitNat s.sup.pwrEn + 2 * bitNat s.sup.pwrGood + 4 * bitNat (s.alerts == 0) + 8 * bitNat s.sup.resetNLow.isNone + 32 * s.sup.straps

/-- SAMPLE/PRELOAD samples the pins. -/
def execSamplePreload (s : State) : Out := .next (s.emit (.jtag (leBytes 2 s.pins)))

/-- EXTEST is refused while PWR_EN is high; otherwise it samples and drives the pins, and nothing of the module changes. -/
def execExtest (s : State) : Out := if s.sup.pwrEn then .next s else .next (s.emit (.jtag (leBytes 2 s.pins)))

end Sys2Proof.Machine
end

