-- ==== Sys2Proof/Machine/CmdTable.lean ====
section
/-!
DEFINITION. *Command summary* (16_vuhal_command_reference R378): opcode, expert form, roles, states and fixed payload of every command, and how a command
row runs a tenant's running submission (15_host_transport_mailboxes R367; 16 R380).
-/

namespace Sys2Proof.Machine

/-- A row of *Command summary*: the roles are tenants (Owner 0, Evaluator 1, Observer 2, Service 3) and the states module state codes, both as bit
masks. -/
structure CmdRow where
  opcode : Nat
  expert : Bool
  roles  : Nat
  states : Nat
  fixed  : Nat
  deriving DecidableEq, Repr

/-- "Any" is I, A, R, H and St. -/
def stAny : Nat := 31
def stF : Nat := 32
def stX : Nat := 64

def cmdTableA : List CmdRow :=
  [ ⟨0x0101, false, 7, stAny + stF, 8⟩, ⟨0x0102, false, 7, stAny + stF, 32⟩, ⟨0x0103, false, 7, stAny + stF, 8⟩, ⟨0x0201, false, 5, stAny, 0⟩,
    ⟨0x0202, false, 1, 19, 128⟩, ⟨0x0301, false, 15, stAny + stX, 0⟩, ⟨0x0302, false, 1, stAny, 16⟩, ⟨0x0304, false, 15, stAny + stX, 0⟩,
    ⟨0x0401, true, 3, stAny, 16⟩, ⟨0x0402, false, 3, stAny, 8⟩, ⟨0x0403, false, 1, stAny, 24⟩, ⟨0x0404, false, 1, stAny, 24⟩,
    ⟨0x0501, true, 1, stAny, 72⟩, ⟨0x0502, true, 1, stAny, 16⟩, ⟨0x0503, false, 3, stAny, 8⟩, ⟨0x0601, true, 1, stAny, 24⟩,
    ⟨0x0602, false, 1, stAny, 16⟩, ⟨0x0603, false, 5, stAny, 0⟩, ⟨0x0701, false, 1, 3, 8⟩, ⟨0x0702, false, 1, stAny, 8⟩,
    ⟨0x0703, false, 1, stAny, 16⟩, ⟨0x0704, true, 9, stAny + stX, 8⟩, ⟨0x0705, false, 1, 3 + stF, 0⟩, ⟨0x0801, false, 1, 14, 64⟩ ]

def cmdTableB : List CmdRow :=
  [ ⟨0x0802, false, 1, 3, 48⟩, ⟨0x0803, false, 1, 2, 16⟩, ⟨0x0804, false, 1, 4, 8⟩, ⟨0x0805, false, 1, 14, 24⟩, ⟨0x0806, false, 1, 4, 8⟩,
    ⟨0x0807, false, 5, stAny, 16⟩, ⟨0x0901, true, 1, stAny, 16⟩, ⟨0x0902, false, 7, stAny, 16⟩, ⟨0x0903, false, 1, stAny, 16⟩, ⟨0x0904, false, 1, 3, 8⟩,
    ⟨0x0A01, false, 1, 3, 8⟩, ⟨0x0A02, false, 1, 1, 8⟩, ⟨0x0A03, false, 1, 16, 48⟩, ⟨0x0A04, true, 9, stAny + stF, 0⟩, ⟨0x0A05, false, 9, stAny, 8⟩,
    ⟨0x0A06, false, 13, stAny + stF + stX, 8⟩, ⟨0x0A07, false, 1, stAny, 16⟩, ⟨0x0B01, true, 1, stAny, 64⟩, ⟨0x0B02, false, 1, 14, 8⟩,
    ⟨0x0B03, false, 13, stAny, 0⟩, ⟨0x0B04, false, 1, 3, 56⟩, ⟨0x0B05, false, 5, stAny, 0⟩ ]

def cmdTableC : List CmdRow :=
  [ ⟨0x0C01, false, 15, stAny + stF + stX, 8⟩, ⟨0x0C02, false, 15, stAny + stF + stX, 16⟩, ⟨0x0C03, false, 5, stAny + stF, 16⟩,
    ⟨0x0C04, false, 13, stAny + stF + stX, 0⟩, ⟨0x0D01, false, 9, stAny + stF + stX, 8⟩, ⟨0x0D02, false, 8, stAny + stF + stX, 8⟩,
    ⟨0x0D03, false, 9, stAny + stF + stX, 0⟩, ⟨0x0E01, false, 9, stAny + stF + stX, 4⟩, ⟨0x0E02, false, 9, stAny + stF + stX, 8⟩,
    ⟨0x0E03, false, 9, stAny + stF + stX, 8⟩, ⟨0x0E04, true, 9, stAny + stF + stX, 8⟩, ⟨0x0F01, false, 1, stAny, 8⟩, ⟨0x0F02, false, 13, stAny, 0⟩,
    ⟨0x0F03, true, 1, stAny, 8⟩, ⟨0x1001, false, 2, 12, 64⟩, ⟨0x1002, false, 2, stAny, 24⟩ ]

def cmdTable : List CmdRow := cmdTableA ++ cmdTableB ++ cmdTableC

/-- The row of an opcode; bit 15 selects the expert form, where there is one (R378). SESSION_OPEN is a transport frame and no mailbox command. -/
def cmdRow (op : Nat) : Option CmdRow := cmdTable.find? (fun r => r.opcode == op % 0x8000 && (decide (op < 0x8000) || r.expert))

/-- *Module states* codes. -/
def Mode.code : Mode → Nat
  | .idle => 0
  | .armed => 1
  | .running => 2
  | .held => 3
  | .standby => 4
  | .fenced => 5
  | .outOfService => 6

/-- The state check of a command (R380). -/
def State.stateOk (s : State) (op : Nat) : Bool :=
  match cmdRow op with
  | some r => bit r.states s.run.mode.code
  | none => false

/-! Replies. -/

def okReply : Reply := {}
def okWith (b : Bytes) : Reply := { payload := b }
def accepted : Reply := { status := 1 }
def badField (off : Nat) : Reply := { status := 0x0103, detail := off }
def badLength (off : Nat) : Reply := { status := 0x0102, detail := off }
def wrongState : Reply := { status := 0x0301 }
def busy : Reply := { status := 0x0302 }
def noResource : Reply := { status := 0x0402 }
def overQuota : Reply := { status := 0x0401 }

/-- The first check that fails, as a list of (condition, reply) in the order the spec gives them. -/
def firstFail : List (Bool × Reply) → Option Reply
  | [] => none
  | (b, r) :: rest => if b then some r else firstFail rest

/-- A tenant's running submission is this command with this payload, and has not started. -/
def State.runs (s : State) (op t : Nat) (p : Bytes) : Bool :=
  match (s.tenant t).running with
  | some q => q.opcode == op && q.payload.take q.len == p && !q.started
  | none => false

/-- Run a command of *Command summary*: its state check, then its own effect, which answers with a reply or waits for an event. -/
def hostCmd (op t : Nat) (p : Bytes) (body : State → State × Option Reply) (s : State) : Out :=
  if s.runs op t p = false then notNow "no running submission of this tenant is this command"
  else if s.stateOk op = false then .next (s.respond t wrongState)
  else
    match body s with
    | (s1, some r) => .next (s1.respond t r)
    | (s1, none) => .next (s1.setTenant t (fun x => { x with running := x.running.map (fun q => { q with started := true }) }))

/-- A command that only reads. -/
def readCmd (op t : Nat) (p : Bytes) (f : State → Reply) (s : State) : Out := hostCmd op t p (fun st => (st, some (f st))) s

end Sys2Proof.Machine
end

