-- ==== Sys2Proof/Machine/HostFrames.lean ====
section
/-!
DEFINITION. What arrives on the host ports and the turns of the mailboxes (15_host_transport_mailboxes R357 to R371; 01_module_overview R18). A frame is
given as the sender's address (MAC, IP address and UDP port, 24 bytes) and the UDP payload (log entry 43).
-/

namespace Sys2Proof.Machine

/-! Parsing (R359). -/

structure HostFrame where
  typ  : Nat
  chan : Nat
  kind : Nat
  session : Nat
  seq  : Nat
  ack  : Nat
  hdr  : Bytes
  body : Bytes
  tag  : Bytes
  deriving DecidableEq, Repr

/-- HELLO, CHALLENGE, OPEN and REFUSE carry no tag. -/
def untagged (typ : Nat) : Bool := typ == 1 || typ == 2 || typ == 3 || typ == 5

/-- A transport frame from a host: version, reserved bytes, lengths, and the channels and types that hosts send. -/
def hostFrame (p : Bytes) : Option HostFrame :=
  let len := field p 0x18 2
  let f : HostFrame := { typ := field p 1 1, chan := field p 2 1, kind := field p 3 1, session := field p 4 4, seq := field p 8 8, ack := field p 0x10 8,
                         hdr := p.take 32, body := slice p 32 len, tag := slice p (32 + len) 16 }
  let typOk := f.typ == 1 || f.typ == 3 || f.typ == 0x10 || f.typ == 0x11 || f.typ == 0x12
  let chanOk := if f.typ = 0x10 then f.chan == 0 || f.chan == 2 else f.chan == 0xFF
  let kindOk := (f.typ == 0x10 && f.chan == 2) || f.kind == 0
  let lenOk := p.length == 32 + len + (if untagged f.typ then 0 else 16)
  let bodyOk := f.typ == 0x10 || f.typ == 1 || f.typ == 3 || len == 0
  if field p 0 1 == 1 && allZero p 0x1A 6 && decide (len ≤ 4128) && typOk && chanOk && kindOk && lenOk && bodyOk && (!untagged f.typ || f.session == 0)
  then some f else none

/-- A host port takes frames; while an L0 or L1 reset is in progress no firmware answers them. -/
def State.hostPortUp (s : State) (p : Nat) : Bool := decide (p < 2) && (s.hostPort p).state == 2
def State.firmwareDown (s : State) : Bool :=
  match s.sup.reset with
  | some r => decide (r.level ≤ 1)
  | none => false

/-- What an arriving frame of a type does: nothing where the port is not UP, lost while no firmware runs, counted where its form is not allowed. -/
def takeFrame (port typ : Nat) (frame : Bytes) (s : State) (k : Bytes → HostFrame → State → State) : Out :=
  if s.hostPortUp port = false then notNow "the host port is not UP"
  else if s.firmwareDown then .next s
  else
    match hostFrame (frame.drop 24) with
    | none => .next (s.countHost port 0x18)
    | some f => if f.typ ≠ typ then notNow "the frame is of another type" else .next (k (fitTo 24 (frame.take 24)) f s)

/-! Opening a session (R362, R363). -/

def State.sendPlain (s : State) (p : Nat) (addr : Bytes) (typ : Nat) (body : Bytes) : State :=
  s.hostSend p addr (transportHeader typ 0xFF 0 0 0 0 body.length ++ body)

/-- A certificate in DER: a SEQUENCE, whose tag is 0x30 (R453, RFC 5280). -/
def certificateOf (i : Nat) : Bytes := 0x30#8 :: Config.certificateRest i

/-- The transport certificate, where it is not missing (R453). -/
def State.transportCert (s : State) : Bytes := if s.sup.certBad.contains 1 then [] else certificateOf 1

/-- HELLO is answered with CHALLENGE; a port holds up to 16 unused challenges. -/
def State.challenge (s : State) (port : Nat) (addr : Bytes) : State :=
  let c := (List.range 32).map (Config.freeByte s.fresh)
  let x := s.hostPort port
  let s1 := s.nextFree.setHostPort port { x with challenges := (x.challenges ++ [(c, s.clk.elapsed)]).drop (x.challenges.length - 15) }
  let cert := s.transportCert
  (s1.countHost port 0x08).sendPlain port addr 2 (c ++ fitTo 12 Config.serial ++ leBytes 2 cert.length ++ zeros 2 ++ cert)

def execHello (port : Nat) (frame : Bytes) (s : State) : Out :=
  takeFrame port 1 frame s (fun addr f s1 =>
    if f.body.length ≠ 16 ∨ 3 < field f.body 0 1 ∨ allZero f.body 1 15 = false then s1.countHost port 0x1C else s1.challenge port addr)

/-- REFUSE with a status; SESSION_REFUSED is logged at most once per port per second. -/
def State.refuseOpen (s : State) (port : Nat) (addr : Bytes) (status : Nat) : State :=
  let s1 := (s.countHost port 0x34).sendPlain port addr 5 (leBytes 2 status ++ zeros 14)
  let x := s1.hostPort port
  let again := match x.refusedAt with
    | some t => decide (s.clk.elapsed < t + cyclesS)
    | none => false
  if again then s1
  else (s1.setHostPort port { x with refusedAt := some s.clk.elapsed }).log { code := 0x6003, detail := leBytes 1 port ++ leBytes 2 status }

/-- The body of an OPEN is well formed (*Open body*). -/
def openFormed (b : Bytes) : Bool :=
  let n := field b 2 2
  decide (field b 0 1 ≤ 3) && allZero b 1 1 && allZero b 4 4 && decide (1 ≤ n ∧ n ≤ 2048) && b.length == 0x328 + n

/-- The checks of *Open refusals* in order: the status of the first that fails. `fresh` says that the challenge was unused and unexpired. -/
def State.openRefusal (s : State) (b : Bytes) (fresh : Bool) : Nat :=
  let t := field b 0 1
  let cert := b.drop 0x328
  let signed := b.take 0x1A8 ++ zeros 384 ++ cert
  let ofTenant := s.host.sessions.filter (fun x => x.tenant == t)
  if openFormed b = false then 0x0103
  else if s.sup.outOf = true ∧ t ≠ 3 then 0x0303
  else if s.sup.opts.anchors.getD t 0 = 0 then 0x0201
  else if (fresh && Config.chains t cert && Config.signatureOk cert (sha256 signed) (slice b 0x1A8 384)) = false then 0x0502
  else if (match Config.openSealed (slice b 0x28 384) with
    | some k => k.length == 32
    | none => false) = false then 0x0103
  else if 4 ≤ ofTenant.length ∨ 16 ≤ s.host.sessions.length then 0x0402
  else 0

/-- The number of a new session: a free value that is nonzero and in no use, as the first such number from a free start (R362, log entry 47). -/
def State.freeSession (s : State) : Nat :=
  let start := (Config.freeWord s.fresh).toNat % (2 ^ 32 - 17) + 1
  ((elems start 17).find? (fun i => s.host.sessions.all (fun x => x.id != i))).getD start

/-- A session opens: its keys, and OPEN_REPLY under the module's key. -/
def State.openSession (s : State) (port : Nat) (addr b : Bytes) : State :=
  let t := field b 0 1
  let k := (Config.openSealed (slice b 0x28 384)).getD []
  let c := slice b 8 32
  let keyIn := hmac256 k (ascii "halkel h2m" ++ c)
  let keyOut := hmac256 k (ascii "halkel m2h" ++ c)
  let id := s.freeSession
  let x := s.tenant t
  let body := leBytes 4 id ++ leBytes 1 t ++ leBytes 1 (x.quotaAt 0) ++ zeros 2 ++ leBytes 4 x.next ++ zeros 4
  let h := transportHeader 4 0xFF 0 id 0 0 body.length
  let reply := h ++ body ++ frameTag keyOut h body
  let ses : Session := { id := id, tenant := t, keyIn := keyIn, keyOut := keyOut, openBody := b, openAt := s.clk.elapsed, reply := reply, rxNext := 1, rxHeld := [],
                         txNext := 1, queue := [], unacked := [], progress := s.clk.elapsed, lastRx := s.clk.elapsed, timer := 2, sentAt := s.clk.elapsed,
                         addr := [(port, addr)], seen := [(port, s.clk.elapsed)], transfers := [], streams := [] }
  let s1 := s.nextFree.withHost { s.host with sessions := s.host.sessions ++ [ses] }
  ((s1.countHost port 0x08).hostSend port addr reply).log { code := 0x6001, tenant := t, detail := leBytes 4 id }

/-- An OPEN: a repeat within 1 s receives the same reply; a challenge serves one OPEN that reaches its check. -/
def State.takeOpen (s : State) (port : Nat) (addr b : Bytes) : State :=
  match s.host.sessions.find? (fun x => x.openBody == b && decide (s.clk.elapsed < x.openAt + cyclesS)) with
  | some x => (s.countHost port 0x08).hostSend port addr x.reply
  | none =>
    let c := slice b 8 32
    let x := s.hostPort port
    let good := x.challenges.any (fun e => e.1 == c && decide (s.clk.elapsed ≤ e.2 + cyclesS))
    let early := openFormed b = false ∨ (s.sup.outOf = true ∧ field b 0 1 ≠ 3) ∨ s.sup.opts.anchors.getD (field b 0 1) 0 = 0
    let s1 := if early then s else s.setHostPort port { x with challenges := x.challenges.filter (fun e => e.1 != c) }
    let st := s.openRefusal b good
    if st = 0 then s1.openSession port addr b else s1.refuseOpen port addr st

def execSessionOpen (port : Nat) (frame : Bytes) (s : State) : Out := takeFrame port 3 frame s (fun addr f s1 => s1.takeOpen port addr f.body)

/-! Acknowledgements (R306, R361, R369, R407). -/

/-- Frames up to a number are acknowledged: the timer returns to 2 ms, slots become free, and ledger entries count as read. A RESET at L0 or L1 whose
response is acknowledged begins. -/
def State.takeAck (s : State) (id ack : Nat) : State :=
  match s.session id with
  | none => s
  | some x =>
    let got := x.unacked.filter (fun f => decide (f.seq ≤ ack))
    if got.isEmpty then s
    else
      let s1 := s.setSession id (fun y => { y with unacked := y.unacked.filter (fun f => decide (ack < f.seq)), progress := s.clk.elapsed, sentAt := s.clk.elapsed,
                                                   timer := 2 })
      let slots := got.filterMap (fun f => f.slot)
      let reads := got.flatMap (fun f => f.ledger)
      let s2 := s1.setTenant x.tenant (fun y => { y with slots := y.slots.filter (fun e => !(slots.contains e.1 && e.2 == id)) })
      let s3 := s2.withLedger { s2.ledger with entries := s2.ledger.entries.map (fun e => if reads.contains e.seq then { e with read := true } else e) }
      let s4 := State.flushFrames x.queue.length (s3.refreshQuota x.tenant) id
      match got.any (fun f => f.reset), s4.sup.askReset with
      | true, some a => s4.beginAsked a.1
      | _, _ => s4

/-! Delivery (R361, R366, R371). -/

/-- An immediate answer: it consumes no sequence number and occupies no slot (R366). -/
def State.answerNow (s : State) (id t : Nat) (b : Bytes) (r : Reply) : State :=
  let s1 := s.setTenant t (fun x => { x with immediate := sat32 (x.immediate + 1) })
  s1.sendFrames id [responseFrame (responseBody (field b 0 2) (field b 2 1) 0 (field b 4 4) (field b 0x10 8) r) none r]

/-- A submission arrives (R366). One without a whole slot header is discarded; one whose header breaks *Slot header* is answered at once (log entry 52). -/
def State.submit (s : State) (id t : Nat) (b : Bytes) : State :=
  let x := s.tenant t
  let q := field b 4 4
  let slot := field b 2 1
  let d := (q + 2 ^ 32 - x.next) % 2 ^ 32
  if b.length < 32 then s
  else if 15 < slot then s.answerNow id t b (badField 2)
  else if allZero b 3 1 = false then s.answerNow id t b (badField 3)
  else if allZero b 0x0C 4 = false then s.answerNow id t b (badField 0x0C)
  else if allZero b 0x18 8 = false then s.answerNow id t b (badField 0x18)
  else if 16 ≤ d ∨ (x.waiting ++ x.running.toList).any (fun w => w.seq == q) = true then s.answerNow id t b { status := 0x0104 }
  else if (SMap.find? x.slots slot).isSome then s.answerNow id t b busy
  else if x.quotaAt 0 ≤ x.slots.length then s.answerNow id t b overQuota
  else
    let w : Submission := { tenant := t, session := id, opcode := field b 0 2, slot := slot, seq := q, len := field b 8 4, hostTag := field b 0x10 8,
                            carried := b.length - 32, payload := b.drop 32, started := false }
    s.setTenant t (fun y => { y with slots := SMap.insert y.slots slot id, waiting := y.waiting ++ [w], received := y.received + 1 })

/-- Bytes of a transfer land in what it writes: a region, or a husk entry that is still FEEDING (R285, R371). -/
def State.landBytes (s : State) (x : Transfer) (off : Nat) (data : Bytes) : State :=
  match x.use with
  | .husk step =>
    match s.huskSlot step with
    | none => s
    | some i =>
      match s.run.husk[i]? with
      | none => s
      | some h =>
        if h.state = .feeding then
          let r := s.run
          (s.withRun { r with husk := r.husk.set i { h with written := (x.base + off, data.length) :: h.written } }).writeMem (s.huskBase i + x.base + off) data
        else s
  | _ =>
    let a := x.base + off
    (s.withMem { s.mem with recast := SMap.keep (fun y => !decide (a ≤ y ∧ y < a + data.length)) s.mem.recast }).writeMem a data

/-- A bulk-in frame: its bytes land, or it is discarded and counted (R371). -/
def State.takeBulk (s : State) (port id kind : Nat) (b : Bytes) : State :=
  let num := field b 0 4
  let len := field b 4 2
  let off := field b 8 8
  let data := slice b 32 len
  let drop := s.countHost port 0x2C
  if b.length ≠ 32 + len ∨ 4096 < len then drop
  else if kind = 0 then
    match s.session id with
    | none => drop
    | some x =>
      match x.transfers.find? (fun t => t.number == num) with
      | none => drop
      | some t =>
        if t.len < off + len then drop
        else
          let t1 := { t with got := (off, len) :: t.got }
          let s1 := s.landBytes t off data
          if covered t1.got t.len then
            (s1.setSession id (fun y => { y with transfers := y.transfers.filter (fun z => z.number != num) })).evalTransferClosed t.use
          else s1.setSession id (fun y => { y with transfers := y.transfers.map (fun z => if z.number = num then t1 else z) })
  else
    let mine : Bool := if kind = 2 then (match s.ckpt.run with
        | some r => r.session == id && r.reading
        | none => false)
      else if kind = 3 then (match s.ckpt.restore with
        | some r => r.session == id
        | none => false)
      else false
    if mine then s.withCkpt { s.ckpt with inbox := s.ckpt.inbox ++ [{ kind := kind, stream := num, off := off, data := data }] } else drop

/-- Deliver one accepted frame to its channel. `w` holds its type, channel and bulk kind, then its body. -/
def State.deliverFrame (s : State) (port id : Nat) (w : Bytes) : State :=
  match s.session id with
  | none => s
  | some x =>
    if field w 0 1 = 0x12 then s.closeSession id closedByFrame
    else if field w 0 1 = 0x10 then (if field w 1 1 = 0 then s.submit id x.tenant (w.drop 3) else s.takeBulk port id (field w 2 1) (w.drop 3))
    else s

/-- Deliver the frames held, strictly in frame_seq order. -/
def State.deliverHeld : Nat → State → Nat → Nat → State
  | 0, s, _, _ => s
  | n + 1, s, port, id =>
    match s.session id with
    | none => s
    | some x =>
      match SMap.find? x.rxHeld x.rxNext with
      | none => s
      | some w =>
        let s1 := s.setSession id (fun y => { y with rxHeld := SMap.erase y.rxHeld y.rxNext, rxNext := y.rxNext + 1 })
        State.deliverHeld n (s1.deliverFrame port id w) port id

/-- ACK_ONLY, unless the session has sent another frame since (R361). -/
def State.ackBack (s : State) (id before : Nat) : State :=
  match s.session id with
  | none => s
  | some x =>
    if x.txNext ≠ before then s
    else s.sendFrames id [{ seq := 0, typ := 0x11, chan := 0xFF, kind := 0, body := [], slot := none, ledger := [], reset := false }]

/-- A frame with a wrong tag is dropped and counted; AUTH_DROP is logged at most once per port per second (R363). -/
def State.dropTag (s : State) (port : Nat) : State :=
  let s1 := s.countHost port 0x20
  let x := s1.hostPort port
  let again := match x.authAt with
    | some t => decide (s.clk.elapsed < t + cyclesS)
    | none => false
  if again then s1 else (s1.setHostPort port { x with authAt := some s.clk.elapsed }).log { code := 0x6004, detail := leBytes 1 port }

/-- A frame of a session: the tag, the window, the acknowledgement, and delivery in order. -/
def State.takeSession (s : State) (port : Nat) (addr : Bytes) (f : HostFrame) : State :=
  match s.session f.session with
  | none => s.countHost port 0x1C
  | some x =>
    if frameTag x.keyIn f.hdr f.body ≠ f.tag then s.dropTag port
    else
      let s1 := s.setSession x.id (fun y => { y with addr := SMap.insert y.addr port addr, seen := SMap.insert y.seen port s.clk.elapsed, lastRx := s.clk.elapsed })
      if f.seq < x.rxNext ∨ x.rxNext + 255 < f.seq then (s1.countHost port 0x24).ackBack x.id x.txNext
      else
        let w := leBytes 1 f.typ ++ leBytes 1 f.chan ++ leBytes 1 f.kind ++ f.body
        let s2 := (s1.countHost port 0x08).setSession x.id (fun y => { y with rxHeld := SMap.insert y.rxHeld f.seq w })
        let s3 := s2.takeAck x.id f.ack
        let s4 := State.deliverHeld 256 s3 port x.id
        if f.typ = 0x10 then s4.ackBack x.id x.txNext else s4

def execDataFrame (port : Nat) (frame : Bytes) (s : State) : Out := takeFrame port 0x10 frame s (fun addr f s1 => s1.takeSession port addr f)

/-- ACK_ONLY carries the peer's ack. -/
def execAckOnly (port : Nat) (frame : Bytes) (s : State) : Out := takeFrame port 0x11 frame s (fun addr f s1 => s1.takeSession port addr f)

/-- CLOSE closes its session at its turn in frame_seq order. -/
def execCloseFrame (port : Nat) (frame : Bytes) (s : State) : Out := takeFrame port 0x12 frame s (fun addr f s1 => s1.takeSession port addr f)

/-! Timers (R361). -/

/-- The oldest unacknowledged frame is sent again, and the timer doubles up to 64 ms. -/
def execTransportRetransmit (session : Nat) (at' : Nat) (s0 : State) : Out :=
  let s := s0.advance at'
  match s.session session with
  | none => notNow "no such session"
  | some x =>
    match x.unacked with
    | [] => notNow "nothing is unacknowledged"
    | f :: _ =>
      if s.clk.elapsed < x.sentAt + x.timer * cyclesMs then notNow "the retransmission timer has not expired"
      else
        let s1 := s.setSession session (fun y => { y with timer := min 64 (2 * y.timer), sentAt := s.clk.elapsed })
        .next ((s1.wireFrame x f).countHost (x.portFor s.clk.elapsed f.seq) 0x28)

/-- No acknowledgement progress for 30 s, or no frame of the session for 300 s. -/
def execSessionTimeout (session : Nat) (at' : Nat) (s0 : State) : Out :=
  let s := s0.advance at'
  match s.session session with
  | none => notNow "no such session"
  | some x =>
    let stuck := !x.unacked.isEmpty && decide (x.progress + 30 * cyclesS ≤ s.clk.elapsed)
    if (stuck || decide (x.lastRx + 300 * cyclesS ≤ s.clk.elapsed)) = false then notNow "the session has not timed out"
    else .next (s.closeSession session closedByTimeout)

/-! Frames of other kinds (R18, R357). -/

/-- A frame that no port accepts is dropped and counted. -/
def execHostFrameDropped (port : Nat) (s : State) : Out :=
  if s.hostPortUp port = false then notNow "the host port is not UP" else .next (s.countHost port 0x18)

/-- A host port's addresses: those of the configuration record in force, or the link-local address of R390. -/
def State.hostMac (s : State) (p : Nat) : Bytes :=
  match s.sup.config with
  | some _ => [0x02, 0x57, 0x51] ++ beBytes 2 s.modId ++ [BitVec.ofNat 8 (0x10 + p)]
  | none => [0x0A#8] ++ (sha256 (fitTo 12 Config.serial)).take 4 ++ [BitVec.ofNat 8 (0x10 + p)]

def State.hostIp6 (s : State) (p : Nat) : Bytes :=
  match s.sup.config with
  | some b => slice b (0x08 + 16 * p) 16
  | none =>
    let m := s.hostMac p
    [0xFE#8, 0x80#8] ++ zeros 6 ++ [m.getD 0 0 ^^^ 2#8] ++ slice m 1 2 ++ [0xFF#8, 0xFE#8] ++ slice m 3 3

def State.hostIp4 (s : State) (p : Nat) : Bytes :=
  match s.sup.config with
  | some b => slice b (0x28 + 4 * p) 4
  | none => zeros 4

/-- What a service frame asks, after its Ethernet header: 0 an address resolution or a solicitation for the port's own address, 1 an echo to it. -/
def State.serviceKind (s : State) (p : Nat) (frame : Bytes) : Option Nat :=
  let o := if slice frame 12 2 = [0x81#8, 0x00#8] then 16 else 12
  let et := slice frame o 2
  let q := frame.drop (o + 2)
  let four := s.hostIp4 p
  let six := s.hostIp6 p
  if et = [0x08#8, 0x06#8] then (if slice q 6 2 = [0x00#8, 0x01#8] ∧ slice q 24 4 = four ∧ allZero four 0 4 = false then some 0 else none)
  else if et = [0x08#8, 0x00#8] then
    (if slice q 9 1 = [0x01#8] ∧ slice q 16 4 = four ∧ allZero four 0 4 = false ∧ slice q 20 1 = [0x08#8] then some 1 else none)
  else if et = [0x86#8, 0xDD#8] ∧ slice q 6 1 = [0x3A#8] ∧ allZero six 0 16 = false then
    (if slice q 40 1 = [0x87#8] ∧ slice q 48 16 = six then some 0
     else if slice q 40 1 = [0x80#8] ∧ slice q 24 16 = six then some 1 else none)
  else none

/-- An address resolution, neighbour solicitation or echo frame for the port's own address is answered, echoes at most 100 a second; any other is dropped
and counted. The answer's bytes are those of the protocols named in R357. -/
def execHostPortServiceFrame (port : Nat) (frame : Bytes) (s : State) : Out :=
  if s.hostPortUp port = false then notNow "the host port is not UP"
  else
    let x := s.hostPort port
    let recent := x.echoes.filter (fun t => decide (s.clk.elapsed < t + cyclesS))
    match s.serviceKind port frame with
    | none => .next (s.countHost port 0x18)
    | some 0 => .next (s.emit (.host port (Config.serviceAnswer (s.hostMac port) frame)))
    | some _ =>
      if 100 ≤ recent.length then .next (s.countHost port 0x18)
      else .next ((s.setHostPort port { x with echoes := s.clk.elapsed :: recent }).emit (.host port (Config.serviceAnswer (s.hostMac port) frame)))

/-! Turns (R367, R368, R375). -/

/-- The tenant whose turn is next: the first in rotation that runs nothing and whose next sequence number waits. -/
def Tenant.due (x : Tenant) : Bool := x.running.isNone && x.waiting.any (fun w => w.seq == x.next)
def State.nextTenant (s : State) : Option Nat := ((List.range 4).map (fun i => (s.host.turn + i) % 4)).find? (fun t => (s.tenant t).due)

/-- The quota that a request would add to (R375). -/
def quotaAdded (q : Submission) : Option Nat :=
  match q.opcode % 0x8000 with
  | 0x0401 => some 1
  | 0x0C02 => if field q.payload 0 1 = 0 then some 2 else none
  | 0x1001 => if field q.payload 0x38 4 = 0 then none else some 3
  | _ => none

/-- The checks of R367 after the opcode, for a listed command: session, length, role, quota. -/
def State.turnReject (s : State) (q : Submission) (r : CmdRow) : Option Reply :=
  let us := s.uses q.tenant
  let full : Bool := match quotaAdded q with
    | some i => carries q.tenant i && decide ((s.tenant q.tenant).quotaAt i ≤ us.getD i 0)
    | none => false
  firstFail
    [ (decide (4096 < q.len) || decide (q.carried < q.len) || (r.fixed == 0 && q.len != 0) || decide (q.len < r.fixed), badLength 0),
      (!bit r.roles q.tenant || (decide (0x8000 ≤ q.opcode) && bit s.sup.opts.deny q.tenant), { status := 0x0201 }),
      (full, overQuota) ]

/-- The submission holding the tenant's next number takes its turn. One whose session has closed is rejected with SESSION_INVALID; one of an unlisted
opcode waits for the row that rejects it. -/
def execSubmissionTurn (t : Nat) (s : State) : Out :=
  if s.nextTenant ≠ some t then notNow "it is not this tenant's turn"
  else
    match (s.tenant t).waiting.find? (fun w => w.seq == (s.tenant t).next) with
    | none => notNow "the next sequence number does not wait"
    | some q =>
      let s1 := s.setTenant t (fun x => { x with waiting := x.waiting.erase q, running := some q })
      let s2 := s1.withHost { s1.host with turn := (t + 1) % 4 }
      if (s2.session q.session).isNone then .next (s2.respond t { status := 0x0202 })
      else
        match cmdRow q.opcode with
        | none => .next s2
        | some r =>
          match s2.turnReject q r with
          | some e => .next (s2.respond t e)
          | none => .next s2

/-- An opcode that the module does not implement is rejected with BAD_OPCODE (R378). -/
def execUnlistedOpcode (t : Nat) (s : State) : Out :=
  match (s.tenant t).running with
  | none => notNow "nothing of this tenant is at its turn"
  | some q => if (cmdRow q.opcode).isSome then notNow "the opcode is listed" else .next (s.respond t { status := 0x0101 })

end Sys2Proof.Machine
end

