-- ==== Sys2Proof/Machine/VerdictTree.lean ====
section
/-!
DEFINITION. The verdict tree (11_fabric_and_collectives R274, R277; 12_step_sealing_and_replay R294, R295; 13_mirror_spares_recovery R323): the fields
of the verdict record, their combination at a node, and what a module passes on. A node is kept by the module at its leftmost leaf (log entry 39).
-/

namespace Sys2Proof.Machine

/-! Fields of *Verdict record*. -/

def vFrame (r : Bytes) : Nat := field r 0x00 8
def vNumerics (r : Bytes) : Nat := field r 0x08 8
def vMembers (r : Bytes) : Nat := field r 0x10 8
def vOps (r : Bytes) : Nat := field r 0x18 8
def vFold (r : Bytes) : Nat := field r 0x20 8
def vSignal (r : Bytes) : Nat := field r 0x28 8
def vStep (r : Bytes) : Nat := field r 0x30 4
def vOverrun (r : Bytes) : Nat := field r 0x34 2
def vOccupancy (r : Bytes) : Nat := field r 0x36 2
def vConditions (r : Bytes) : Nat := field r 0x38 2
def vFailures (r : Bytes) : Nat := field r 0x3A 2
def vAction (r : Bytes) : Nat := field r 0x3C 1
def vKind (r : Bytes) : Nat := field r 0x3D 1
def vResolution (r : Bytes) : Nat := field r 0x3E 1
def vMismatch (r : Bytes) : Nat := field r 0x3F 1

/-- The record of given fields. -/
def verdictRecord (fc nc mc ops fold sig step o u cond fails action kind res mism : Nat) : Bytes :=
  leBytes 8 fc ++ leBytes 8 nc ++ leBytes 8 mc ++ leBytes 8 ops ++ leBytes 8 fold ++ leBytes 8 sig ++ leBytes 4 step ++ leBytes 2 o ++ leBytes 2 u
    ++ leBytes 2 cond ++ leBytes 2 fails ++ leBytes 1 action ++ leBytes 1 kind ++ leBytes 1 res ++ leBytes 1 mism

/-- The mismatch bits that two children set (R295). -/
def vDiffers (a b : Bytes) : Nat :=
  (if vFrame a = vFrame b then 0 else 1) + (if vNumerics a = vNumerics b then 0 else 2) + (if vMembers a = vMembers b then 0 else 4)
    + (if vStep a = vStep b ∧ vKind a = vKind b then 0 else 8) + (if vResolution a = vResolution b then 0 else 16)

/-- A node with two present children: `a` is the left one (R294, R295). -/
def combineRecords (a b : Bytes) : Bytes :=
  verdictRecord (vFrame a) (vNumerics a) (vMembers a) (vOps a + vOps b) (vFold a + vFold b) (vSignal a + vSignal b) (vStep a)
    (max (vOverrun a) (vOverrun b)) (max (vOccupancy a) (vOccupancy b)) (vConditions a ||| vConditions b) (vFailures a ||| vFailures b)
    (max (vAction a) (vAction b)) (vKind a) (vResolution a) (vMismatch a ||| vMismatch b ||| vDiffers a b)

/-- The ranks whose nodes are the right children of the nodes that a rank keeps, from the lowest level up. -/
def childrenOf (n r : Nat) : List Nat :=
  (List.range 14).filterMap (fun l => if r % 2 ^ (l + 1) = 0 ∧ r + 2 ^ l < n then some (r + 2 ^ l) else none)

/-- The rank that keeps the parent of a rank's highest node. -/
def parentOf (r : Nat) : Nat :=
  match (List.range 14).find? (fun l => r % 2 ^ (l + 1) ≠ 0) with
  | some l => r - 2 ^ l
  | none => 0

/-- A member's record that has arrived for the verdict in progress. -/
def State.exchFrom (s : State) (r : Nat) : Option Bytes := (s.fab.exch.find? (fun e => e.1 == r)).map (·.2)

/-- The number of the window whose verdict is in progress: that of the window, or of the one before where its record is still awaited (R297). -/
def State.verdictWindow (s : State) : Nat := if s.run.stalled then s.run.period else s.run.period + 1

/-- What a node has from one of its places: this module's own record, or a child's; nothing where it was missing at the cut-off. -/
def State.nodePart (s : State) (r : Nat) : Option Bytes :=
  if s.run.cut.contains r then none else if r = s.rank then s.run.ownRec else s.exchFrom r

/-- The places of this module's nodes, its own first. -/
def State.nodePlaces (s : State) : List Nat := s.rank :: childrenOf s.memberCount s.rank

/-- What this module passes on: the records present, combined in turn, with mismatch bit 2 set where one is missing; nothing where all are (R295,
R323). -/
def State.nodeValue (s : State) : Option Bytes :=
  match s.nodePlaces.filterMap s.nodePart with
  | [] => none
  | a :: rest =>
    let v := rest.foldl combineRecords a
    some (if s.run.cut.isEmpty then v else v.take 63 ++ leBytes 1 (vMismatch v ||| 4))

/-- Pass the value on when it is complete: to the parent, or, at rank 0, to every member as the combined record. -/
def State.passUp (s : State) : State :=
  if s.run.sentUp || s.nodePlaces.any (fun r => (s.nodePart r).isNone && !s.run.cut.contains r) then s
  else
    let s1 := s.withRun { s.run with sentUp := true }
    match s.nodeValue with
    | none => s1
    | some v =>
      let send := fun (st : State) (r : Nat) =>
        st.openSend { typ := tExchange, cls := 8, object := 0, window := s.verdictWindow % 2 ^ 32, lag := 1, dstRank := r, data := v, step := st.stepOfWindow s.verdictWindow 1 }
      if s.rank = 0 then
        let s2 := s1.withFab { s1.fab with exch := s1.fab.exch ++ [(0, v)] }
        (List.range (s.memberCount - 1)).foldl (fun st i => send st (i + 1)) s2
      else send s1 (parentOf s.rank)

/-- A verdict record arrives from another rank: a child's, or the combined one from rank 0. One for another window, or after the cut-off, is discarded
(R323). -/
def State.takeExchange (s : State) (rank window : Nat) (d : Bytes) : State :=
  if s.inRun = false ∨ d.length ≠ 64 ∨ window ≠ s.verdictWindow % 2 ^ 32 ∨ s.run.cut.contains rank = true ∨ (s.exchFrom rank).isSome = true then s
  else (s.withFab { s.fab with exch := s.fab.exch ++ [(rank, d)] }).passUp

end Sys2Proof.Machine
end

