-- ==== Sys2Proof/Machine/Fabric.lean ====
section
/-!
DEFINITION. What arrives at and happens on the fabric ports (11_fabric_and_collectives R251 to R270, R279; 02_clause_frame R43).
-/

namespace Sys2Proof.Machine

/-! Credits and acknowledgements. -/

/-- The peer's link_ack retires retained frames; progress clears the NAK count (R257, R258). A number is behind the acknowledgement when the distance
modulo 2^32 is below 2^31. -/
def seqBefore (a b : Nat) : Bool := let d := (b + 2 ^ 32 - a) % 2 ^ 32; decide (0 < d ∧ d < 2 ^ 31)

def Port.acknowledge (x : Port) (ack ref : Nat) : Port :=
  let keep := x.retry.filter (fun o => !seqBefore o.seq ack)
  if keep.length < x.retry.length then { x with retry := keep, nakAt := none, progress := ref } else x

/-- Credits that the peer returns. -/
def Port.credit (x : Port) (h : Bytes) : Port :=
  { x with back := (List.range 4).map (fun v => x.back.getD v 0 + field h (4 + v) 1) }

/-- A LINK_CONTROL frame of this port: its link_ack and the credits to return (R257, R260). -/
def State.linkControl (s : State) (p : Nat) : State :=
  let x := s.port p
  let h := withLink (makeHeader { typ := tLink, slice := 0, dst := 0, src := s.modId, epoch := 0, tag := 0, frag := 0, words := 0, object := 0, window := 0,
                                  flags := 0, cls := 0, rank := 0, offset := 0 }) x.toReturn 0 x.rxSeq
  (s.setPort p x.returnNow).emit (.fabric p (wire s.modId p x.peer { hdr := h, data := [] }))

/-- Discard a frame: the first discard after an accepted frame sends a NAK (R257). -/
def State.discard (s : State) (p : Nat) (nak : Bool) : State :=
  let x := s.port p
  if nak && !x.nakSent then (s.setPort p ({ x with nakSent := true }.count 0x28 1)).linkControl p else s

/-- Log an isolation or NO_ROUTE event once per port per period (R282). -/
def State.portLogOnce (s : State) (p code : Nat) (detail : Bytes) : State :=
  let x := s.port p
  if x.logged.contains code then s
  else (s.setPort p { x with logged := code :: x.logged }).log { code := code, source := srcN (p / 8), detail := leBytes 1 p ++ detail }

def State.countPort (s : State) (p off : Nat) : State := s.setPort p ((s.port p).count off 1)

/-! Acceptance. -/

/-- Header bytes after correcting their two codewords; `none` where one is uncorrectable (R255). -/
def fixHeader (h : Bytes) : Option Bytes :=
  match q144Fix (field h 0x10 16) (BitVec.ofNat 16 (field h 0x30 2)), q144Fix (field h 0x20 16) (BitVec.ofNat 16 (field h 0x32 2)) with
  | some a, some b => some (h.take 0x10 ++ leBytes 16 a ++ leBytes 16 b ++ h.drop 0x30)
  | _, _ => none

/-- The format checks of R256: addresses, EtherType, version, type, lane and reserved bits. -/
def formatOk (modId p : Nat) (eth h : Bytes) : Bool :=
  slice eth 0 6 == portMac modId p && slice eth 12 2 == [0x88#8, 0xB5#8] && field h 0 1 == 1
    && (match vcOf (hTyp h) with
        | some v => field h 2 1 == v + 4
        | none => false)
    && allZero h 3 1 && decide (hSlice h < 4096 ∧ hDst h < 16384 ∧ hSrc h < 16384 ∧ hWords h ≤ 256 ∧ hFlags h < 8 ∧ hRank h < 16384 ∧ hCls h ≤ 10)
    && allZero h 0x34 4

/-- Why an accepted frame is dropped, as the counter's offset (R256). -/
def State.dropReason (s : State) (p : Nat) (eth h0 : Bytes) : Except Nat (Bytes × RouteTable) :=
  match fixHeader h0 with
  | none => .error 0x44
  | some h =>
    if !formatOk s.modId p eth h then .error 0x44
    else
      let ts := s.sliceTables (hSlice h)
      if (s.port p).quar || !(match ts.current with
          | some c => bit c.allow p
          | none => false) then .error 0x38
      else
        match ts.ofEpoch (hEpoch h) with
        | none => .error 0x3C
        | some t => if hDst h = s.modId && t.members[hRank h]? != some (hSrc h) then .error 0x40 else .ok (h, t)

/-! Operations that arrive. -/

/-- An E2E_ACK frame for an operation: acknowledgement of the whole, or a NAK of one fragment (R263, log entry 26). -/
def State.sendAck (s : State) (h : Bytes) (nak : Option Nat) : State :=
  if s.isFenced then s else
  let dst := hSrc h
  match (s.sliceTables (hSlice h)).ofEpoch (hEpoch h) with
  | none => s
  | some t =>
    match s.routePort t dst (hCls h) (nak.getD 0) 0 with
    | none => s
    | some p =>
      let d := leBytes 1 (bitNat nak.isSome) ++ zeros 15
      s.sendOn p { hdr := makeHeader { typ := tAck, slice := hSlice h, dst := dst, src := s.modId, epoch := hEpoch h, tag := hTag h,
                                       frag := nak.getD 0, words := 1, object := 0, window := hWindow h, flags := bits (hFlags h) 0 0,
                                       cls := hCls h, rank := s.rank, offset := 0 }, data := d }

/-- The payload after correcting each codeword, how many were corrected, and whether all could be (R255, R263). -/
def fixPayload : Nat → Bytes → List (BitVec 16) → Bytes × Nat × Bool
  | 0, _, _ => ([], 0, true)
  | n + 1, d, cs =>
    let rest := fixPayload n (d.drop 16) (cs.drop 1)
    let w := leNat (d.take 16)
    match q144Fix w (cs.headD 0) with
    | some v => (leBytes 16 v ++ rest.1, rest.2.1 + bitNat (q144Decode w (cs.headD 0) != .noError), rest.2.2)
    | none => (zeros 16 ++ rest.1, rest.2.1, false)

def InOp.complete (o : InOp) : Bool :=
  match o.last with
  | some n => decide (o.frags.length = n + 1)
  | none => false

/-- A copy of the partner's husk entry: kept in the partner slot until the step seals (R286). It is recognised by the run ID in its header (log entry
28). -/
def State.takeHusk (s : State) (d : Bytes) : State :=
  match s.run.armed with
  | none => s
  | some a =>
    if decide (field d 8 16 = a.runId) && decide (d.length ≤ s.huskEntrySize) && decide (256 ≤ d.length) then
      match (List.range 3).find? (fun i => match s.run.husk[i + 3]? with
          | some h => h.state == .free || h.step == field d 0 8
          | none => false) with
      | none => s
      | some i =>
        let s0 := s.writeMem (s.huskBase (i + 3)) d
        let s1 := if s0.mem.bad.length < s.mem.bad.length then s0.log { code := 0x8005, step := field d 0 8 } else s0
        let slot : HuskSlot := { HuskSlot.blank with state := .closed, step := field d 0 8, samples := field d 0x28 4, input := field d 0x30 8 }
        s1.withRun { s1.run with husk := s1.run.husk.set (i + 3) slot }
    else s

/-- A member's pairing record: its rank, the rank it names as its partner, its job fold and its version (R312, R355, log entry 30). -/
def State.takePairing (s : State) (d : Bytes) : State :=
  let s1 := s.withRun { s.run with v0s := SMap.insert s.run.v0s (field d 0 2) (field d 16 8) }
  if s1.recov.partner = some (field d 0 2) then
    s1.withRecov { s1.recov with pairRec := some (field d 0 2, field d 2 2, BitVec.ofNat 64 (field d 8 8)) }
  else s1

/-- Deliver an operation whose last fragment has arrived (R263, R264). -/
def State.deliver (s : State) (o : InOp) : State :=
  let s1 := s.countOp o.step false o.object o.srcRank s.rank
  let s2 := s1.withFab { s1.fab with done := (o.srcMod * 2 ^ 32 + o.tag) :: s1.fab.done }
  if o.typ = tCollective then s2.takeColl o
  else if o.typ = tSignal then
    s2.withFab { s2.fab with signals := s2.fab.signals ++ [{ window := o.window, rank := o.srcRank, lag := o.lag, step := o.step, data := o.bytes }] }
  else if o.typ = tExchange ∧ o.cls = 8 then s2.takeExchange o.srcRank o.window o.bytes
  else if o.typ = tTransfer ∧ o.object = 1 then s2.answerPartner o.srcRank o.bytes
  else if o.typ = tTransfer ∧ o.object = 2 then s2.restoreAtom o.srcRank o.bytes
  else if o.typ = tTransfer ∧ o.object = 3 then s2.answerRefresh o.srcRank o.bytes
  else if o.typ = tTransfer then (if o.bytes.length = 24 then s2.takePairing o.bytes else s2.takeHusk o.bytes)
  else s2

/-- A fragment that arrives for this module (R263). -/
def State.fragment (s : State) (n : Nat) (h : Bytes) (d : Bytes) (checks : List (BitVec 16)) : State :=
  let p := fixPayload (hWords h) d checks
  if p.2.2 = false then (s.setNDie n ((s.ndie n).count 0x14 1)).sendAck h (some (hFrag h))
  else
    let s1 := if p.2.1 = 0 then s else s.setNDie n ((s.ndie n).count 0x10 p.2.1)
    let isOp := fun (o : InOp) => o.srcMod == hSrc h && o.tag == hTag h
    let old := s1.fab.ins.find? isOp
    let dup := s1.fab.done.contains (hSrc h * 2 ^ 32 + hTag h) || (match old with
      | some o => (SMap.find? o.frags (hFrag h)).isSome
      | none => false)
    if dup then s1.setNDie n ((s1.ndie n).count 0x18 1)
    else
      let lag := bits (hFlags h) 0 0
      let o := old.getD { srcMod := hSrc h, tag := hTag h, typ := hTyp h, cls := hCls h, object := hObject h, window := hWindow h, lag := lag,
                          srcRank := hRank h, frags := [], offs := [], last := none, step := s1.stepOfWindow (hWindow h) lag }
      let o1 := { o with frags := SMap.insert o.frags (hFrag h) p.1, offs := SMap.insert o.offs (hFrag h) (hOffset h),
                         last := if bit (hFlags h) 1 then some (hFrag h) else o.last }
      let others := s1.fab.ins.filter (fun q => !isOp q)
      if o1.complete then ((s1.withFab { s1.fab with ins := others }).sendAck h none).deliver o1
      else s1.withFab { s1.fab with ins := others ++ [o1] }

/-- A frame for this module, by its type. -/
def State.receive (s : State) (p : Nat) (before : Port) (h d : Bytes) (checks : List (BitVec 16)) : State :=
  let t := hTyp h
  if t = tAck then
    let fx := fixPayload (hWords h) d checks
    s.withFab { s.fab with acks := s.fab.acks ++ [(hTag h, if field fx.1 0 1 = 1 then some (hFrag h) else none)] }
  else if t = tTick then
    s.withFab { s.fab with ticks := s.fab.ticks ++ [{ port := p, data := (fixPayload (hWords h) d checks).1, accepted := before.accepted, back := before.back }] }
  else s.fragment (p / 8) h d checks

/-- Forward a transit frame under its own table; without a route or a live port it is dropped (R266, R267). -/
def State.forward (s : State) (p : Nat) (t : RouteTable) (h d : Bytes) : State :=
  let drop := (s.countPort p 0x48).portLogOnce p 0x3007 (leBytes 2 (hDst h))
  if s.isFenced && s.recov.noTransit then s.countPort p 0x48
  else
    match s.routePort t (hDst h) (hCls h) (hFrag h) (bits (hTag h) 12 0) with
    | none => drop
    | some q => s.sendOn q { hdr := h, data := d }

/-- A sequenced frame on a port: accepted in sequence or discarded with a NAK, without one where it is stomped, then delivered, forwarded or dropped
(R255 to R257, R259, R260). -/
def execSequencedFrame (port : Nat) (f : FabricFrame) (s : State) : Out :=
  let x := s.port port
  if 16 ≤ port ∨ x.state ≠ 2 then notNow "the port is not UP"
  else
    let eth := f.bytes.take 14
    let h := slice f.bytes 14 56
    let d := f.bytes.drop 70
    if f.fcsOk = false then .next ((s.countPort port 0x24).discard port (!f.stomp))
    else if hSeq h ≠ x.rxSeq then .next (s.discard port (!seqBefore (hSeq h) x.rxSeq))
    else
      let vc := hVc h
      let cost := ceilDiv (14 + 56 + 18 * hWords ((fixHeader h).getD h) + 4) 64
      let x1 := { x with rxSeq := (x.rxSeq + 1) % 2 ^ 32, nakSent := false, accepted := addAt x.accepted vc cost, owed := addAt x.owed vc cost }
      let x2 := ((x1.credit h).acknowledge (hAck h) s.clk.elapsed).count 0x10 1
      let s1 := (s.setPort port x2).flushPort port
      match s1.dropReason port eth h with
      | .error off =>
        let s2 := s1.countPort port off
        .next (if off = 0x44 then s2 else s2.portLogOnce port 0x3008 (leBytes 2 (hSlice h) ++ leBytes 2 (hSrc h)))
      | .ok (h', t) => .next (if hDst h' = s1.modId then s1.receive port x h' d f.checks else s1.forward port t h' d)

/-- LINK_CONTROL: an acknowledgement, a NAK that has every retained frame from its number resent in order, and returned credits (R257, R260). -/
def execLinkControl (port : Nat) (nak : Bool) (hdr : Bytes) (s : State) : Out :=
  let x := s.port port
  if 16 ≤ port ∨ x.state ≠ 2 then notNow "the port is not UP"
  else
    let x1 := (x.credit hdr).acknowledge (hAck hdr) s.clk.elapsed
    if nak = false then .next ((s.setPort port x1).flushPort port)
    else
      let times := match x1.nakAt with
        | some (n, k) => if n = hAck hdr then k + 1 else 1
        | none => 1
      let x2 := ({ x1 with nakAt := some (hAck hdr, times) }).count 0x2C x1.retry.length
      let s1 := x1.retry.foldl (fun (st : State) (o : OutFrame) => st.emit (.fabric port (wire st.modId port x1.peer o.frame))) (s.setPort port x2)
      .next (s1.flushPort port)

/-- After 500 ns without sending a frame to its peer, a port sends LINK_CONTROL (R257). -/
def execLinkIdleAck (port : Nat) (s : State) : Out :=
  if 16 ≤ port ∨ (s.port port).state ≠ 2 then notNow "the port is not UP" else .next (s.linkControl port)

/-- Sixteen NAKs of one number without progress, or 100 us without acknowledgement progress, retrain the port once in a second; sequence and credit
state are kept (R258). -/
def execFabricRetrain (port : Nat) (at' : Nat) (s0 : State) : Out :=
  let s := s0.advance at'
  let x := s.port port
  let naks := match x.nakAt with
    | some (_, k) => decide (16 ≤ k)
    | none => false
  let stuck := !x.retry.isEmpty && decide (x.progress + 10000 ≤ s.clk.elapsed)
  let again := match x.retrain with
    | some t => decide (s.clk.elapsed < t + 100000000)
    | none => false
  if 16 ≤ port ∨ x.state ≠ 2 ∨ (naks || stuck) = false ∨ again = true then notNow "no retrain is due on this port"
  else .next ((s.setPort port ({ x with retrain := some s.clk.elapsed, nakAt := none, progress := s.clk.elapsed }.count 0x30 1)).log
    { code := 0x3003, source := srcN (port / 8), detail := leBytes 1 port })

/-- The frames of a port that goes down are sent again on the live ports of their entries, in order of sequence (R268). -/
def State.reroute (s : State) (fs : List OutFrame) : State :=
  fs.foldl (fun st o =>
    let h := o.frame.hdr
    match (st.sliceTables (hSlice h)).ofEpoch (hEpoch h) with
    | none => st
    | some t =>
      match st.routePort t (hDst h) (hCls h) (hFrag h) (bits (hTag h) 12 0) with
      | some p => st.sendOn p o.frame
      | none =>
        match SMap.find? (st.ndie (bits (hTag h) 13 13)).slots (bits (hTag h) 12 0) with
        | some op => if hSrc h = st.modId ∧ op.tag = hTag h then st.abandonOp (bits (hTag h) 13 13) (bits (hTag h) 12 0) else st
        | none => st) s

/-- A full bring-up starts: the port is TRAINING; the fourth within 600 s makes it FAILED (R258, R268). -/
def State.bringUp (s : State) (p : Nat) : State :=
  let x := s.port p
  let recent := (s.clk.elapsed :: x.bringUps).filter (fun t => decide (s.clk.elapsed < t + 60000000000))
  let fs := x.retry ++ x.queue
  let x1 := { x with state := if 4 ≤ recent.length then 4 else 1, bringUps := recent, retry := [], queue := [], nakAt := none, retrain := none }
  let s1 := (s.setPort p (x1.count 0x34 1)).log { code := 0x3002, source := srcN (p / 8), detail := leBytes 1 p }
  let s2 := if 4 ≤ recent.length then
      (((s1.log { code := 0x3004, source := srcN (p / 8), alert := true, detail := leBytes 1 p }).alert 3).report 0x0603 0x3004 (leBytes 1 p))
    else s1
  s2.reroute fs

/-- A second retrain within 1 s, or a failed retrain, starts a full bring-up; a failed full bring-up makes the port FAILED (R258). -/
def execFabricPortDown (port : Nat) (at' : Nat) (s0 : State) : Out :=
  let s := s0.advance at'
  let x := s.port port
  let again := match x.retrain with
    | some t => decide (s.clk.elapsed < t + 100000000)
    | none => false
  if 16 ≤ port then notNow "no such port"
  else if x.state = 2 ∧ again = true then .next (s.bringUp port)
  else if x.state = 1 then
    .next ((((s.setPort port { x with state := 4 }).log { code := 0x3004, source := srcN (port / 8), alert := true, detail := leBytes 1 port }).alert
      3).report 0x0603 0x3004 (leBytes 1 port))
  else notNow "the port is neither retraining nor in a full bring-up"

/-- The peer that a neighbour payload names (*Neighbour payload*). -/
def peerOf (d : Bytes) : Peer := { modId := bits (field d 0 2) 13 0, port := field d 2 1, slot := bits (field d 4 1) 5 0, serial := slice d 8 12 }

/-- A full bring-up completes: the delay is measured, the sequence numbers and credit counters are zero, and the port is UP (R261, R279). It runs after
stage 4 of a reset that covers the N-die (R428). -/
def execFabricPortUp (port : Nat) (delay : Nat) (peer : Bytes) (s : State) : Out :=
  let x := s.port port
  if 16 ≤ port ∨ ¬ (x.state = 0 ∨ x.state = 1) ∨ s.nDieUp (port / 8) = false then notNow "the port is not in a full bring-up"
  else
    let x1 : Port := { Port.blank with state := 2, delay := delay, peer := some (peerOf peer), bringUps := x.bringUps, cnt := x.cnt, logged := x.logged,
                                       quar := x.quar, progress := s.clk.elapsed, auditBad := x.auditBad }
    .next ((s.setPort port x1).log { code := 0x3001, source := srcN (port / 8), detail := leBytes 1 port ++ peer.take 2 })

/-- The latched SLOT_ID is part of every neighbour frame (R279, R464). -/
def neighbourPayload (s : State) (p kind : Nat) (t1 t2 t3 : Nat) : Bytes :=
  leBytes 2 s.modId ++ leBytes 1 p ++ leBytes 1 kind ++ leBytes 1 s.slotId ++ zeros 3 ++ fitTo 12 Config.serial ++ zeros 4 ++ leBytes 8 t1 ++ leBytes 8 t2
    ++ leBytes 8 t3 ++ zeros 16

def State.sendNeighbour (s : State) (p : Nat) (d : Bytes) : State :=
  let h := makeHeader { typ := tNeighbour, slice := 0, dst := 0, src := s.modId, epoch := 0, tag := 0, frag := 0, words := 4, object := 0, window := 0, flags := 0,
                        cls := 0, rank := 0, offset := 0 }
  s.emit (.fabric p (wire s.modId p none { hdr := h, data := d }))

/-- A neighbour frame shows the peer; a delay request is answered with its own t1 and the counts of its arrival and of the answer (R279). -/
def execNeighbour (port : Nat) (payload : Bytes) (s : State) : Out :=
  let x := s.port port
  if 16 ≤ port ∨ ¬ (x.state = 1 ∨ x.state = 2) then notNow "the port is neither UP nor TRAINING"
  else
    let s1 := s.setPort port { x with peer := some (peerOf payload) }
    .next (if field payload 3 1 = 1 then
      s1.sendNeighbour port (neighbourPayload s1 port 2 (field payload 0x18 8) (s1.clk.ref * 8) (s1.clk.ref * 8)) else s1)

/-- Once a second every UP or TRAINING port sends an announce frame (R279). -/
def execNeighbourAnnounce (port : Nat) (s : State) : Out :=
  let x := s.port port
  if 16 ≤ port ∨ ¬ (x.state = 1 ∨ x.state = 2) then notNow "the port is neither UP nor TRAINING"
  else .next (s.sendNeighbour port (neighbourPayload s port 0 0 0 0))

/-- A PAUSE or other MAC control frame, or an unsequenced frame that is not allowed, is discarded and counted, on a fabric port (R251, R256) or on a
host port, 16 for H0 and 17 for H1 (R357, R376). -/
def execMacControlFrame (port : Nat) (control : Bool) (s : State) : Out :=
  if 18 ≤ port then notNow "no such port"
  else if 16 ≤ port then .next (s.countHost (port - 16) 0x30)
  else .next (s.countPort port (if control then 0x4C else 0x44))

/-! End-to-end acknowledgement. -/

/-- Resend a fragment, or abandon the operation where it would be its fifth send (R263). -/
def State.resend (s : State) (n slot f : Nat) (nak : Bool) : State :=
  match SMap.find? (s.ndie n).slots slot with
  | none => s
  | some o =>
    let x := s.ndie n
    let s1 := s.setNDie n { x with slots := SMap.insert x.slots slot { o with nak := nak } }
    if 4 ≤ o.sends.getD f 0 then s1.abandonOp n slot else s1.sendFragment n slot f true

/-- An end-to-end acknowledgement completes its operation; a NAK has the fragment resent (R262 to R264). -/
def execE2eAck (tag : Nat) (nak : Option Nat) (s : State) : Out :=
  if s.fab.acks.contains (tag, nak) = false then notNow "no such acknowledgement has been delivered"
  else
    let s1 := s.withFab { s.fab with acks := s.fab.acks.erase (tag, nak) }
    let n := bits tag 13 13
    let slot := bits tag 12 0
    match SMap.find? (s1.ndie n).slots slot with
    | none => .next s1
    | some o =>
      if o.tag ≠ tag then .next s1
      else
        match nak with
        | none => .next (s1.finishOp n slot)
        | some f => .next (s1.resend n slot f true)

/-- Fragments unacknowledged 1 ms after the last was sent are sent again (R263). -/
def execOperationResend (ndie : Nat) (slot : Nat) (at' : Nat) (s0 : State) : Out :=
  let s := s0.advance at'
  match SMap.find? (s.ndie ndie).slots slot with
  | none => notNow "no operation holds this slot"
  | some o =>
    if s.clk.elapsed < o.lastSent + 100000 then notNow "the operation is not due to be resent"
    else .next ((List.range o.frags.length).foldl (fun st f => st.resend ndie slot f false) s)

/-! Tick checks. -/

def absDiff (a b : Nat) : Nat := if a < b then b - a else a - b

/-- A tick check frame: the skew offset in units of 1.25 ns, counted beyond the limit; ten times the limit at three consecutive periods is a fault to
report as a deadline miss; and the credit audit of the link (R43, R261). `at'` is the count at reception in the same units. -/
def execTickCheck (port : Nat) (at' : Nat) (payload : Bytes) (s : State) : Out :=
  match s.fab.ticks.find? (fun t => t.port == port && t.data == payload) with
  | none => notNow "no such tick check frame has been accepted"
  | some t =>
    let s1 := s.withFab { s.fab with ticks := s.fab.ticks.erase t }
    let x := s1.port port
    let off := absDiff at' (field payload 8 8 + x.delay)
    let f := s1.frame
    let beyond := decide (f.skewLimit * 4 < off * 5)
    let far := decide (f.skewLimit * 40 < off * 5)
    let n := if far then SMap.get 0 f.skewRuns port + 1 else 0
    let f1 := { f with skews := if beyond then sat32 (f.skews + 1) else f.skews, skewRuns := SMap.insert f.skewRuns port n,
                       skewFault := f.skewFault || n == 3 }
    let s2 := s1.withFrame f1
    let s3 := if n = 3 then (s2.log { code := 0x5007, alert := true, detail := leBytes 1 port ++ leBytes 4 off }).alert 1 else s2
    let bad := (List.range 4).any (fun v => t.accepted.getD v 0 != field payload (0x10 + 8 * v) 8 || t.back.getD v 0 != field payload (0x30 + 8 * v) 8
      || decide (vcGrant v < x.accepted.getD v 0 - x.returned.getD v 0))
    if bad then
      let y := s3.port port
      .next (((s3.setPort port ({ y with auditBad := some s3.clk.ref }.count 0x54 1)).log { code := 0x3005, source := srcN (port / 8), detail := leBytes 1 port }).bringUp
        port)
    else .next s3

end Sys2Proof.Machine
end

