-- ==== Sys2Proof/Machine/Steps.lean ====
section
/-!
DEFINITION. What happens to a step at a period (12_step_sealing_and_replay R287 to R302): it begins, it seals, it is replayed, or the run holds or ends;
with the rollback of the weight pairs (09_near_memory_engines R211) and of the mirrors (13_mirror_spares_recovery R316).
-/

namespace Sys2Proof.Machine

/-! A step that misses its deadline or fails an entry. -/

/-- A deadline miss: logged once in a window for the step, which does not seal (R36, R47). -/
def State.missDeadline (s : State) (step : Nat) : State := (s.failStep step fDeadline).logStepKey (s.run.period + 1) { code := 0x5004, step := step }

/-! Beginning (R213, R284, R287). -/

/-- The segment counters of a step's parity return to zero (R213). -/
def State.clearSegs (s : State) (step : Nat) : State :=
  s.withMem { s.mem with segs := SMap.keep (fun k => decide (k / 8589934592 ≠ step % 2)) s.mem.segs }

/-- The module's fields of a husk entry's header: scale_count, policy_tag and scale_state (R284). -/
def State.writeHusk (s : State) (step : Nat) : State :=
  match s.huskSlot step with
  | none => s
  | some i =>
    let r := s.stepRec step
    let b := s.huskBase i
    ((s.writeMem (b + 0x2C) (leBytes 4 r.scale.length)).writeMem (b + 0x48) (leBytes 8 (s.policyOf step).tag)).writeMem (b + 0x100) (scaleRecords r.scale)

def State.setSlot (s : State) (i : Nat) (f : HuskSlot → HuskSlot) : State := s.withRun { s.run with husk := s.run.husk.modify i f }

/-- Whether the own entry of a step is CLOSED or ACTIVE. -/
def State.fed (s : State) (step : Nat) : Bool :=
  match s.huskSlot step with
  | none => false
  | some i => match s.run.husk[i]? with
    | some h => h.state == .closed || h.state == .active
    | none => false

/-- The lag-0 step of a window begins: its numerics are fixed, its segment counters are cleared, and its husk entry becomes ACTIVE. An entry that is not
CLOSED runs none of the step's lag-0 work, sets FEED and logs FEED_LATE (R287). -/
def State.beginStep (s : State) (step : Nat) : State :=
  let s1 := (s.beginNumerics step).clearSegs step
  if s1.fed step then
    let s2 := match s1.huskSlot step with
      | some i => s1.setSlot i (fun h => { h with state := .active })
      | none => s1
    (s2.withRun { s2.run with noLag0 := false }).writeHusk step
  else ((s1.withRun { s1.run with noLag0 := true }).failStep step fFeed).logStepOnce { code := 0x5012, step := step }

/-! Stopping the work of steps (R243, R299 item 1). -/

/-- Entries that work for a training step, and whose work a replay or the end of a run stops. -/
def EntrySt.training (e : EntrySt) : Bool :=
  let c := e.entry.cls
  c == clsCore || c == clsOpt || c == clsMirror || c == clsColl

/-- A core's training entry of such a step stops, and every object the core owns is poisoned. -/
def State.stopTraining (s : State) (p : Nat → Bool) (c : Nat) : State :=
  match (s.core c).entry with
  | some e => if e.isEval || !p e.step then s else (s.clearEntry c).poisonOwned c
  | none => s

/-- Every entry, collective, job and operation of the steps stops or is abandoned without being counted. -/
def State.stopSteps (s : State) (p : Nat → Bool) : State :=
  let s1 := s.withRun { s.run with entries := s.run.entries.map (fun e =>
    if e.2.training && p e.2.step && e.2.open_ then (e.1, { e.2 with state := .skipped }) else e) }
  let s2 := (s1.cores.map (·.1)).foldl (State.stopTraining · p) s1
  let s3 := (s2.stopJobs (fun r => p r.step)).dropOpsOf p
  let f := s3.fab
  let m := s3.mem
  let mine := fun (d : Delivery) => !p d.step
  (s3.withFab { f with colls := f.colls.filter (fun e => !p e.2.step),
                       early := f.early.filter (fun o => match o.step with
                         | some k => !p k
                         | none => true) }).withMem
    { m with adds := m.adds.filter (fun q => !p q.step), early := m.early.filter mine, waiting := m.waiting.filter (fun x => mine x.1), outbox := m.outbox.filter mine }

/-! Rollback (R211, R299 item 2, R316, R317). -/

def dropAbove (v : Nat) (x : PlaneState) : PlaneState :=
  match x with
  | .writing w => if v < w then .empty else x
  | .held w => if v < w then .empty else x
  | .empty => .empty

/-- A pair on one M-die rolls back to a version: buffers above it become EMPTY, and a WC plane that does not hold it is rebuilt. -/
def PairDie.rollback (d : PairDie) (v : Nat) : PairDie :=
  let e : PairDie := { d with buf0 := dropAbove v d.buf0, buf1 := dropAbove v d.buf1 }
  if d.wc = .held v ∧ d.rebuild = none then e else { e with wc := .writing v, rebuild := some v, done := 0 }

/-- Whether an atom of a pair's buffer that holds a version is uncorrectable. -/
def State.bufferHurt (s : State) (p : Nat) (j : Job) (v : Nat) : Bool :=
  let lo := s.regionBase p + bufferOff j.n (bufOf (s.v0 p) v)
  s.mem.bad.any (fun e => decide (lo ≤ 256 * e.1 + 255 ∧ 256 * e.1 < lo + stateBytes j.n))

/-- A mirror above the version becomes STALE and awaits its refresh; the owner sends its own, whose mirror stands as this one does (R316, log entry
45). -/
def State.rollMirror (s : State) (v : Nat) (e : Nat × Job) : State :=
  let stale : Bool := (match SMap.find? s.recov.mirror e.1 with
    | some (.held w) => decide (v < w)
    | some (.writing w) => decide (v < w)
    | some .stale => true
    | none => false)
  if stale && s.recov.partner.isSome then
    (s.withRecov { s.recov with mirror := SMap.insert s.recov.mirror e.1 .stale,
                                refreshing := if s.recov.refreshing.contains e.1 then s.recov.refreshing else s.recov.refreshing ++ [e.1] }).sendRefresh e.1 e.2 v
  else s

/-- Whether the WC plane is not the version's, so that it is rebuilt. -/
def PairDie.needsRebuild (d : PairDie) (v : Nat) : Bool := !(d.wc == .held v && d.rebuild.isNone)

def State.rollPair (s : State) (v : Nat) (e : Nat × Job) : State :=
  let s1 := (List.range 8).foldl (fun st m =>
    let d := st.pairDie e.1 m
    let st1 := st.setPairDie e.1 m (d.rollback v)
    if d.needsRebuild v then st1.noteRebuild e.1 v m else st1) s
  if s1.bufferHurt e.1 e.2 v && !s1.recov.lost then s1.shardLost else s1

def State.rollBack (s : State) (v : Nat) : State :=
  let ps := s.pairJobs
  ps.foldl (fun st e => st.rollMirror v e) (ps.foldl (fun st e => st.rollPair v e) s)

/-! Starting a step's records again (R299 item 3). What a replay keeps: the counts of attempts, the policy, the scale state and the formats, and which
events have been logged. -/

def StepRec.again (r : StepRec) : StepRec :=
  { StepRec.blank with attempts := r.attempts, failuresSeen := r.failuresSeen, lastFail := r.lastFail, lastAct := r.lastAct, policyReplays := r.policyReplays, overReplays := r.overReplays,
                       limitHit := r.limitHit, policy := r.policy, scale := r.scale, formats := r.formats, formatLog := r.formatLog, logged := r.logged,
                       decision := r.decision }

def State.restartStep (s : State) (step : Nat) : State :=
  if s.begun step then (s.mapStep step StepRec.again).clearSegs step else s.mapStep step StepRec.again

/-! The windows that follow (R32, R299 to R301, R401). -/

/-- What the next window runs. -/
structure Plan where
  kind : WindowKind
  lag0 : Option Nat
  lag1 : Option Nat
  deriving DecidableEq, Repr

def heldPlan : Plan := { kind := .held, lag0 := none, lag1 := none }

/-- After a window whose lag-0 step was `last`: the step after it, or the drain window where no new step may begin; none when the run ends. -/
def State.planAfter (s : State) (last : Option Nat) : Option Plan :=
  match last with
  | none => none
  | some l =>
    let stop : Bool := (match s.run.holdAt with
      | some h => decide (h ≤ s.run.period)
      | none => false) || (s.run.lastStep != 0 && decide (s.run.lastStep < l + 1))
    if stop && !s.begun (l + 1) then some { kind := .drain, lag0 := none, lag1 := some l }
    else some { kind := .normal, lag0 := some (l + 1), lag1 := some l }

/-- The run ends: what still runs for a step stops, a kind 4 entry is written, and the module is ARMED (R162, R301, R379, R401). -/
def State.endRun (s : State) (reason : Nat) : State :=
  let s0 := (s.stopSteps (fun _ => true)).appendEnd reason
  let s1 := s0.withRecov { s0.recov with pairRec := none }
  s1.withRun { s1.run with mode := .armed, kind := .none, lag0 := none, lag1 := none, nextComma := none, stalled := false, heldStep := none, 
                           record := none, ownRec := none, holdAt := none, missed := 0, v0s := [],
                           entries := s1.run.entries.filter (fun e => e.2.entry.cls == clsEval && e.2.open_) }

/-! Seal (R298). -/

/-- The slot of a sealed step, own and partner's, becomes FREE (R288). -/
def freeSlots (step : Nat) (l : List HuskSlot) : List HuskSlot := l.map (fun h => if h.state != .free && h.step == step then HuskSlot.blank else h)

/-- Step S seals. The step records below S − 1 are no longer needed. -/
def State.sealStep (s : State) (step interval next : Nat) (byResolution : Bool) : State :=
  let s1 := (s.withRun { s.run with sealed := step, heldStep := none }).sealNumerics step
  let s2 := s1.appendSeal step interval next byResolution
  let freed := (s2.run.husk.take 3).countP (fun h => h.state == .active && h.step == step)
  let s3 := s2.withRun { s2.run with husk := freeSlots step s2.run.husk, freedCnt := s2.run.freedCnt + freed }
  s3.withSteps (SMap.keep (fun k => decide (step ≤ k + 1)) s3.steps)

/-! Replay (R299). -/

/-- A replay of step S takes effect. -/
def State.replayStep (s : State) (step : Nat) : State :=
  let gone := fun (k : Nat) => k == step || k == step + 1
  let s1 := (s.noteStopped gone).stopSteps gone
  let s2 := (s1.restartStep step).restartStep (step + 1)
  let s3 := s2.rollBack (step - 1)
  (s3.withRun { s3.run with mode := .running, heldStep := none }).logStepOnce { code := 0x5010, step := step }

/-- The failed attempt is counted for the ledger (R308). -/
def State.countAttempt (s : State) (step : Nat) : State := s.mapStep step (fun r => { r with attempts := r.attempts + 1 })

/-! Hold (R296, R300). -/

/-- The run holds on a step. -/
def State.holdRun (s : State) (step : Nat) (rec : Bytes) : State :=
  let s1 := s.mapStep step (fun r => { r with failSums := vOps rec != 0 || vFold rec != 0 || vSignal rec != 0, failMismatch := vMismatch rec,
                                              failures := r.failures ||| vFailures rec })
  (s1.withRun { s1.run with mode := .held, heldStep := some step }).logStepOnce { code := 0x5011, step := step }

/-- NUMERICS_HOLD and NUMERICS_STOP report the condition mask (R162). -/
def State.numericsReport (s : State) (step code : Nat) (rec : Bytes) : State :=
  (s.logStepOnce { code := code, step := step, detail := leBytes 4 (vConditions rec) }).report 0 code (leBytes 4 (vConditions rec))

end Sys2Proof.Machine
end

