-- ==== Sys2Proof/Machine/Window.lean ====
section
/-!
DEFINITION. Commas and periods (02_clause_frame R26 to R45; 12_step_sealing_and_replay R289, R296 to R303; 16_vuhal_command_reference R381 to R383,
R397, R401, R415): clauses open and close, the verdict's decision takes effect, staged changes apply, and the next window opens.
-/

namespace Sys2Proof.Machine

/-! Clauses. -/

/-- Entries of the clause that closes and that have not finished. -/
def State.closing (s : State) (e : Nat × EntrySt) : Bool :=
  keyWindow e.1 == s.run.period + 1 && e.2.entry.clause == s.run.clause && e.2.live

/-- Under expert overrun mode every overrun raises DEADLINE_MISSED, and the step owning the entry does not seal (R41). -/
def State.expertOverrun (s : State) (e : Nat × EntrySt) : State :=
  let s1 := (s.log { code := 0x5004, step := e.2.step }).report 0x0702 0x5004 (leBytes 8 e.2.step)
  if e.2.training || e.2.entry.cls == clsVerdict then s1.failStep e.2.step fDeadline else s1

/-- A clause closes: entries still running overrun, and the first of a window is logged; checkpoint chunk entries end with their clause (R35, R345). -/
def State.closeClause (s : State) : State :=
  let late := s.run.entries.filter (fun e => s.closing e && e.2.entry.cls != clsCkpt)
  let s1 := s.withRun { s.run with entries := s.run.entries.map (fun e =>
    if s.closing e then (e.1, if e.2.entry.cls = clsCkpt then { e.2 with state := .skipped } else { e.2 with overran := true }) else e) }
  let s2 := (s1.withFrame { s1.frame with overruns := sat32 (s1.frame.overruns + late.length) }).closeChunks
  let s3 := match late with
    | e :: _ => s2.logWindowOnce { code := 0x5001, step := e.2.step }
    | [] => s2
  if s3.frame.expert then late.foldl State.expertOverrun s3 else s3

/-- The clause of the verdict entry. -/
def Table.verdictClause (t : Table) : Nat :=
  match t.entries.find? (fun e => e.cls == clsVerdict) with
  | some e => e.clause
  | none => 0

/-- The comma that opens the verdict clause: lag-1 entries of earlier clauses still running miss the deadline, O and U of the interval are taken, the
step's operation counts are latched, and operations of it that are still arriving are abandoned (R36, R37, R263, R264). -/
def State.latchVerdict (s : State) (clause t : Nat) : State :=
  let f := s.frame
  let s1 := (s.withFrame { f with repO := f.measO, repU := f.measU, measO := 0, measU := 0 }).withRun
    { s.run with auditRef := s.run.verdictRef, verdictRef := t }
  match s.run.lag1 with
  | none => s1
  | some k =>
    let late := s.run.entries.any (fun e => e.2.training && e.2.entry.lag == 1 && e.2.step == k && e.2.live
      && (decide (keyWindow e.1 < s.run.period + 1) || decide (e.2.entry.clause < clause)))
    let s2 := if late then s1.missDeadline k else s1
    let s3 := s2.withFab { s2.fab with ins := s2.fab.ins.filter (fun o => o.step != some k) }
    s3.mapStep k (fun r => { r with opsAt := r.ops })

/-- A clause opens at a reference count: its entries become ready, and an evaluation slot takes the latest sealed version (R31, R33). The partner is
asked for damaged atoms (R317). -/
def State.openClause (s : State) (c t : Nat) : State :=
  let v := match s.frame.table with
    | some tb => tb.verdictClause
    | none => 0
  let s1 := if c = v then s.latchVerdict c t else s
  let w := s1.run.period + 1
  (s1.withRun { s1.run with clause := c, clauseRef := t, entries := s1.run.entries.map (fun e =>
    if keyWindow e.1 = w ∧ e.2.entry.clause = c ∧ e.2.state = .waiting then
      (e.1, { e.2 with state := .ready, openRef := t, interval := s1.frame.interval, step := if e.2.entry.cls = clsEval then s1.run.sealed else e.2.step })
    else e) }).askPartner

/-! Opening a window. -/

/-- Whether a table entry runs in a window, and for which step (R32, R287, R289, R300, R311, R415). -/
def State.entryStep (s : State) (p : Plan) (ev : Bool) (e : TableEntry) : Option Nat :=
  if e.cls = clsVerdict then some (p.lag1.getD (s.run.heldStep.getD 0))
  else if e.cls = clsEval then (if ev then some s.run.sealed else none)
  else if e.cls = clsCkpt then (if s.ckpt.run.isSome then some s.run.sealed else none)
  else if e.lag = 0 then (if s.run.noLag0 then none else p.lag0)
  else
    match p.lag1 with
    | none => none
    | some k =>
      if e.cls = clsCore ∨ e.cls = clsColl then some k
      else if s.run.sealed + 1 ≠ k then none
      else if e.cls = clsMirror ∧ s.recov.partner = none then none
      else some k

def newEntry (w step : Nat) (e : TableEntry) (st : EntryState) : EntrySt :=
  { entry := e, step := step, window := w, state := st, started := [], done := [], openRef := 0, startRef := 0, overran := false, interval := 0 }

/-- The evaluation that the window runs: the oldest that is ready, where the table has slots for one (R415). -/
def State.pickEval (s : State) (w : Nat) : State :=
  let slots : Bool := match s.frame.table with
    | some t => t.entries.any (fun e => e.cls == clsEval)
    | none => false
  if slots = false then s
  else
    match s.evals.find? (fun v => v.phase == 0 && v.imageOpen.isNone && v.inputOpen.isNone) with
    | none => s
    | some v => s.setEval v.id (fun x => { x with phase := 1, window := w, version := s.run.sealed,
                                                  inDigest := sha256 (s.readMem (s.regionBase v.inputReg) v.inputBytes) })

/-- *Tick check payload* on every port of the slice that is UP (R43, R261). -/
def State.tickCheck (s : State) (t : RouteTable) (sl p : Nat) : State :=
  let x := s.port p
  let d := leBytes 8 s.run.period ++ leBytes 8 (s.clk.ref * 8 % 2 ^ 64) ++ x.spent.flatMap (leBytes 8) ++ x.returned.flatMap (leBytes 8)
  let dst := match x.peer with
    | some q => q.modId
    | none => 0
  s.sendOn p { hdr := makeHeader { typ := tTick, slice := sl, dst := dst, src := s.modId, epoch := t.epoch, tag := 0, frag := 0, words := 5, object := 0,
                                   window := s.window, flags := 2, cls := 8, rank := s.rank, offset := 0 }, data := padTo 16 d }

def State.tickChecks (s : State) : State :=
  match s.member, s.tableInForce with
  | some (sl, _), some t => (s.livePorts t.allow).foldl (fun st p => st.tickCheck t sl p) s
  | _, _ => s

/-- Whether some cluster cannot shadow in a window of probation (R336). -/
def State.unshadowable (s : State) : Bool := s.recov.probation && s.recov.spareUsed.any (fun e => e.2)

/-- The window that a period opens: its lag-0 step begins, its entries wait for their clauses, and clause 0 opens. `t` is the period's reference count. -/
def State.openWindow (s : State) (p : Plan) (t : Nat) : State :=
  let w := s.run.period + 1
  let s1 := s.withRun { s.run with kind := p.kind, lag0 := p.lag0, lag1 := p.lag1, noLag0 := false, record := none, stalled := false,
                                   exchanged := false, ownRec := none, sentUp := false, cut := [], windowLog := [], periodRef := t,
                                   nextComma := some (t + s.frame.interval * 100) }
  let s2 := match p.lag0 with
    | some k => s1.beginStep k
    | none => s1
  let f := s2.fab
  let s3 := (s2.withFab { f with exch := [], steps := SMap.insert (f.steps.filter (fun e => decide (w ≤ e.1 + 64))) (w % 2 ^ 32) (p.lag0, p.lag1),
                                 lasts := [], counted := 0, maxOffs := [],
                                 ports := f.ports.map (fun e => (e.1, { e.2 with logged := [] })) }).pickEval w
  let ev := s3.evals.any (fun v => v.phase == 1 && v.window == w)
  let tb := match s3.frame.table with
    | some x => x.entries
    | none => []
  let es := tb.zipIdx.foldl (fun (m : SMap EntrySt) e =>
    match s3.entryStep p ev e.1 with
    | some k => SMap.insert m (entryKey w e.2) (newEntry w k e.1 .waiting)
    | none => m) (s3.run.entries.filter (fun e => e.2.open_ || decide (w ≤ keyWindow e.1 + 1)))
  let c := s3.recov
  let s4 := (s3.withRun { s3.run with entries := es }).withRecov { c with unshadowed := if s3.unshadowable then sat32 (c.unshadowed + 1) else c.unshadowed }
  let h := s4.host
  let s5 := (s4.withHost { h with tenants := h.tenants.map (fun x => { x with rejLogged := false }) }).withSup { s4.sup with limLogged := [] }
  (s5.openClause 0 t).tickChecks

/-! The verdict's decision (R296, R301, R302). -/

/-- The row of *Verdict decision* that a combined record matches first. -/
def decisionRow (r : Bytes) : Nat :=
  if vMismatch r ≠ 0 then 1
  else if vKind r = 1 then 2
  else if vKind r = 2 then 3
  else if vAction r = 3 then 4
  else if vAction r = 2 ∨ bit (vFailures r) 9 = true then 5
  else if vFailures r ≠ 0 ∨ vOps r ≠ 0 ∨ vFold r ≠ 0 ∨ vSignal r ≠ 0 then 6
  else if vAction r = 1 then 7
  else 8

/-- What the decision does. -/
inductive Decided where
  | nothing
  | sealIt (byResolution : Bool)
  | replayIt (corrected byResolution : Bool)
  | hold
  | stop (reason : Nat)
  | stay
  deriving DecidableEq, Repr

/-- Whether a replay under REPLAY is still within the policy's limit (R161). -/
def State.mayCorrect (s : State) (step : Nat) : Bool := decide ((s.stepRec step).overReplays < (s.policyOf step).replayLimit)

def State.decided (s : State) (r : Bytes) (step : Nat) : Decided :=
  match decisionRow r with
  | 1 => if vKind r = 2 then .stay else .hold
  | 2 => .nothing
  | 3 => (match vResolution r with
    | 1 => .sealIt true
    | 2 => .replayIt false true
    | 3 => .stop 2
    | _ => .stay)
  | 4 => .stop 1
  | 5 => .hold
  | 6 => if (s.stepRec step).policyReplays < s.run.resolution.limit then .replayIt (vAction r == 1 && s.mayCorrect step) false else .hold
  | 7 => if s.mayCorrect step then .replayIt true false else .sealIt false
  | _ => .sealIt false

/-! The interval (R38 to R41). -/

def ceil10 (a b : Nat) : Nat := 10 * ceilDiv a (10 * b)

/-- The interval for the next window from the combined O and U, the quiet count it leaves, and whether the stretch limit is met. -/
def nextInterval (f : Frame) (o u : Nat) (sealing : Bool) : Nat × Nat × Bool :=
  if f.expert then (f.interval, f.quietSeals, false)
  else if 0 < o then
    let i := f.interval + ceil10 (9 * o) 8
    if 50000 < i then (f.interval, 0, true) else (i, 0, false)
  else if sealing = false then (f.interval, f.quietSeals, false)
  else
    let q := f.quietSeals + 1
    let low := max f.configured (f.interval - ceil10 (f.interval - f.configured) 8)
    if 1000 ≤ q ∧ f.configured < f.interval ∧ u * 16 ≤ low * 15 then (low, 0, false) else (f.interval, q, false)

/-- The combined O and U take effect: the interval changes, or a stretch beyond the limit acts as a RUN_HOLD for this period (R38, R39). -/
def State.stretch (s : State) (r : Bytes) (step : Nat) (sealing : Bool) : State :=
  let f := s.frame
  let n := nextInterval f (vOverrun r) (vOccupancy r) sealing
  let s1 := s.withFrame { f with interval := n.1, quietSeals := n.2.1, lastO := vOverrun r, lastU := vOccupancy r,
                                 stretches := if f.interval < n.1 then f.stretches + 1 else f.stretches }
  let s2 := if n.1 = f.interval then s1 else s1.log { code := 0x5002, step := step, detail := leBytes 4 n.1 }
  if n.2.2 then
    let h := match s2.run.holdAt with
      | some a => min a s2.run.period
      | none => s2.run.period
    (s2.withRun { s2.run with holdAt := some h }).log { code := 0x5003, step := step }
  else s2

/-! Taking the decision at the period. -/

/-- A replay: the attempt is counted, an overflow replay corrects the scales, and R299 applies. -/
def State.takeReplay (s : State) (r : Bytes) (step : Nat) (corrected byRes : Bool) : State :=
  let x := s.stepRec step
  let row := decisionRow r
  let count := !(byRes && x.decision == 6)
  let s1 := s.mapStep step (fun y => { y with attempts := if count then y.attempts + 1 else y.attempts,
                                              failuresSeen := y.failuresSeen ||| (if byRes then y.failures else vFailures r),
                                              policyReplays := if byRes then 0 else if row = 6 then y.policyReplays + 1 else y.policyReplays,
                                              overReplays := if row = 7 then y.overReplays + 1 else y.overReplays })
  let s2 := if corrected then (((s1.correctScales step).writeHusk step).writeHusk (step + 1)).logStepOnce { code := 0x4002, step := step } else s1
  s2.replayStep step

/-- REPLAY beyond its limit acts as RECORD (R161). -/
def State.limitReplay (s : State) (r : Bytes) (step : Nat) : State :=
  if (decisionRow r = 6 ∨ decisionRow r = 7) ∧ vAction r = 1 ∧ s.mayCorrect step = false then
    (s.mapStep step (fun y => { y with limitHit := true })).logStepOnce { code := 0x4003, step := step }
  else s

/-- A hold by verdict: what the held step's record needs, and the events. -/
def State.takeHold (s : State) (r : Bytes) (step : Nat) : State :=
  let row := decisionRow r
  let s1 := if row = 6 then
      (s.mapStep step (fun y => { y with attempts := y.attempts + 1, failuresSeen := y.failuresSeen ||| vFailures r })).logStepOnce
        { code := 0x5017, step := step }
    else if row = 5 ∧ vAction r = 2 then s.numericsReport step 0x4007 r
    else s
  s1.holdRun step r

/-- A step sealed by resolution: the step after it, if it has begun, is replayed; otherwise the run is at its end (R301). -/
def State.afterResolution (s : State) (step : Nat) : State × Option Plan :=
  if s.begun (step + 1) then
    let gone := fun (k : Nat) => k == step + 1
    let s1 := (((s.noteStopped gone).stopSteps gone).restartStep (step + 1)).rollBack step
    (s1, some { kind := .replay, lag0 := some (step + 1), lag1 := none })
  else (s.endRun 0, none)

/-- The decision of a combined record: the state after it, and what the next window runs. -/
def State.takeDecision (s : State) (r : Bytes) : State × Option Plan :=
  let step := (s.run.lag1).getD ((s.run.heldStep).getD ((s.run.lag0).getD 0))
  let old := s.frame.interval
  let d := s.decided r step
  let sealing : Bool := match d with
    | .sealIt _ => true
    | _ => false
  let s0 := if vKind r = 0 then (s.withRun { s.run with lastVerdict := step }).mapStep step (fun y =>
      { y with decision := decisionRow r, failures := vFailures r, conditions := vConditions r, action := vAction r, lastFail := vFailures r,
               lastAct := vAction r }) else s
  let s1 := (s0.limitReplay r step).stretch r step sealing
  let s2 := if decisionRow r = 3 ∧ vResolution r ≠ 0 then
      (s1.withRun { s1.run with mode := .running, resolution := { s1.run.resolution with code := 0, step := 0, period := 0 } }).logStepOnce
        { code := 0x5019, step := step }
    else s1
  match d with
  | .nothing => match s2.planAfter s2.run.lag0 with
    | some p => (s2, some p)
    | none => (s2.endRun 0, none)
  | .stay => (s2, some heldPlan)
  | .hold => (s2.takeHold r step, some heldPlan)
  | .stop n => ((if n = 1 then s2.numericsReport step 0x4008 r else s2).endRun n, none)
  | .replayIt c b => (s2.takeReplay r step c b, some { kind := .replay, lag0 := some step, lag1 := none })
  | .sealIt b =>
    let s3 := (s2.sealStep step old s2.frame.interval b).appendEvals
    let s4 := s3.ckptTrigger step
    if b then s4.afterResolution step
    else match s4.planAfter s4.run.lag0 with
      | some p => (s4, some p)
      | none => (s4.endRun 0, none)

/-! Staged changes (R28, R142, R148, R168, R216, R271, R335, R339, R383, R397). -/

/-- The staged values whose effective period has come, oldest first, and the rest. -/
def dueOf {α : Type} (p : Nat) (m : SMap α) : List (Nat × α) × SMap α := (m.filter (fun e => decide (e.1 ≤ p)), m.filter (fun e => decide (p < e.1)))

/-- A FRAME_SET takes effect; a skew limit of 0 leaves the limit, and a change of P needs a staged table with the new P for the same period (R397). -/
def State.applyFrame (s : State) (e : Nat × (Nat × Nat × Nat × Bool)) : State :=
  let x := e.2
  let f := s.frame
  let ok : Bool := x.2.1 == f.period || (match SMap.find? f.stagedTables e.1 with
    | some t => t.period == x.2.1
    | none => false)
  let s1 := s.withFrame { f with interval := x.1, configured := x.1, period := if ok then x.2.1 else f.period,
                                 skewLimit := if x.2.2.1 = 0 then f.skewLimit else x.2.2.1, expert := x.2.2.2, loaded := true, quietSeals := 0 }
  if ok then s1 else s1.log { code := 0x501B }

/-- A program comes into force on a core. -/
def State.setProgram (s : State) (c : Nat) (i : Image) : State :=
  let k := s.core c
  s.setCore c { k with prog := some i, overlay := [] }

def dueEff (p : Nat) (e : Option Nat) : Bool :=
  match e with
  | some q => decide (q ≤ p)
  | none => false

/-- Probation starts or ends (R335). -/
def State.setProbation (s : State) (on : Bool) : State :=
  if s.recov.probation = on then s
  else (s.withRecov { s.recov with probation := on }).log { code := if on then 0x8011 else 0x8012 }

/-- The changes that a period brings into force. -/
def State.applyStaged (s : State) : State :=
  let p := s.run.period
  let fr := dueOf p s.frame.staged
  let s1 := fr.1.foldl State.applyFrame (s.withFrame { s.frame with staged := fr.2 })
  let tb := dueOf p s1.frame.stagedTables
  let s2 := s1.withFrame { s1.frame with stagedTables := tb.2, table := match (tb.1.filter (fun e => e.2.period == s1.frame.period)).getLast? with
    | some t => some t.2
    | none => s1.frame.table }
  let im := s2.stagedImages.filter (fun x => dueEff p x.eff)
  let s3 := im.foldl (fun st x => st.setProgram x.core x.image) (s2.withStagedImages (s2.stagedImages.filter (fun x => !dueEff p x.eff)))
  let jb := s3.stagedJobs.filter (fun x => dueEff p x.eff)
  let s4 := (s3.withJobs (jb.foldl (fun m x => SMap.insert m x.index x.job) s3.jobs)).withStagedJobs (s3.stagedJobs.filter (fun x => !dueEff p x.eff))
  let ax := dueOf p s4.fab.staged
  let s5 := s4.withFab { s4.fab with staged := ax.2, axis := match ax.1.getLast? with
    | some a => some a.2
    | none => s4.fab.axis }
  let np := dueOf p s5.num.staged
  let nw := dueOf p s5.num.stagedWatch
  let s6 := s5.withNum { s5.num with staged := np.2, stagedWatch := nw.2,
                                     policy := (match np.1.getLast? with
                                       | some a => a.2
                                       | none => s5.num.policy),
                                     watch := nw.1.foldl (fun m e => e.2.foldl (fun m w => SMap.insert m w.layer w) m) s5.num.watch }
  let s7 := match s6.ckpt.stagedPol with
    | some q => s6.withCkpt { s6.ckpt with policy := q, stagedPol := none }
    | none => s6
  let pr := dueOf p s7.recov.stagedProb
  pr.1.foldl (fun st e => st.setProbation e.2) (s7.withRecov { s7.recov with stagedProb := pr.2 })

/-! Late ranks (R45, R333). -/

/-- A rank's sum over the windows kept. -/
def lateSum (l : List LateWindow) (r : Nat) : Nat := (l.map (fun w => SMap.get 0 w.lasts r)).sum

/-- The window that closes joins the last 64; ranks at or above the threshold are SUSPECT. -/
def State.closeLate (s : State) : State :=
  let c := s.recov
  let l := ({ window := s.run.period + 1, lasts := s.fab.lasts, counted := s.fab.counted, maxOffs := s.fab.maxOffs } :: c.late).take 64
  let ranks := dedup (l.flatMap (fun w => w.lasts.map (·.1)))
  let sus := ranks.filter (fun r => decide (c.threshold ≤ lateSum l r))
  let s1 := s.withRecov { c with late := l, suspects := sus }
  (sus.filter (fun r => !c.suspects.contains r)).foldl (fun st r => st.log { code := 0x8010, detail := leBytes 2 r }) s1

/-! The period. -/

/-- What a period does once the combined record of its window is there, or at comma 0. `t` is the period's reference count. -/
def State.turnPeriod (s : State) (rec : Option Bytes) (t : Nat) : State :=
  let c := s.ckpt.stagedPol
  let s0 := match c with
    | some q => s.withCkpt { s.ckpt with policy := q, stagedPol := none }
    | none => s
  let r : State × Option Plan := match rec with
    | some b => let s1 := s0.withRun { s0.run with missed := 0 }; s1.takeDecision b
    | none => (s0, some { kind := .normal, lag0 := some (s0.run.sealed + 1), lag1 := none })
  let s1 := r.1.appendEvals
  let s2 := match s1.ckpt.mark with
    | some m => (s1.withCkpt { s1.ckpt with mark := none }).appendMark m.1 m.2
    | none => s1
  let s3 := s2.ckptNow
  match r.2 with
  | none => s3
  | some p => s3.applyStaged.openWindow p t

/-- The live lag-0 entries of a window's step have missed the deadline (R36). -/
def State.missLag0 (s : State) : State :=
  match s.run.lag0 with
  | none => s
  | some k =>
    if s.run.entries.any (fun e => e.2.training && e.2.entry.lag == 0 && e.2.step == k && e.2.live) then s.missDeadline k else s

/-- Whether the tick unit issues its next comma. -/
def State.ticking (s : State) : Bool := s.inRun && s.clk.present && !s.clk.stopped

def State.periodLength (s : State) : Nat := s.frame.period

/-- A comma that ends no window (R27, R31, R35). In a stalled run the clauses go by and nothing becomes ready (R297). -/
def execComma (s0 : State) : Out :=
  match s0.run.nextComma with
  | none => notNow "no comma is scheduled"
  | some t =>
    if s0.ticking = false ∨ s0.run.kind = .none ∨ s0.periodLength ≤ s0.run.clause + 1 then notNow "the next comma is not due inside a window"
    else
      let s := s0.advance t
      let c := s.run.clause + 1
      let s1 := s.closeClause
      let s2 := s1.withRun { s1.run with comma := s1.run.comma + 1, nextComma := some (t + s1.frame.interval * 100) }
      if s2.run.stalled then .next (s2.withRun { s2.run with clause := c, clauseRef := t })
      else .next (s2.openClause c t)

/-- A period without the combined record of its window: no entry of the next window starts until it arrives (R297, R324). The ports are still checked
(R43). -/
def State.stall (s : State) (t : Nat) : State :=
  let s1 := s.withRun { s.run with stalled := true, clause := 0, clauseRef := t, periodRef := t, nextComma := some (t + s.frame.interval * 100) }
  s1.tickChecks.missPeriod

/-- A comma that ends a window, and comma 0 of a run. The decision of the window's verdict takes effect, then staged changes, then the next window opens
(R27, R296 to R299). -/
def execPeriod (s0 : State) : Out :=
  match s0.run.nextComma with
  | none => notNow "no comma is scheduled"
  | some t =>
    if s0.ticking = false then notNow "commas do not fall"
    else
      let s := s0.advance t
      if s.run.kind = .none then
        .next ((s.withRun { s.run with comma := 0, period := 0, startRef := t, periodRef := t }).turnPeriod none t)
      else if s.run.clause + 1 < s.periodLength then notNow "the next comma is not a period"
      else
        let s1 := if s.run.stalled then s else s.closeClause.missLag0
        let s2 := if s.run.stalled then s1 else s1.closeLate
        let s3 := s2.withRun { s2.run with comma := s2.run.comma + 1, period := s2.run.period + 1, periodRef := t }
        match s3.run.record, s3.run.stalled with
        | some b, false => .next (s3.turnPeriod (some b) t)
        | _, _ => .next (s3.stall t)

end Sys2Proof.Machine
end

