-- ==== Sys2Proof/Machine/Verdict.lean ====
section
/-!
DEFINITION. The verdict of a window (12_step_sealing_and_replay R291 to R297, R305; 02_clause_frame R36, R37; 07_training_numerics R152, R157;
13_mirror_spares_recovery R314, R323): the numerics exchange, the checks and the record of this module, the tree's cut-off, and the combined record.
-/

namespace Sys2Proof.Machine

/-- The verdict entry of the window whose verdict is in progress, while it waits to start. -/
def State.verdictEntry (s : State) : Option (Nat × EntrySt) :=
  s.run.entries.find? (fun e => e.2.entry.cls == clsVerdict && e.2.state == .ready)

/-! The numerics exchange (R152). -/

/-- The exchange runs immediately before the verdict collective: `others` are the bytes of the other ranks in ascending rank. -/
def execNumericsExchange (others : List Bytes) (s : State) : Out :=
  match s.verdictEntry, s.run.lag1 with
  | some _, some k =>
    let own := s.exchangeBytes k
    if s.mayStart = false ∨ s.clk.stopped = true ∨ s.run.exchanged = true then notNow "the exchange of this verdict is over"
    else if others.length + 1 ≠ s.memberCount ∨ others.any (fun b => b.length != own.length) = true then notNow "the exchange needs the bytes of every other rank"
    else
      let all := others.take s.rank ++ [own] ++ others.drop s.rank
      let s1 := s.combineNumerics k all
      .next (s1.withRun { s1.run with exchanged := true })
  | _, _ => notNow "no verdict of a step is about to start"

/-! The local audit (R292). -/


/-- Ports with a credit audit failure since the previous verdict clause opened (R261). -/
def State.creditFailures (s : State) : Nat :=
  (s.fab.ports.filter (fun e => match e.2.auditBad with
    | some t => decide (s.run.auditRef ≤ t)
    | none => false)).length

/-- Opened less completed and abandoned equals the slots in use, on both N-dies (R264). -/
def NDie.balanced (x : NDie) : Bool := x.opened == x.completed + x.abandoned + x.slots.length
def State.slotsBalanced (s : State) : Bool := (s.ndie 0).balanced && (s.ndie 1).balanced

/-- The husk item. -/
def State.huskBalanced (s : State) (step : Nat) : Bool :=
  let held := (s.run.husk.take 3).countP (fun h => h.state == .closed || h.state == .active)
  let mine : Bool := match s.huskSlot step with
    | none => false
    | some i => match s.run.husk[i]? with
      | some h => h.state == .active && h.samples == leNat (s.readMem (s.huskBase i + 0x28) 4)
      | none => false
  s.run.closedCnt == s.run.freedCnt + held && mine

/-- The jobs that the table's optimizer entries run, by index. -/
def State.tableJobs (s : State) : List Job :=
  match s.frame.table with
  | none => []
  | some t => (dedup ((t.entries.filter (fun e => e.cls == clsOpt)).map (fun e => e.object))).filterMap (SMap.find? s.jobs)

/-- Every M-die's counts of every segment of the step's jobs: the job, the segment and the counts. -/
def State.jobSegs (s : State) (step : Nat) : List (Job × Nat × SegCount) :=
  s.tableJobs.flatMap (fun j => (List.range (segCount j.n)).flatMap (fun g =>
    ((List.range 8).filter (fun m => !(s.segElems j.pair j.n m g).isEmpty)).map (fun m => (j, g, s.segCounts step m j.pair g))))

/-- The collective entries of the table that deliver to a segment. -/
def State.deliveriesDue (s : State) (pair seg : Nat) : Nat :=
  match s.frame.table with
  | none => 0
  | some t => s.ordinalOf t.entries.length pair seg

def State.contribsBalanced (s : State) (step : Nat) : Bool :=
  (s.jobSegs step).all (fun x => x.2.2.contribs == x.1.expected && x.2.2.deliveries == s.deliveriesDue x.1.pair x.2.1) && (s.stepRec step).strays == 0

/-- Received less executed, rejected and queued (R370). -/
def Tenant.queued (t : Tenant) : Nat := t.waiting.length + (if t.running.isSome then 1 else 0)
def Tenant.imbalance (t : Tenant) : Int := (t.received : Int) - t.executed - t.rejected - t.queued

def State.syncBalanced (s : State) (step : Nat) : Bool :=
  (s.stepRec step).dieSig.all (fun e => e.2.1 == e.2.2.1 + e.2.2.2.1 + e.2.2.2.2)

/-- The six items in the order of *Audit view*. -/
def State.auditItems (s : State) (step : Nat) : List Bool :=
  [s.creditFailures == 0, s.slotsBalanced, s.huskBalanced step, s.contribsBalanced step, s.host.tenants.all (fun t => t.imbalance == 0), s.syncBalanced step]

def maskOf (l : List Bool) : Nat := l.zipIdx.foldl (fun a b => a + (if b.1 then 2 ^ b.2 else 0)) 0

/-! The three sums (R293). -/

def signalMix (src dst : Nat) : Word := mixNat (2 ^ 63 + src * 2 ^ 14 + dst)
def State.signalDiff (s : State) (step : Nat) : Word :=
  let r := s.stepRec step
  let out := (r.sigSent.map (fun e => BitVec.ofNat 64 e.2 * signalMix s.rank e.1)).foldl (· + ·) 0
  let inn := (r.sigApplied.map (fun e => BitVec.ofNat 64 e.2 * signalMix e.1 s.rank)).foldl (· + ·) 0
  out - inn

def OpCounts.diff (c : OpCounts) : Word := BitVec.ofNat 64 c.sent - BitVec.ofNat 64 c.received

/-! Failure bits (R291). -/

/-- The own shard's digest record of a step for a pair, and the partner's. -/
def pairDigest (l : List Bytes) (pair : Nat) : Option Bytes := (l.filter (fun d => field d 0 2 == pair)).getLast?

/-- R314: both records there, equal in step, element count and fold, and neither stopped. -/
def digestAgrees (a b : Option Bytes) : Bool :=
  match a, b with
  | some x, some y =>
    slice x 8 8 == slice y 8 8 && slice x 0x18 4 == slice y 0x18 4 && slice x 0x10 8 == slice y 0x10 8 && !bit (field x 3 1) 0 && !bit (field y 3 1) 0
  | _, _ => false

def State.foldDiffers (s : State) : Bool :=
  match s.recov.pairRec with
  | some r => r.2.2 != jobFold s.jobs
  | none => true

/-- Whether the digest comparison of a step fails for some pair. Without a partner, or a mirror region, there is nothing to compare. -/
def State.digestBad (s : State) (step : Nat) : Bool :=
  let r := s.stepRec step
  let own := r.digests.filter (fun d => field d 2 1 == 0)
  s.recov.partner.isSome
    && (s.foldDiffers || (s.pairJobs.filter (fun e => e.2.mirror != 0)).any (fun e => !digestAgrees (pairDigest own e.1) (pairDigest r.partner e.1)))

/-- Whether the partner has not acknowledged its copy of the step's husk entry (R286). -/
def State.copyMissing (s : State) (step : Nat) : Bool :=
  s.recov.partner.isSome && (match s.huskSlot step with
    | none => true
    | some i => match s.run.husk[i]? with
      | some h => !h.acked
      | none => true)

def failIf (b : Bool) (m : Nat) : Nat := if b then m else 0

/-- Lag-1 entries that share the verdict's clause and have not finished miss the deadline (R36). -/
def State.missShared (s : State) (k clause w : Nat) : State :=
  if s.run.entries.any (fun e => keyWindow e.1 == w && e.2.training && e.2.entry.lag == 1 && e.2.entry.clause == clause && e.2.step == k && e.2.open_)
  then s.missDeadline k else s

/-- Less than 64 KiB of the ledger area is free (R306). -/
def State.ledgerShort (s : State) : Bool := decide (ledgerArea < s.ledger.used + 65536)

/-- A second refresh disagreement has left a mirror STALE, and it still is (R315). -/
def State.mirrorLeft (s : State) : Bool := s.recov.mirrorBad.any (fun p => decide (SMap.find? s.recov.mirror p = some .stale))

/-- A shadowed entry of the step has not ended, so that its digests have not been compared (R337). -/
def State.unshadowedAt (s : State) (k : Nat) : Bool :=
  s.cores.any (fun e => match e.2.entry with
    | some x => !x.isEval && x.step == k && x.shadow.isSome
    | none => false)

/-- The checks of a step at its verdict entry, with their events and counts; the failure bits stay with the step. -/
def State.checkStep (s : State) (k : Nat) : State :=
  let items := s.auditItems k
  let audit := items.any (fun b => !b)
  let dig := s.digestBad k
  let bits := failIf (dig || s.mirrorLeft) fDigest + failIf audit fAudit + failIf (s.copyMissing k) fFeed + failIf s.ledgerShort fLedger
    + failIf s.recov.lost fEcc + failIf s.frame.skewFault fDeadline
    + failIf (s.unshadowedAt k) fShadow + failIf (s.recov.offDie.any (fun e => decide (s.verdictWindow < e.2))) fEntry
  let s1 := s.failStep k bits
  let s2 := if audit then s1.logStepOnce { code := 0x5013, step := k, detail := leBytes 2 (0x3F - maskOf items) } else s1
  let s3 := if s.ledgerShort then s2.logStepOnce { code := 0x5018, step := k } else s2
  let s4 := if s.unshadowedAt k then s3.logStepOnce { code := 0x8013, step := k } else s3
  if dig then (s4.withRecov { s4.recov with digestBad := sat32 (s4.recov.digestBad + 1) }).logStepOnce { code := 0x8002, step := k } else s4

/-- *Audit view* (R406). -/
def State.auditView (s : State) (k : Nat) : Bytes :=
  let r := s.stepRec k
  let segs := s.jobSegs k
  let sig := fun (f : Nat × Nat × Nat × Nat → Nat) => (r.dieSig.map (fun e => f e.2)).sum
  leBytes 8 k ++ leBytes 2 (maskOf (s.auditItems k)) ++ leBytes 2 r.failures ++ leBytes 4 s.creditFailures ++ leBytes 8 r.opsAt.diff.toNat
    ++ leBytes 8 (r.opsAt.sentFold - r.opsAt.recvFold).toNat ++ leBytes 8 (s.signalDiff k).toNat
    ++ leBytes 2 (s.ndie 0).slots.length ++ leBytes 2 (s.ndie 1).slots.length ++ zeros 4 ++ leBytes 8 s.run.closedCnt ++ leBytes 8 s.run.freedCnt
    ++ leBytes 8 ((segs.map (fun x => x.1.expected)).sum) ++ leBytes 8 ((segs.map (fun x => x.2.2.contribs)).sum)
    ++ leBytes 8 (sig (·.1)) ++ leBytes 8 (sig (·.2.1)) ++ leBytes 8 (sig (fun q => q.2.2.1 + q.2.2.2))
    ++ (s.host.tenants.flatMap (fun t => leBytes 8 (natOfInt 64 t.imbalance)))

/-! The record (R294). -/

/-- frame_check, numerics_check and membership_check. A module without a slice has epoch 0 and no member list. -/
def State.frameCheck (s : State) : Nat :=
  let tag := match s.frame.table with
    | some t => t.tag
    | none => 0
  (mixNat tag + mixNat (s.frame.interval + s.frame.period * 2 ^ 16 + bitNat s.frame.expert * 2 ^ 32)).toNat

def State.numericsCheck (s : State) (p : Policy) : Nat := (mixNat p.tag + BitVec.ofNat 64 (bitNat s.num.emu)).toNat

def State.membershipCheck (s : State) : Nat :=
  let ms := match s.tableInForce with
    | some t => t.members
    | none => []
  ((ms.zipIdx.map (fun e => mixNat (e.2 * 2 ^ 16 + e.1))).foldl (· + ·) (mixNat s.epoch)).toNat

/-- The resolution that a held verdict carries (R301). -/
def State.heldResolution (s : State) : Nat :=
  let r := s.run.resolution
  if r.code ≠ 0 ∧ s.run.heldStep = some r.step ∧ r.period + 1 ≤ s.verdictWindow then r.code else 0

/-- The verdict entry starts: this module's checks of the step are made, its record is made, and the verdict collective begins. -/
def State.stepRecord (s : State) (k : Nat) : State × Bytes :=
  let s1 := s.mapStep k (fun r => { r with summary := r.numericSummary k })
  let c := s1.ownConditions k
  let s2 := s1.mapStep k (fun r => { r with conditions := c.1, action := c.2, alarms := s1.alarmsOf k })
  let s3 := s2.checkStep k
  let s4 := (s3.withRun { s3.run with audit := s3.auditView k }).withFrame { s3.frame with skewFault := false }
  let r := s4.stepRec k
  (s4, verdictRecord s4.frameCheck (s4.numericsCheck (s4.policyOf k)) s4.membershipCheck r.opsAt.diff.toNat (r.opsAt.sentFold - r.opsAt.recvFold).toNat
    (s4.signalDiff k).toNat (k % 2 ^ 32) s4.frame.repO s4.frame.repU c.1 (r.failures % 1024) c.2 0 0 0)

/-- An empty or a held verdict carries frame and overrun figures (R32, R300), and ECC while a shard is lost (R317). -/
def State.plainRecord (s : State) : Bytes :=
  let held := s.run.heldStep
  let kind := if held.isSome then 2 else 1
  verdictRecord s.frameCheck (s.numericsCheck s.num.policy) s.membershipCheck 0 0 0 ((held.getD 0) % 2 ^ 32) s.frame.repO s.frame.repU 0
    (failIf s.recov.lost fEcc) 0 kind s.heldResolution 0

def execVerdictEntryStart (at' : Nat) (s0 : State) : Out :=
  let s := s0.advance at'
  match s.verdictEntry with
  | none => notNow "no verdict entry is ready"
  | some (key, e) =>
    if s.mayStart = false ∨ s.clk.present = false ∨ s.clk.stopped = true then notNow "the module contributes to no verdict"
    else
      match s.run.lag1 with
      | some k =>
        if s.run.exchanged = false then notNow "the numerics exchange comes first"
        else
          let s1 := s.missShared k e.entry.clause (keyWindow key)
          let r := (s1.startUnit key e.entry.target).stepRecord k
          .next (r.1.withRun { r.1.run with ownRec := some r.2 }).passUp
      | none =>
        let s1 := s.startUnit key e.entry.target
        .next (s1.withRun { s1.run with ownRec := some s1.plainRecord }).passUp

/-! The cut-off (R323). -/

/-- 100 µs before the period that closes the verdict's window. -/
def State.cutoffRef (s : State) : Nat :=
  if s.run.stalled then s.run.periodRef - 10000 else s.run.periodRef + s.frame.period * s.frame.interval * 100 - 10000

/-- A record that a node waits for is missing at the cut-off: the node does without it. -/
def execVerdictCutoff (child : Nat) (s0 : State) : Out :=
  if s0.inRun = false ∨ s0.clk.present = false ∨ s0.nodePlaces.contains child = false ∨ s0.run.sentUp = true ∨ s0.run.cut.contains child = true ∨ (s0.nodePart child).isSome = true then
    notNow "no record of this rank is awaited"
  else
    let s := s0.advance s0.cutoffRef
    let s1 := s.withRun { s.run with cut := s.run.cut ++ [child] }
    .next (s1.log { code := 0x800A, step := s.run.lag1.getD 0, detail := leBytes 2 child }).passUp

/-! The combined record (R296, R297). -/

/-- The step that a verdict decides. -/
def State.verdictStep (s : State) : Nat := (s.run.lag1).getD ((s.run.heldStep).getD ((s.run.lag0).getD 0))

/-- The events of a combined record, each once for its step (R172, R282, R296, R310). -/
def verdictEvents (r : Bytes) : List Nat :=
  (if bit (vMismatch r) 0 then [0x5008] else []) ++ (if bit (vMismatch r) 1 then [0x4009] else []) ++ (if bit (vMismatch r) 2 then [0x300A] else [])
    ++ (if bit (vMismatch r) 3 then [0x5016] else []) ++ (if bit (vMismatch r) 4 then [0x501A] else [])
    ++ (if vOps r ≠ 0 ∨ vFold r ≠ 0 ∨ vSignal r ≠ 0 then [0x300C] else []) ++ (if bit (vFailures r) 5 then [0x5013] else [])
    ++ (if vConditions r ≠ 0 then [0x4001] else []) ++ (if bit (vConditions r) 8 then [0x4005] else []) ++ (if bit (vConditions r) 9 then [0x4006] else [])

def State.noteVerdict (s : State) (r : Bytes) : State :=
  let k := s.verdictStep
  (verdictEvents r).foldl (fun st c => st.logStepOnce { code := c, step := k, detail := leBytes 2 (vMismatch r) ++ leBytes 2 (vFailures r) ++ leBytes 2 (vConditions r) }) s

/-- The combined record is in the hands of the module: its verdict entry ends. -/
def State.endVerdict (s : State) : State :=
  match s.run.entries.find? (fun e => e.2.entry.cls == clsVerdict && e.2.open_) with
  | some (k, e) => s.finishUnit k e.entry.target
  | none => s

/-- After a late record: the clauses of the new window that have gone by open and close at once (R297). -/
def State.catchUp : Nat → State → State
  | 0, s => s
  | n + 1, s =>
    match s.run.nextComma with
    | some t =>
      if t ≤ s.clk.ref ∧ s.run.clause + 1 < s.frame.period then
        let c := s.run.clause + 1
        let s1 := s.closeClause
        State.catchUp n ((s1.withRun { s1.run with comma := s1.run.comma + 1, nextComma := some (t + s1.frame.interval * 100) }).openClause c t)
      else s
    | none => s

/-- The combined record arrives: before the closing period it waits for it; after it, the decision is applied as at that period. -/
def execVerdictRecordReceived (rec : Bytes) (s : State) : Out :=
  if s.inRun = false ∨ s.run.kind = .none ∨ s.fab.exch.contains (0, rec) = false ∨ rec.length ≠ 64 ∨ s.run.record.isSome = true then
    notNow "no combined record has arrived"
  else if s.run.stalled = false then
    .next ((s.withRun { s.run with record := some rec }).endVerdict.noteVerdict rec)
  else if 2 ≤ s.run.missed then notNow "the record comes after the next period"
  else
    let s1 := s.endVerdict.noteVerdict rec
    let s2 := s1.logStepOnce { code := 0x5014, step := s1.verdictStep }
    let s3 := s2.withRun { s2.run with stalled := false, comma := s2.run.comma - s2.run.clause, clause := 0 }
    let s4 := s3.turnPeriod (some rec) s3.run.periodRef
    .next (State.catchUp s4.frame.period s4)

/-- A combined record that comes after the next period is discarded (R297). -/
def execVerdictMissed (rec : Bytes) (s : State) : Out :=
  if s.run.stalled = false ∨ s.run.missed < 2 ∨ s.fab.exch.contains (0, rec) = false then notNow "no record has come too late"
  else .next ((s.withFab { s.fab with exch := s.fab.exch.erase (0, rec) }).logStepOnce { code := 0x5015, step := s.verdictStep })

end Sys2Proof.Machine
end

