-- ==== Sys2Proof/Machine/Restore.lean ====
section
/-!
DEFINITION. Restoring from a checkpoint (14_checkpoint_restore R352 to R354): the manifest's fields, the streams as they arrive, the checks and the
commit.
-/

namespace Sys2Proof.Machine

/-! *Manifest* (R350). -/

def manRank (m : Bytes) : Nat := field m 0x06 2
def manRun (m : Bytes) : Nat := field m 0x08 16
def manVersion (m : Bytes) : Nat := field m 0x18 8
def manFold (m : Bytes) : Nat := field m 0x28 8
def manPairs (m : Bytes) : Nat := field m 0x50 2
def manStreams (m : Bytes) : Nat := field m 0x54 4
def manDigest (m : Bytes) (i : Nat) : Bytes := slice m (0x60 + 32 * i) 32
def manStreamAt (m : Bytes) (i : Nat) : Bytes := slice m (0x60 + 32 * manPairs m + 48 * i) 48
def manLength (m : Bytes) : Nat := 0x60 + 32 * manPairs m + 48 * manStreams m + 384

/-- The job that uses a factor region. -/
def State.factorJob (s : State) (r : Nat) : Option Job := (s.jobs.find? (fun e => e.2.factor == r && e.2.factorCount != 0)).map (·.2)

/-- The place that a stream record restores to: the buffer that is not buffer 0, or the matching factor section (R354); none where the region does not
exist with the kind and size needed. -/
def State.restoreStream (s : State) (d : Bytes) : Option CkptStream :=
  let r := field d 0 2
  let k := field d 2 1
  let m := field d 3 1
  let len := field d 8 8
  let x : CkptStream := { region := r, kind := k, mdie := m, sec := 0, len := len, own := [], units := [], resent := false, back := [] }
  if k = 2 then (if m = 0xFF then some x else none)
  else
    let j := if k = 0 then s.pairJob r else s.factorJob r
    match s.region r, j with
    | some g, some j =>
      let sec := if k = 0 then bufferOff j.n 1 else factorSec j 1
      let size := if k = 0 then roundUp mib2 (stateBytes j.n) else roundUp mib2 (4 * j.factorCount)
      if m < 8 ∧ k < 2 ∧ g.kind = (if k = 0 then 1 else 3) ∧ sec + size ≤ g.size ∧ len = size / 8 then some { x with sec := sec } else none
    | _, _ => none

def State.restoreStreams (s : State) (m : Bytes) : List (Option CkptStream) := (List.range (manStreams m)).map (fun i => s.restoreStream (manStreamAt m i))

/-! The streams as they arrive. -/

/-- The pieces of a run of bytes of a stream that lie together in module memory: from an offset, up to each multiple of 256. -/
def pieces : Nat → Nat → Bytes → List (Nat × Bytes)
  | 0, _, _ => []
  | n + 1, off, b =>
    let k := 256 - off % 256
    if b.isEmpty then [] else (off, b.take k) :: pieces n (off + k) (b.drop k)

def State.writeStream (s : State) (x : CkptStream) (off : Nat) (b : Bytes) : State :=
  (pieces (b.length / 256 + 2) off b).foldl (fun st p => st.writeMem (st.streamMa x p.1) p.2) s

/-- A stream's digest over what has been written (R344). -/
def State.restoredDigest (s : State) (x : CkptStream) : Bytes := sha256 ((List.range x.units_).flatMap (fun u => sha256 (s.unitOf x u)))

/-! The end of a restore. -/

/-- The staging buffers become EMPTY and everything else stays as it was (R354). -/
def State.emptyStaging (s : State) : State :=
  s.pairJobs.foldl (fun st e => (List.range 8).foldl (fun st m => st.setPairDie e.1 m { st.pairDie e.1 m with buf1 := .empty }) st) s

/-- A check fails: its status, and RESTORE_REFUSED. -/
def State.refuseRestore (s : State) (status : Nat) (detail : Bytes) : State :=
  let s1 := s.emptyStaging
  (s1.withCkpt { s1.ckpt with restore := none, status := status }).log { code := 0x8019, detail := leBytes 2 status ++ detail }

/-- The shard fold of a section under a digest key that is not the armed run's. -/
def State.foldUnder (s : State) (r : RestoreRun) (j : Job) (sec fac : Nat) : Word :=
  (s.withRun { s.run with armed := some { runId := r.runId, seed := 0, keyLo := r.keyLo, keyHi := r.keyHi, husk := 0, flags := 0, v0 := r.version } }).shardFold j r.version sec fac

/-- Exchange two stretches of module memory of one length, with the atoms that are uncorrectable there. -/
def swapAddr (a b n x : Nat) : Nat := if a ≤ x ∧ x < a + n then x - a + b else if b ≤ x ∧ x < b + n then x - b + a else x
def State.swapMem (s : State) (a b n : Nat) : State :=
  s.withMem { s.mem with cells := s.mem.cells.foldl (fun m e => SMap.insert m (swapAddr a b n e.1) e.2) [],
                         bad := s.mem.bad.foldl (fun m e => SMap.insert m (swapAddr (a / 256) (b / 256) (n / 256) e.1) e.2) [] }

/-- The two buffers of a pair exchange their numbers, and the factor sections with them: the restored version lies in buffer 0; the other buffer is
EMPTY and the mirror STALE. The working copy is rebuilt at RUN_ARM. -/
def State.commitPair (s : State) (v : Nat) (p : Nat) (j : Job) : State :=
  let b := s.regionBase p
  let f := s.regionBase j.factor
  let s1 := s.swapMem (b + bufferOff j.n 0) (b + bufferOff j.n 1) (roundUp mib2 (stateBytes j.n))
  let s2 := if j.factorCount = 0 then s1 else s1.swapMem (f + factorSec j 0) (f + factorSec j 1) (roundUp mib2 (4 * j.factorCount))
  let s3 := (List.range 8).foldl (fun st m => st.setPairDie p m { PairDie.blank with buf0 := .held v }) s2
  s3.withRecov { s3.recov with mirror := SMap.insert s3.recov.mirror p .stale }

/-- The stagnation counts of a run state stream (R343). -/
def stagOf (b : Bytes) : SMap Nat :=
  (List.range (field b 4 2)).foldl (fun m i => SMap.insert m (field b (16 + 8 * i) 2) (field b (20 + 8 * i) 4)) []

/-- Every check has passed: the restore commits in one step (R354). -/
def State.commitRestore (s : State) (r : RestoreRun) (own : Bytes) : State :=
  let s1 := s.pairJobs.foldl (fun st e => st.commitPair r.version e.1 e.2) s
  (s1.withCkpt { s1.ckpt with restore := none, status := 0,
                              staged := some { version := r.version, runId := r.runId, keyLo := r.keyLo, keyHi := r.keyHi, stag := stagOf own } }).log
    { code := 0x8018, detail := leBytes 8 r.version }

/-- Checks 6 to 8, once every byte has arrived (R353). -/
def State.judgeRestore (s : State) (r : RestoreRun) (xs : List CkptStream) : State :=
  let own := (SMap.find? r.state 0).getD []
  let digest := fun (x : CkptStream) => if x.kind = 2 then sha256 ((List.range x.units_).flatMap (fun u => sha256 (slice own (u * unitBytes) (x.unitLen u))))
    else s.restoredDigest x
  match (xs.zipIdx.find? (fun x => digest x.1 != slice (manStreamAt r.manifest x.2) 16 32)).map (·.2) with
  | some i => s.refuseRestore 0x0501 (leBytes 4 i)
  | none =>
    let bad := (List.range (manPairs r.manifest)).find? (fun i =>
      let d := manDigest r.manifest i
      match s.pairJob (field d 0 2) with
      | none => true
      | some j =>
        let f := s.foldUnder r j (s.regionBase j.pair + bufferOff j.n 1) (s.regionBase j.factor + factorSec j 1)
        f.toNat != field d 16 8)
    match bad with
    | some i => s.refuseRestore 0x0501 (leBytes 2 (field (manDigest r.manifest i) 0 2))
    | none => if field own 8 8 ≠ r.version then s.refuseRestore 0x0503 [] else s.commitRestore r own

/-- A restore chunk is written to the staging buffer; after the last one the checks run. A chunk of no stream, or beyond its stream, is discarded. -/
def execRestoreStreamChunk (stream : Nat) (off : Nat) (data : Bytes) (s : State) : Out :=
  match s.ckpt.inbox.find? (fun c => c.kind == 3 && c.stream == stream && c.off == off && c.data == data) with
  | none => notNow "no such restore chunk has arrived"
  | some c =>
    let s1 := s.withCkpt { s.ckpt with inbox := s.ckpt.inbox.erase c }
    match s1.ckpt.restore with
    | none => .next s1
    | some r =>
      let xs := (s1.restoreStreams r.manifest).filterMap id
      match xs[stream]? with
      | none => .next s1
      | some x =>
        if x.len < off + data.length then .next s1
        else
          let got := SMap.insert r.got stream ((off, data.length) :: (SMap.find? r.got stream).getD [])
          let old := fitTo x.len ((SMap.find? r.state 0).getD [])
          let r1 := { r with got := got, received := r.received + data.length,
                             state := if x.kind = 2 then SMap.insert r.state 0 (old.take off ++ data ++ old.drop (off + data.length)) else r.state }
          let s2 := if x.kind = 2 then s1 else s1.writeStream x off data
          let s3 := s2.withCkpt { s2.ckpt with restore := some r1 }
          if (xs.zipIdx).all (fun y => covered ((SMap.find? got y.2).getD []) y.1.len) then .next (s3.judgeRestore r1 xs) else .next s3

end Sys2Proof.Machine
end

