-- ==== Sys2Proof/Machine/Takeovers.lean ====
section
/-!
DEFINITION. Table epochs and takeovers (11_fabric_and_collectives R265, R269; 13_mirror_spares_recovery R329 to R332): a pending table takes effect, a
spare becomes the member at a rank, and what it pulls from the partner puts it in the place of the failed module.
-/

namespace Sys2Proof.Machine

/-! A pending table takes effect (R265, R269). -/

/-- The module leaves its slice: the tables stay as transit tables, and the armed run is discarded (R398). -/
def State.leaveSlice (s : State) : State :=
  let s1 := (s.withMember none).withRun { s.run with armed := none, mode := if s.run.mode = .fenced then .fenced else .idle }
  s1.withRecov { s1.recov with partner := none, pairRec := none }

/-- The membership after a table of the module's own slice has taken effect: its place in the list, or, outside a run, none (R265). -/
def State.rejoin (s : State) (sl : Nat) (t : RouteTable) : State :=
  match t.members.findIdx? (· == s.modId) with
  | some r => s.withMember (some (sl, r))
  | none => if s.inRun || s.isFenced then s else s.leaveSlice

/-- The epoch that makes a spare a member: its takeover starts, and it is HELD (R329, R379). -/
def State.startTakeover (s : State) (sl : Nat) (k : Takeover) : State :=
  let s1 := (s.withMember (some (sl, k.rank))).withRun { s.run with mode := .held, kind := .none, nextComma := none, heldStep := none, lag0 := none, lag1 := none }
  (s1.withRecov { s1.recov with partner := some k.partner, standby := none, takeover := some { k with started := true } }).log
    { code := 0x800D, detail := leBytes 2 k.rank ++ leBytes 4 k.epoch }

/-- Whether a slice is the one that the module is a member of. -/
def State.ownSlice (s : State) (sl : Nat) : Bool :=
  match s.member with
  | some (a, _) => a == sl
  | none => false

/-- The pending table becomes current, and the current one previous. -/
def SliceTables.apply (x : SliceTables) (ref : Nat) : SliceTables :=
  { current := x.pending, previous := x.current, pending := none, since := ref }

/-- The effective point: for the module's own slice during a run, the period that falls at or after the effective reference count; otherwise that
count. -/
def execEpochApplied (slice : Nat) (s0 : State) : Out :=
  let x := s0.sliceTables slice
  match x.pending with
  | none => notNow "no table of this slice is pending"
  | some t =>
    let own := s0.ownSlice slice
    let s := if own && s0.inRun then s0 else s0.advance t.effective
    let atPeriod := decide (s.run.clause = 0 ∧ s.clk.ref = s.run.periodRef)
    if s.clk.ref < t.effective ∨ (own && s.inRun && !atPeriod) = true then notNow "the effective point has not come"
    else
      let s1 := (s.withRoutes (SMap.insert s.routes slice (x.apply s.clk.ref))).log { code := 0x3009, source := srcN 0, detail := leBytes 2 slice ++ leBytes 4 t.epoch }
      let s2 := if own then s1.rejoin slice t else s1
      match s2.recov.takeover, s2.recov.standby with
      | some k, some sb => if s2.run.mode = .standby ∧ sb = slice ∧ k.epoch = t.epoch then .next (s2.startTakeover slice k) else .next s2
      | _, _ => .next s2

/-! The pull (R330 to R332). The form in which a takeover's items arrive is the model's (log entry 46). -/

/-- Take a stretch of bytes off a string. -/
def cut (n : Nat) (b : Bytes) : Bytes × Bytes := (b.take n, b.drop n)

/-- Entries of a counted list, each with its own length in front. -/
def takeEntries : Nat → Bytes → List Bytes × Bytes
  | 0, b => ([], b)
  | n + 1, b =>
    let k := field b 0 8
    let r := takeEntries n (b.drop (8 + k))
    (slice b 8 k :: r.1, r.2)

/-- Shards of the pairs, each its planes and its fold. -/
def takeShards : List (Nat × Job) → Bytes → List (Nat × Job × Bytes × Nat) × Bytes
  | [], b => ([], b)
  | (p, j) :: ps, b =>
    let k := 14 * j.n + 4 * j.factorCount
    let r := takeShards ps (b.drop (k + 8))
    ((p, j, b.take k, field b k 8) :: r.1, r.2)

/-- The combined range tables of the last sealed steps. -/
def takeTables (es : List Managed) : Nat → Bytes → SMap (SMap Range) × Bytes
  | 0, b => ([], b)
  | n + 1, b =>
    let tab := es.zipIdx.foldl (fun (m : SMap Range) e => SMap.insert m e.1.id (Range.ofRecord (slice b (8 + 0x90 * e.2) 0x90))) []
    let r := takeTables es n (b.drop (8 + 0x90 * es.length))
    (SMap.insert r.1 (field b 0 8) tab, r.2)

/-- What the run state record gives. -/
structure Pulled where
  ref0     : Nat
  window   : Nat
  openRef  : Nat
  interval : Nat
  period   : Nat
  sealed   : Nat
  held     : Nat
  base     : Nat
  seed     : Nat
  husk     : Nat
  attempts : Nat
  replays  : Nat
  overs    : Nat
  table    : Nat
  program  : Nat
  policy   : Nat
  stag     : SMap Nat
  tables   : SMap (SMap Range)
  own      : List Bytes
  shards   : List (Nat × Job × Bytes × Nat)
  mirrors  : List (Nat × Job × Bytes × Nat)
  partner  : List Bytes
  deriving DecidableEq, Repr

def State.parsePull (s : State) (b : Bytes) : Pulled :=
  let ns := field b 0x60 2
  let r0 := takeTables s.num.policy.entries (field b 0x62 2) (b.drop (0x68 + 8 * ns))
  let r1 := takeEntries (field b 0x64 1) r0.2
  let r2 := takeShards s.pairJobs r1.2
  let r3 := takeShards s.pairJobs r2.2
  let r4 := takeEntries (field b 0x65 1) r3.2
  { ref0 := field b 0 8, window := field b 8 8, openRef := field b 0x10 8, interval := field b 0x18 4, period := field b 0x1C 2, husk := field b 0x1E 2,
    sealed := field b 0x20 8, held := field b 0x28 8, base := field b 0x30 8, seed := field b 0x38 8, attempts := field b 0x40 2, replays := field b 0x42 2,
    overs := field b 0x44 2, table := field b 0x48 8, program := field b 0x50 8, policy := field b 0x58 8,
    stag := (List.range ns).foldl (fun m i => SMap.insert m (field b (0x68 + 8 * i) 2) (field b (0x6C + 8 * i) 4)) [],
    tables := r0.1, own := r1.1, shards := r2.1, mirrors := r3.1, partner := r4.1 }

/-- The tags of the record are the module's own (R330). -/
def State.tagsAgree (s : State) (p : Pulled) : Bool :=
  (match s.frame.table with
    | some t => t.tag == p.table
    | none => false) && s.programFold.toNat == p.program && s.num.policy.tag == p.policy

/-- The two digests of a husk entry (R284). -/
def entryDigests (e : Bytes) : Bytes × Bytes := (sha256 (slice e 0x10100 (8 * field e 0x28 4)), sha256 (slice e (field e 0x38 8) (field e 0x30 8)))
def entryTrue (e : Bytes) : Bool := (entryDigests e).1 == slice e 0x50 32 && (entryDigests e).2 == slice e 0x70 32

def State.takeoverFailed (s : State) (status : Nat) : State :=
  (s.withRecov { s.recov with takeover := none }).log { code := 0x800F, detail := leBytes 2 status }

/-- Write pulled husk entries into slots from one on. -/
def State.placeEntries (s : State) (base : Nat) (l : List Bytes) : State :=
  l.zipIdx.foldl (fun st e =>
    let s1 := st.writeMem (st.huskBase (base + e.2)) e.1
    let h : HuskSlot := { HuskSlot.blank with state := .closed, step := field e.1 0 8, samples := field e.1 0x28 4, input := field e.1 0x30 8, acked := true }
    s1.withRun { s1.run with husk := s1.run.husk.set (base + e.2) h }) s

/-- Write pulled shards, to the buffers of version V or to the mirrors, and say whether every fold agrees. -/
def State.placeShards (s : State) (v : Nat) (mirror : Bool) (l : List (Nat × Job × Bytes × Nat)) : State × Bool :=
  l.foldl (fun (a : State × Bool) x =>
    let j := x.2.1
    let sec := if mirror then a.1.regionBase j.mirror else a.1.regionBase j.pair + bufferOff j.n 0
    let fac := a.1.regionBase j.factor + factorSec j (if mirror then 2 else 0)
    let s1 := a.1.writeShard j sec fac x.2.2.1
    let s2 := if mirror then s1.withRecov { s1.recov with mirror := SMap.insert s1.recov.mirror x.1 (.held v) }
      else (List.range 8).foldl (fun st m => (st.setPairDie x.1 m { PairDie.blank with buf0 := .held v, wc := .writing v, rebuild := some v }).noteRebuild x.1 v m)
        (s1.withMem { s1.mem with pairV0 := SMap.insert s1.mem.pairV0 x.1 v })
    (s2, a.2 && (s2.shardFold j v sec fac).toNat == x.2.2.2)) (s, true)

/-- The run that the record names, as the spare joins it: HELD, in the window in progress, with V the latest sealed step. The window itself runs
nothing here, and its verdict leaves the run held. -/
def State.joinRun (s : State) (k : Takeover) (p : Pulled) : State :=
  let w := p.period * p.interval * 100
  let n := if w = 0 then 0 else (s.clk.ref - p.openRef) / w
  let opened := p.openRef + n * w
  let arm : Armed := { runId := k.runId, seed := BitVec.ofNat 64 p.seed, keyLo := k.keyLo, keyHi := k.keyHi, husk := p.husk, flags := 0, v0 := p.sealed }
  let s1 := s.withRun { s.run with mode := .held, kind := .held, started := true, armed := some arm, lastArmed := some k.runId, sealed := p.sealed,
                                   sealedBase := p.base, heldStep := (if p.held = 0 then none else some p.held), lag0 := none, lag1 := none,
                                   startRef := p.ref0, period := p.window - 1 + n, comma := (p.window - 1 + n) * p.period + (p.period - 1),
                                   clause := p.period - 1, clauseRef := opened + w - p.interval * 100, periodRef := opened, nextComma := some (opened + w),
                                   husk := List.replicate 6 HuskSlot.blank, entries := [], stalled := false, missed := 0, exchanged := false, ownRec := none, cut := [] }
  let s2 := s1.withFrame { s1.frame with interval := p.interval, period := p.period }
  let s3 := s2.withNum { s2.num with stag := p.stag, history := p.tables }
  let s4 := if p.held = 0 then s3 else s3.mapStep p.held (fun r => { r with attempts := p.attempts, policyReplays := p.replays, overReplays := p.overs })
  s4.withRun { s4.run with record := some s4.plainRecord }

/-- The pull is complete: it is checked as it lands, the working copies are rebuilt, and a kind 3 entry is written. `ok` is false where neither source
holds V (R331). -/
def execTakeoverReady (ok : Bool) (runState : Bytes) (s : State) : Out :=
  match s.recov.takeover with
  | none => notNow "no takeover is in progress"
  | some k =>
    if k.started = false then notNow "the takeover has not started"
    else if ok = false then .next (s.takeoverFailed 0x0504)
    else
      let p := s.parsePull runState
      if s.tagsAgree p = false then .next (s.takeoverFailed 0x0103)
      else if (p.own ++ p.partner).any (fun e => !entryTrue e) ∨ 3 < p.own.length ∨ 3 < p.partner.length then .next (s.takeoverFailed 0x0501)
      else
        let s1 := s.joinRun k p
        let a := s1.placeShards p.sealed false p.shards
        let b := a.1.placeShards p.sealed true p.mirrors
        if (a.2 && b.2) = false then .next (s.takeoverFailed 0x0501)
        else
          let s2 := (b.1.placeEntries 0 p.own).placeEntries 3 p.partner
          let s3 := s2.appendStart p.sealed
          .next ((s3.withRecov { s3.recov with takeover := none }).log { code := 0x800E, step := p.sealed })

/-! Pairing records that do not arrive (R312). -/

/-- 10 s after RUN_START sent its records, the partner's has not arrived, or does not match. -/
def State.unpairedAt (s : State) : Option Nat := s.run.startSeq.map (fun t => t + 10 * cyclesS)

end Sys2Proof.Machine
end

