-- ==== Sys2Proof/Machine/CmdIdent.lean ====
section
/-!
DEFINITION. *Identity and configuration* (16_vuhal_command_reference R386 to R390), the tenant commands (15_host_transport_mailboxes R364, R370, R374,
R375), and the field checks that the command rows share.
-/

namespace Sys2Proof.Machine

/-! Field checks (R380): each names the condition of a breach and its offset. -/

/-- A reserved stretch that is not zero (R7). -/
def reserved (p : Bytes) (off len : Nat) : Bool × Reply := (!allZero p off len, badField off)

/-- A field whose value is not allowed. -/
def wrong (b : Bool) (off : Nat) : Bool × Reply := (b, badField off)

/-- Answer with the first failed check, else run the command. -/
def checked (checks : List (Bool × Reply)) (s : State) (run : State → State × Option Reply) : State × Option Reply :=
  match firstFail checks with
  | some r => (s, some r)
  | none => run s

/-! IDENT_READ (R386). -/

/-- The dies in the order of *Identity page 0*, by die code. -/
def dieCodes : List Nat := List.range 9 ++ elems 0x10 8 ++ [0x20, 0x21, 0x30]

/-- The role byte of a die. -/
def State.dieRole (s : State) (code : Nat) : Nat :=
  if 8 < code then 0
  else
    match s.logicalOf code with
    | some d => 4 * d
    | none => if s.recov.retired.contains code then 2 else 1

/-- The 20 die identity records; a die whose identity does not check reports zeros and its role (R448). -/
def State.dieRecords (s : State) : Bytes :=
  dieCodes.zipIdx.flatMap (fun e =>
    (if s.sup.idBad.contains e.1 then zeros 13 else fitTo 13 (Config.dieRecord e.2)) ++ leBytes 1 (s.dieRole e.1) ++ zeros 2)

/-- The logical core that a cluster's physical core 8 carries, or 0xF. -/
def State.spareCarries (s : State) (cl : Nat) : Nat :=
  ((List.range 8).find? (fun c => SMap.get false s.recov.remapped (cl * 8 + c))).getD 0xF

def State.identPage0 (s : State) : Bytes :=
  fitTo 12 Config.serial ++ leBytes 1 s.sup.part ++ leBytes 1 s.run.mode.code ++ leBytes 2 s.modId ++ ascii "VH-2.4.0"
    ++ leBytes 2 (match s.member with
      | some (sl, _) => sl
      | none => 0xFFFF)
    ++ leBytes 2 (match s.member with
      | some (_, r) => r
      | none => 0xFFFF)
    ++ leBytes 2 (bits s.slotId 5 0) ++ zeros 2 ++ (List.range 8).flatMap (fun d => leBytes 1 (s.physDie d))
    ++ leBytes 1 (s.spareDie.getD 0xFF) ++ zeros 7 ++ (List.range 64).flatMap (fun c => leBytes 1 (s.spareCarries c)) ++ s.dieRecords

/-- The program tag of a core; zero for a core that has no program. -/
def State.programTag (s : State) (c : Nat) : Nat :=
  match (s.core c).prog with
  | some i => i.tag
  | none => 0

def execIdentRead (t : Nat) (p : Bytes) (s : State) : Out :=
  readCmd 0x0101 t p (fun st =>
    match firstFail [wrong (decide (2 < field p 0 1)) 0, reserved p 1 7] with
    | some r => r
    | none =>
      if field p 0 1 = 0 then okWith st.identPage0
      else okWith ((List.range 256).flatMap (fun i => leBytes 8 (st.programTag (256 * (field p 0 1 - 1) + i))))) s

/-! ATTEST_QUOTE (R387, R447, R452). -/

/-- The digest of the configuration record in force, 32 zero bytes where there is none (R447). -/
def State.configDigest (s : State) : Bytes :=
  match s.sup.config with
  | some b => sha256 b
  | none => zeros 32

/-- The latest ledger entry's sequence and hash: all ones and zeros where no entry has ever been written or saved; after an L0 gap those that flash
kept (R306, R387). -/
def Ledger.headNow (l : Ledger) : Nat × Bytes :=
  if l.gap then (if l.flashHash.all (· == 0) then (2 ^ 64 - 1, zeros 32) else (l.flashLast, l.flashHash))
  else if l.nextSeq = 0 then (2 ^ 64 - 1, zeros 32)
  else (l.nextSeq - 1, l.prevHash)

def State.quoteBody (s : State) (nonce : Bytes) : Bytes :=
  leBytes 4 1 ++ leBytes 2 s.modId ++ zeros 2 ++ leBytes 8 s.clk.ref ++ fitTo 32 nonce ++ fitTo 32 Config.romDigest ++ fitTo 32 Config.fuseDigest
    ++ fitTo 32 (Config.optionDigest s.sup.flashOpt) ++ s.configDigest ++ leBytes 8 s.ledger.headNow.1 ++ s.ledger.headNow.2 ++ s.dieRecords

def execAttestQuote (t : Nat) (p : Bytes) (s : State) : Out :=
  readCmd 0x0102 t p (fun st => let b := st.quoteBody (p.take 32); okWith (b ++ fitTo 384 (Config.sign (sha256 b)))) s

/-! CERT_READ (R388, R453). -/

def execCertRead (t : Nat) (p : Bytes) (s : State) : Out :=
  readCmd 0x0103 t p (fun st =>
    let which := field p 0 1
    let off := field p 4 4
    let cert := certificateOf which
    match firstFail [wrong (decide (2 < which)) 0, reserved p 1 3, (st.sup.certBad.contains which, noResource), wrong (decide (cert.length ≤ off)) 4] with
    | some r => r
    | none => okWith (leBytes 4 cert.length ++ zeros 4 ++ slice cert off 4088)) s

/-! OPTIONS_READ (R389). -/

def State.optionsView (s : State) : Bytes :=
  let o := s.sup.opts
  leBytes 4 o.version ++ leBytes 1 (1 + 2 * bitNat s.sup.flashOpt) ++ leBytes 1 o.deny ++ leBytes 2 s.sup.loadStarts
    ++ fitTo 32 (Config.optionDigest s.sup.flashOpt) ++ (List.range 4).flatMap (fun i => leBytes 1 (o.anchors.getD i 0)) ++ zeros 4
    ++ (List.range 4).flatMap (fun i => (List.range (o.anchors.getD i 0)).flatMap (fun j => fitTo 32 (Config.anchorDigest i j)))

def execOptionsRead (t : Nat) (p : Bytes) (s : State) : Out := readCmd 0x0201 t p (fun st => okWith st.optionsView) s

/-! CONFIG_RECORD_LOAD (R390). -/

/-- A quota record of *Configuration record*, in the layout of QUOTA_SET, for one of tenants 1 to 3 (R374, *Quotas*): the field's value where its mask
bit selects it. -/
def quotaChecks (p : Bytes) (o t : Nat) : List (Bool × Reply) :=
  let m := field p (o + 1) 1
  let out := fun (i lo hi v : Nat) => bit m i && !decide (lo ≤ v ∧ v ≤ hi)
  [ wrong (decide (15 < m) || (List.range 4).any (fun i => bit m i && !carries t i)) (o + 1), wrong (out 0 1 16 (field p (o + 2) 1)) (o + 2),
    reserved p (o + 3) 1, wrong (out 1 0 65536 (field p (o + 4) 4) || (bit m 1 && field p (o + 4) 4 % 2 != 0)) (o + 4),
    wrong (out 2 0 10000 (field p (o + 8) 4)) (o + 8), wrong (out 3 0 1500 (field p (o + 12) 4)) (o + 12) ]

/-- The tenant of a quota record of a configuration record: 1 to 3 in order; the record may name it, or hold zero (log entry 53). -/
def recordQuotas (p : Bytes) (i : Nat) : List (Bool × Reply) :=
  wrong (field p (0x34 + 16 * i) 1 != i + 1 && field p (0x34 + 16 * i) 1 != 0) (0x34 + 16 * i) :: quotaChecks p (0x34 + 16 * i) (i + 1)

def configChecks (p : Bytes) : List (Bool × Reply) :=
  let vlan := field p 6 2
  let udp := field p 0x30 2
  [ wrong (field p 0 4 != 1) 0, wrong (decide (16383 < field p 4 2)) 4,
    wrong (if bit vlan 15 then !decide (1 ≤ bits vlan 11 0 ∧ bits vlan 11 0 ≤ 4094) else decide (4094 < bits vlan 11 0)) 6,
    wrong (decide (udp ≠ 0 ∧ udp < 1024)) 0x30, wrong (decide (168 < field p 0x32 1)) 0x32, reserved p 0x33 1 ]
    ++ (List.range 3).flatMap (recordQuotas p) ++ [reserved p 0x6C 20]

def execConfigRecordLoad (t : Nat) (p : Bytes) (s : State) : Out :=
  hostCmd 0x0202 t p (fun st => checked (configChecks p) st (fun st => (st.withSup { st.sup with flashCfg := some (p.take 128) }, some okReply))) s

/-! Tenants. -/

/-- *Tenant record* (R370). -/
def State.tenantRecord (s : State) (t : Nat) : Bytes :=
  let x := s.tenant t
  let us := s.uses t
  leBytes 1 t ++ leBytes 1 (bitNat (s.sup.opts.anchors.getD t 0 != 0) + 2 * bitNat (x.over_ != 0) + 4 * x.over_)
    ++ leBytes 1 (s.host.sessions.countP (fun y => y.tenant == t)) ++ leBytes 1 x.slots.length ++ leBytes 4 x.next ++ leBytes 8 x.received
    ++ leBytes 8 x.executed ++ leBytes 8 x.rejected ++ leBytes 4 x.queued ++ leBytes 4 x.immediate
    ++ (List.range 4).flatMap (fun i => leBytes 4 (if i = 0 ∨ carries t i = true then x.quotaAt i else 0)) ++ (List.range 4).flatMap (fun i => leBytes 4 (us.getD i 0))

def execTenantQuery (t : Nat) (p : Bytes) (s : State) : Out := readCmd 0x0301 t p (fun st => okWith ((List.range 4).flatMap st.tenantRecord)) s

/-- QUOTA_SET (R374, R375): the selected quotas take effect; a use left above its new quota sets its bit. -/
def State.setQuotas (s : State) (p : Bytes) : State × Option Reply :=
  let u := field p 0 1
  let m := field p 1 1
  let vals := [field p 2 1, field p 4 4, field p 8 4, field p 12 4]
  let us := s.uses u
  let x := s.tenant u
  let quota := (List.range 4).map (fun i => if bit m i then vals.getD i 0 else x.quotaAt i)
  let held := (List.range 4).foldl (fun a i => if bit m i && decide (quota.getD i 0 < us.getD i 0) then a ||| 2 ^ i else a) 0
  let s1 := (s.setTenant u (fun y => { y with quota := quota, over_ := y.over_ ||| held })).refreshQuota u
  if held = 0 then (s1, some okReply)
  else (s1.log { code := 0x6005, tenant := u, detail := leBytes 1 held }, some { status := 0x0403 })

def execQuotaSet (t : Nat) (p : Bytes) (s : State) : Out :=
  hostCmd 0x0302 t p (fun st =>
    checked (wrong (decide (field p 0 1 = 0 ∨ 3 < field p 0 1)) 0 :: quotaChecks p 0 (field p 0 1)) st (fun st => st.setQuotas p)) s

/-- SESSION_CLOSE closes the session that sent it. It completes, and its response goes nowhere, as that of any command that a closed session has running
(R364). -/
def execSessionClose (t : Nat) (p : Bytes) (s : State) : Out :=
  if s.runs 0x0304 t p = false then notNow "no running submission of this tenant is this command"
  else
    match (s.tenant t).running with
    | none => notNow "nothing of this tenant runs"
    | some q =>
      if s.stateOk 0x0304 = false then .next (s.respond t wrongState) else .next ((s.closeSession q.session closedByCommand).respond t okReply)

end Sys2Proof.Machine
end

