-- ==== Sys2Proof/Machine/CmdRegion.lean ====
section
/-!
DEFINITION. *Regions* (16_vuhal_command_reference R391 to R393, R473; 08_memory_system R182, R190), the reading of structures from a region, and the
opening of command transfers (15_host_transport_mailboxes R371).
-/

namespace Sys2Proof.Machine

/-! Regions of a tenant (R473). -/

/-- The region of an index that a tenant allocated; any other index is unknown to it. -/
def State.ownRegion (s : State) (t i : Nat) : Option Region :=
  match s.region i with
  | some g => if g.tenant = t then some g else none
  | none => none

/-- The first uncorrectable atom in a stretch of module memory. -/
def State.badIn (s : State) (a n : Nat) : Option Nat :=
  (s.mem.bad.find? (fun e => e.2 && decide (a ≤ 256 * e.1 + 255 ∧ 256 * e.1 < a + n))).map (·.1)

/-- A command reads an uncorrectable atom: it is counted and logged (R194, R197, R200). -/
def State.noteUe (s : State) (atom : Nat) : State := s.countUe (256 * atom) 0

def eccReply : Reply := { status := 0x0602 }

/-- Run on bytes of module memory, or answer ECC_UNCORRECTABLE. -/
def State.withBytes (s : State) (a n : Nat) (k : Bytes → State → State × Option Reply) : State × Option Reply :=
  match s.badIn a n with
  | some x => (s.noteUe x, some eccReply)
  | none => k (s.readMem a n) s

/-- Read a structure at an offset of a source region: its header, then as much as its counts ask for, never beyond the region (R368). -/
def State.withSource (s : State) (t i off head : Nat) (need : Bytes → Nat) (k : Bytes → State → State × Option Reply) : State × Option Reply :=
  match s.ownRegion t i with
  | none => (s, some noResource)
  | some g =>
    let avail := g.size - off
    let h := s.readMem (g.base + off) (min head avail)
    s.withBytes (g.base + off) (min (max head (need h)) avail) k

/-! What names a region (R392). -/

/-- The regions that a program's descriptors name in spaces 4 and 5. -/
def Image.regions (i : Image) : List Nat :=
  (i.descs.map Desc.parse).filterMap (fun d => if d.space = 4 ∨ d.space = 5 then some d.region else none)

def Job.regions (j : Job) : List Nat := [j.pair, j.grad, j.mirror, j.factor].filter (· != 0)

/-- The armed run names its husk region and the regions of the jobs and programs in force. -/
def State.armedRegions (s : State) : List Nat :=
  match s.run.armed with
  | none => []
  | some a => a.husk :: (s.jobs.flatMap (fun e => e.2.regions) ++ s.cores.flatMap (fun e => match e.2.prog with
      | some i => i.regions
      | none => []))

def State.stagedRegions (s : State) : List Nat := s.stagedJobs.flatMap (fun x => x.job.regions) ++ s.stagedImages.flatMap (fun x => x.image.regions)

/-- The regions that a restore fills: pairs and factors of the jobs in force (R352). -/
def State.jobShards (s : State) : List Nat := s.jobs.flatMap (fun e => [e.2.pair, e.2.factor].filter (· != 0))

def State.restoreRegions (s : State) : List Nat := if s.ckpt.restore.isSome || s.ckpt.staged.isSome then s.jobShards else []

/-- A transfer is open into a region. -/
def State.transferInto (s : State) (i : Nat) : Bool := s.host.sessions.any (fun x => x.transfers.any (fun u => u.region == i && u.use == .region
    || (match u.use with
        | .evalImage e => s.evals.any (fun v => v.id == e && v.imageReg == i)
        | .evalInput e => s.evals.any (fun v => v.id == e && v.inputReg == i)
        | .husk _ => (match s.run.armed with
          | some a => a.husk == i
          | none => false)
        | .region => false)))

def Eval.names (v : Eval) (i : Nat) : Bool := decide (v.phase ≤ 1) && (v.imageReg == i || v.inputReg == i || v.resultReg == i)

/-- What keeps a region from being freed. -/
def State.regionBusy (s : State) (i : Nat) : Bool :=
  s.transferInto i || s.evals.any (fun v => v.names i) || (match s.ckpt.run with
    | some r => r.streams.any (fun x => x.region == i && x.kind != 2)
    | none => false)

/-- A region that a background operation is changing (R381): a transfer is open into it, or a restore fills it. -/
def State.regionChanging (s : State) (i : Nat) : Bool := s.transferInto i || (s.ckpt.restore.isSome && s.jobShards.contains i)

/-! REGION_ALLOC (R391). -/

/-- The heap ends 4 GiB below the end of module memory (R182). -/
def State.heapEnd (s : State) : Nat := s.memBytes - 4294967296

/-- The lowest free range of a size. -/
def State.freeRange (s : State) (size : Nat) : Option Nat :=
  let gs := s.mem.regions.map (·.2)
  let ok := fun (b : Nat) => decide (b + size ≤ s.heapEnd) && gs.all (fun g => decide (b + size ≤ g.base ∨ g.base + g.size ≤ b))
  ((0 :: gs.map (fun g => g.base + g.size)).filter ok).min?

/-- Zero a stretch of memory. -/
def State.zeroMem (s : State) (a n : Nat) : State :=
  let out := fun (x : Nat) => !decide (a ≤ x ∧ x < a + n)
  s.withMem { s.mem with cells := SMap.keep out s.mem.cells, recast := SMap.keep out s.mem.recast, bad := SMap.keep (fun x => out (256 * x)) s.mem.bad }

def State.addRegion (s : State) (t i kind spill size base : Nat) : State :=
  let s1 := s.zeroMem base size
  s1.withMem { s1.mem with regions := SMap.insert s1.mem.regions i { tenant := t, kind := kind, spill := spill, base := base, size := size },
                           pairs := SMap.keep (fun k => k / 8 != i) s1.mem.pairs, pairV0 := SMap.erase s1.mem.pairV0 i }

def regionAlloc (expert : Bool) (t : Nat) (p : Bytes) (s : State) : State × Option Reply :=
  let i := field p 0 2
  let kind := field p 2 1
  let spill := field p 3 1
  let size := field p 8 8
  let outside := s.run.mode == .idle || s.run.mode == .armed || s.run.mode == .standby
  let mib := size / 1048576
  let base := s.freeRange size
  checked
    [ (decide (1 ≤ kind ∧ kind ≤ 3) && !outside, wrongState), wrong (decide (i = 0 ∨ 4095 < i) || (s.region i).isSome) 0,
      wrong (decide (3 < kind) || (t == 1 && kind != 0)) 2,
      wrong (decide (2 < spill) || (spill == 2 && !expert) || (t == 1 && spill != 0)) 3, reserved p 4 4,
      wrong (decide (size < mib2) || size % mib2 != 0) 8, (base.isNone, noResource),
      (t == 1 && decide ((s.tenant 1).quotaAt 1 < (s.uses 1).getD 1 0 + mib), overQuota) ] s
    (fun st =>
      let b := base.getD 0
      (st.addRegion t i kind spill size b, some (okWith (leBytes 2 i ++ zeros 6 ++ leBytes 8 b ++ leBytes 8 size))))

def execRegionAlloc (t : Nat) (p : Bytes) (s : State) : Out := hostCmd 0x0401 t p (regionAlloc false t p) s

def execRegionAllocExpert (t : Nat) (p : Bytes) (s : State) : Out := hostCmd 0x8401 t p (regionAlloc true t p) s

/-! REGION_FREE (R392). -/

/-- The region goes, and with it what the module keeps of it as a pair or a mirror. -/
def State.dropRegion (s : State) (i : Nat) : State :=
  let m := s.mem
  let c := s.recov
  (s.withMem { m with regions := SMap.erase m.regions i, pairs := SMap.keep (fun k => k / 8 != i) m.pairs, pairV0 := SMap.erase m.pairV0 i }).withRecov
    { c with mirror := SMap.erase c.mirror i, retries := SMap.erase c.retries i, mirrorBad := c.mirrorBad.filter (· != i),
             refreshing := c.refreshing.filter (· != i) }

def execRegionFree (t : Nat) (p : Bytes) (s : State) : Out :=
  hostCmd 0x0402 t p (fun st =>
    let i := field p 0 2
    let own := (st.ownRegion t i).isSome
    checked
      [ (own && (st.armedRegions.contains i || st.stagedRegions.contains i || st.restoreRegions.contains i), wrongState),
        (own && st.regionBusy i, busy), reserved p 2 6, (!own, noResource) ] st
      (fun st => ((st.dropRegion i).refreshQuota t, some okReply))) s

/-! REGION_WRITE and REGION_READ (R393). -/

/-- The session of a tenant's running command. -/
def State.runningSession (s : State) (t : Nat) : Nat :=
  match (s.tenant t).running with
  | some q => q.session
  | none => 0

def State.transfersOf (s : State) (id : Nat) : List Transfer :=
  match s.session id with
  | some x => x.transfers
  | none => []

/-- A transfer number that is already open on the session (R371). -/
def State.numberOpen (s : State) (id n : Nat) : Bool := (s.transfersOf id).any (fun u => u.number == n)

/-- Open a transfer; one that declares no byte closes at once. -/
def State.openTransfer (s : State) (id : Nat) (u : Transfer) : State :=
  if u.len = 0 then s.evalTransferClosed u.use else s.setSession id (fun x => { x with transfers := x.transfers ++ [u] })

/-- States in which the regions of the armed run keep what they hold. -/
def State.armedState (s : State) : Bool := s.run.mode == .armed || s.inRun

/-- Host bytes replace whatever re-cast elements stood there. -/
def State.hostWrite (s : State) (a : Nat) (b : Bytes) : State :=
  (s.withMem { s.mem with recast := SMap.keep (fun x => !decide (a ≤ x ∧ x < a + b.length)) s.mem.recast }).writeMem a b

def execRegionWrite (t : Nat) (p : Bytes) (s : State) : Out :=
  hostCmd 0x0403 t p (fun st =>
    let i := field p 0 2
    let bulk := bit (field p 2 2) 0
    let n := field p 0x10 8
    let off := field p 8 8
    let id := st.runningSession t
    match st.ownRegion t i with
    | none =>
      checked [wrong (decide (1 < field p 2 2)) 2, wrong (bulk && st.numberOpen id (field p 4 4)) 4,
               (!bulk && (decide (4072 < n) || p.length != 24 + n), badLength 0x10)] st (fun st => (st, some noResource))
    | some g =>
      checked
        [ (st.armedState && st.armedRegions.contains i, wrongState), (st.regionChanging i, busy), wrong (decide (1 < field p 2 2)) 2,
          wrong (bulk && st.numberOpen id (field p 4 4)) 4, (!bulk && (decide (4072 < n) || p.length != 24 + n), badLength 0x10),
          (decide (g.size < off + n), noResource), (bulk && decide (64 ≤ (st.transfersOf id).length), noResource) ] st
        (fun st =>
          if bulk then
            (st.openTransfer id { number := field p 4 4, use := .region, region := i, base := g.base + off, len := n, got := [] }, some accepted)
          else (st.hostWrite (g.base + off) (p.drop 24), some okReply))) s

/-- Bytes of a region as REGION_READ gives them: where a re-cast element stands, what the host sees is a free value (log entry 54). -/
def State.hostRead (s : State) (g : Region) (off n : Nat) : Bytes :=
  let b := s.readMem (g.base + off) n
  if g.spill ≠ 2 then b
  else b.zipIdx.map (fun e =>
    if s.mem.recast.any (fun x => decide (x.1 ≤ g.base + off + e.2 ∧ g.base + off + e.2 < x.1 + 4)) then Config.freeByte s.fresh e.2 else e.1)

/-- Bulk-out frames of kind 5: the transfer number, and offsets within the transfer. -/
def bulkOut (number : Nat) (b : Bytes) : List TxFrame :=
  (fragments (ceilDiv b.length 4096) b).zipIdx.map (fun x => bulkFrame 5 (leBytes 4 number ++ leBytes 2 x.1.length ++ zeros 2 ++ leBytes 8 (4096 * x.2)) x.1)

def execRegionRead (t : Nat) (p : Bytes) (s : State) : Out :=
  hostCmd 0x0404 t p (fun st =>
    let i := field p 0 2
    let bulk := bit (field p 2 2) 0
    let off := field p 8 8
    let n := if bulk then field p 0x10 8 else min 4096 (field p 0x10 8)
    match firstFail [wrong (decide (1 < field p 2 2)) 2], st.ownRegion t i with
    | some r, _ => (st, some r)
    | none, none => (st, some noResource)
    | none, some g =>
      if g.size < off + n then (st, some noResource)
      else
        st.withBytes (g.base + off) n (fun _ st =>
          let b := st.hostRead g off n
          let st1 := if g.spill = 2 then st.nextFree else st
          (st1, some (if bulk then { status := 1, bulk := bulkOut (field p 4 4) b } else okWith b)))) s

end Sys2Proof.Machine
end

