-- ==== Sys2Proof/Machine/ArmChecks.lean ====
section
/-!
DEFINITION. The checks that RUN_ARM makes (16_vuhal_command_reference R399) and that SCHEDULE_LOAD and staged changes make too (02_clause_frame R30; 16
R383): references of a schedule table, and programs, jobs, policy and axis set together.
-/

namespace Sys2Proof.Machine

/-! Schedule tables (R29, R30). -/

def tableField (i f : Nat) : Nat := 0x20 + 16 * i + f

def isJobCls (c : Nat) : Bool := c == clsOpt || c == clsMirror

/-- The collective descriptor of an entry. -/
def State.collDesc (v : State) (e : TableEntry) : Option CollDesc :=
  match v.fab.axis with
  | some a => a.colls[e.object]?
  | none => none

/-- What an entry refers to is not loaded, or differs from it: the offsets of the fields at fault. -/
def State.refFaults (v : State) (i : Nat) (e : TableEntry) : List Nat :=
  if e.cls = clsCore then
    (match (v.core e.target).prog with
      | some g => if e.object < g.entries.length then [] else [tableField i 8]
      | none => [tableField i 8])
  else if isJobCls e.cls then (if (SMap.find? v.jobs e.object).isSome then [] else [tableField i 8])
  else if e.cls = clsColl then
    (match v.collDesc e with
      | none => [tableField i 8]
      | some d => (if d.dest = 2 ∧ e.lag ≠ 0 then [tableField i 3] else []) ++ (if d.axis = e.target then [] else [tableField i 4]))
  else []

def State.tableRefs (v : State) (tb : Table) : List Nat := tb.entries.zipIdx.flatMap (fun e => v.refFaults e.2 e.1)

def lagOk (cls lag : Nat) : Bool :=
  if isJobCls cls || cls == clsVerdict then lag == 1 else if cls == clsEval || cls == clsCkpt then lag == 0 else decide (lag ≤ 1)

def targetOk (cls t : Nat) : Bool :=
  if cls = clsCore then decide (t ≤ 511) else if cls = clsEval then decide (t ≤ 511 ∨ t = 0xFFFF)
  else if cls = clsColl then decide (t ≤ 7) else if cls = clsVerdict then t == 0 else decide (1 ≤ t ∧ t ≤ 255)

def tableEntry (b : Bytes) (i : Nat) : TableEntry :=
  let o := 0x20 + 16 * i
  { clause := field b o 2, cls := field b (o + 2) 1, lag := field b (o + 3) 1, target := field b (o + 4) 2, object := field b (o + 8) 4, budget := field b (o + 0xC) 2 }

def tableOf (b : Bytes) : Table :=
  { period := field b 4 2, tag := field b 0x10 8, entries := (List.range (field b 8 4)).map (tableEntry b) }

/-- The faults of an entry by itself and against the entries before it. -/
def entryFaults (b : Bytes) (tb : Table) (i : Nat) (e : TableEntry) : List Fault_ :=
  let before := tb.entries.take i
  let f := fun (c : Bool) (o : Nat) => faultIf c (badFieldAt (tableField i o))
  let verdictBefore := before.any (fun x => x.cls == clsVerdict)
  f (decide (tb.period ≤ e.clause) || before.any (fun x => decide (e.clause < x.clause)) || (isJobCls e.cls && verdictBefore)) 0
    ++ f (decide (e.cls = 0 ∨ 7 < e.cls) || (e.cls == clsVerdict && verdictBefore)) 2 ++ f (!lagOk e.cls e.lag) 3
    ++ f (!targetOk e.cls e.target
          || (e.cls == clsCore && decide (4 ≤ before.countP (fun x => x.cls == clsCore && x.clause == e.clause && x.target == e.target)))) 4
    ++ f (!allZero b (tableField i 6) 2) 6 ++ f (!allZero b (tableField i 0xE) 2) 0xE

/-- The faults of a schedule table's bytes, where P must be `p`. -/
def tableFaults (b : Bytes) (p : Nat) : List Fault_ :=
  let n := field b 8 4
  let nOk := decide (1 ≤ n ∧ n ≤ 16384)
  let tb := tableOf b
  faultIf (decide (b.length < 0x20)) (badLengthAt 0) ++ faultIf (field b 0 4 != 1) (badFieldAt 0) ++ faultIf (field b 4 2 != p || p == 0) (badFieldAt 4)
    ++ faultIf (!allZero b 6 2) (badFieldAt 6) ++ faultIf (!nOk) (badFieldAt 8) ++ faultIf (!allZero b 0xC 4) (badFieldAt 0xC)
    ++ faultIf (!allZero b 0x18 8) (badFieldAt 0x18)
    ++ (if !nOk then [] else if b.length < 0x20 + 16 * n then [badLengthAt 8]
        else tb.entries.zipIdx.flatMap (fun e => entryFaults b tb e.2 e.1)
          ++ faultIf (!tb.entries.any (fun e => e.cls == clsVerdict)) (badFieldAt 8))

/-! Programs against regions, policy and emulation (R127, R150, R169, R192). -/

/-- The programs in force. -/
def State.programs (v : State) : List Image := v.cores.filterMap (fun e => e.2.prog)

/-- A region named in space 4 or 5 is the Owner's; one in space 5 is a weight pair that a job binds. -/
def State.spaceOk (v : State) (d : Desc) : Bool :=
  if d.space ≠ 4 ∧ d.space ≠ 5 then true
  else
    match v.ownRegion 0 d.region with
    | none => false
    | some g => decide (d.space = 4) || (g.kind == 1 && (v.pairJob d.region).isSome)

/-- A descriptor of a managed tensor is in its entry's format; one of a format-selected tensor has the shape that re-encoding needs. -/
def State.managedOk (v : State) (d : Desc) (flags : Nat) : Bool :=
  match v.num.policy.entry d.tid with
  | none => true
  | some m =>
    Fmt.ofCode m.fmt == some d.fmt
      && (!m.fmtSel || (d.fmt == .bf16 && d.dims == 2 && d.scale == 0 && d.e0 % 32 == 0 && bits flags 2 1 == 0))

/-- A descriptor of a re-cast region. -/
def State.recastOk (v : State) (d : Desc) : Bool :=
  if d.space ≠ 4 ∧ d.space ≠ 5 then true
  else
    match v.region d.region with
    | none => true
    | some g => g.spill != 2 || (!d.residual && (d.fmt == .bf16 || d.fmt == .fp16 || d.fmt == .fp32) && d.e0 % 32 == 0)

/-- In emulation mode a stochastic k is 0 or 8, and no output is MX or A48. -/
def emuKOk (emu : Bool) (k : Nat) : Bool := !emu || k == 0 || k == 8

def Image.outputs (g : Image) : List Nat :=
  (g.resident ++ g.overlay).flatMap (fun w => match decodeWord 0 w with
    | some i => ((Instr.accesses g.descs i).filter (fun a => a.write)).map (fun a => a.desc)
    | none => [])

def State.programOk (v : State) (g : Image) : Bool :=
  let emu := v.num.emu
  (g.descs.all (fun b => let d := Desc.parse b; v.spaceOk d && v.managedOk d (field b 7 1) && v.recastOk d && emuKOk emu d.k))
    && (!emu || g.outputs.all (fun t => let d := Desc.parse (g.descs.getD t (zeros 64)); !d.fmt.isMx && d.fmt != .a48))

/-! Jobs (R216, R220, R318). -/

/-- The policy manages a tensor as a scale-managed tensor of role 1. -/
def Policy.managesWc (p : Policy) (tid : Nat) : Bool :=
  match p.entry tid with
  | some m => m.scaled && m.role == 1
  | none => false

/-- The places of a job's entries of a class in a table. -/
def Table.jobPlaces (tb : Table) (cls idx : Nat) : List Nat := (tb.entries.zipIdx.filter (fun e => e.1.cls == cls && e.1.object == idx)).map (·.2)

/-- Two entries of the job with a collective entry on its stats axis between them, all with lag 1. -/
def Table.twoPhase (tb : Table) (places : List Nat) (axis : Nat) : Bool :=
  match places with
  | [a, b] => tb.entries.zipIdx.any (fun e => decide (a < e.2 ∧ e.2 < b) && e.1.cls == clsColl && e.1.target == axis && e.1.lag == 1)
  | _ => false

def Table.phasesOk (tb : Table) (idx : Nat) (j : Job) : Bool :=
  j.phases ≠ 2
    || (tb.twoPhase (tb.jobPlaces clsOpt idx) j.statsAxis
        && ((tb.jobPlaces clsMirror idx).isEmpty || tb.twoPhase (tb.jobPlaces clsMirror idx) j.statsAxis))

/-- A later phase reads a plane that an earlier phase has written. -/
def Job.rereads (j : Job) : Bool := (microPlanes 0x10 (j.micro.getD 1 [])).any (fun p => (microPlanes 0x11 (j.micro.getD 0 [])).contains p)

def State.jobOk (v : State) (tb : Table) (idx : Nat) (j : Job) : Bool :=
  v.num.policy.managesWc j.wcId && tb.phasesOk idx j && !((tb.jobPlaces clsMirror idx).length != 0 && j.optimizer == 0x80 && j.rereads)
    && emuKOk v.num.emu j.srK

/-! Collectives that the schedule names (R272). -/

/-- How many elements a collective writes at a position of a group of n (R276). -/
def CollDesc.outCount (d : CollDesc) (n : Nat) : Nat := if d.kind = 1 then d.elems / n else if d.kind = 2 then n * d.elems else d.elems

/-- Bytes of a stretch of elements in a store, its MX scale plane included. -/
def collBytes (code n : Nat) : Nat :=
  let f := (Fmt.ofCode code).getD .fp32
  if f.isMx then ceilDiv n 32 * f.recordBytes + ceilDiv n 32 else n * (f.elemBits / 8)

def collRanges (d : CollDesc) (contribs : List Contrib) (out : Nat) : List (Nat × Nat) :=
  contribs.map (fun c => (8 * c.die + c.cluster, c.base + collBytes d.inFmt d.share))
    ++ (if d.dest = 0 then [(8 * (d.unit / 256) + d.unit % 256, d.base + collBytes d.outFmt out)] else [])

def State.collOk (v : State) (e : TableEntry) : Bool :=
  match v.fab.axis, v.collDesc e with
  | some a, some d =>
    let out := d.outCount (a.axes.getD d.axis Axis.none).size
    (collRanges d ((a.contribs.drop d.first).take d.count) out).all (fun x => decide (x.2 ≤ v.clusterSize x.1))
      && emuKOk v.num.emu d.srK
      && (d.dest ≠ 2 || (match v.pairJob d.unit, v.region d.unit with
          | some j, some g => g.kind == 1 && decide (d.base + out ≤ j.n)
          | _, _ => false))
  | _, _ => true

/-- The sizes of the defined axes multiply to the member count. -/
def State.axesOk (v : State) : Bool :=
  match v.fab.axis with
  | none => true
  | some a => v.member.isNone || (a.axes.filter (fun x => x.defined)).foldl (fun n x => n * x.size) 1 == v.memberCount

/-- The checks of RUN_ARM on a table with everything in force beside it, apart from the table's own references. -/
def State.runChecks (v : State) (tb : Table) : Bool :=
  v.programs.all v.programOk && v.jobs.all (fun e => v.jobOk tb e.1 e.2) && (tb.entries.filter (fun e => e.cls == clsColl)).all v.collOk && v.axesOk

/-- The armed run's checks hold in a state (R383). -/
def State.armHolds (v : State) : Bool :=
  match v.frame.table with
  | some tb => tb.period == v.frame.period && (v.tableRefs tb).isEmpty && v.runChecks tb
  | none => true

/-- What will be in force at a period, counting every change staged. -/
def State.viewAt (s : State) (p : Nat) : State := (s.withRun { s.run with period := p }).applyStaged

/-- A rejection whose first field at fault the spec does not name: its detail is free (log entry 55). -/
def State.noField (s : State) : State × Option Reply := (s.nextFree, some { status := 0x0103, detail := (Config.freeWord s.fresh).toNat })

/-! Staging (R28, R383). -/

/-- The checks on an effective period at an offset: passed, zero in a run, not zero outside one. -/
def State.passed (s : State) (eff : Nat) : Bool × Reply := (s.inRun && decide (0 < eff ∧ eff ≤ s.run.period), wrongState)
def State.effField (s : State) (eff off : Nat) : Bool × Reply := wrong (s.inRun == decide (eff = 0)) off

/-- A fifth staged change of one command. -/
def stageFull {α : Type} (m : SMap α) (eff : Nat) : Bool × Reply := (decide (4 ≤ m.length) && (SMap.find? m eff).isNone, noResource)

/-- A fault of a structure as a response. -/
def faultReply (f : Fault_) : Reply := { status := f.1, detail := f.2 }

end Sys2Proof.Machine
end

