-- ==== Sys2Proof/Machine/CmdProgram.lean ====
section
/-!
DEFINITION. *Programs and jobs* (16_vuhal_command_reference R394 to R396; 06_core_instruction_set R142, R143; 09_near_memory_engines R216, R217, R222)
and *Frame* (16 R397; 02_clause_frame R26, R28 to R30, R46).
-/

namespace Sys2Proof.Machine

/-! PROGRAM_LOAD (R394). -/

/-- A logical core that a reset or a die swap is changing (R381). -/
def State.coreBusy (s : State) (c : Nat) : Bool :=
  (match s.recov.swap with
    | some w => w.logical == dieOfCore c
    | none => false)
  || (match s.sup.reset with
    | some r => r.targets.any (fun t => (coresOf r.level t).contains c)
    | none => false)

def maskCores (p : Bytes) : List Nat := (List.range 512).filter (fun c => bit (field p (8 + c / 8) 1) (c % 8))

def imageArea (i : Image) : Nat := roundUp 65536 (8 * i.overlay.length)

/-- The image a core will run once what is staged takes effect. -/
def State.imageAhead (s : State) (c : Nat) : Option Image :=
  match (s.stagedImages.filter (fun x => x.core == c)).getLast? with
  | some x => some x.image
  | none => (s.core c).prog

/-- The overlay areas of some cluster would exceed 2 MiB (R138, R142). -/
def State.overlayFull (s : State) (cores : List Nat) (i : Image) : Bool :=
  (dedup (cores.map clusterOfCore)).any (fun cl =>
    decide (2097152 < sumNat ((List.range 8).map (fun k =>
      let c := 8 * cl + k
      if cores.contains c then imageArea i else match s.imageAhead c with
        | some g => imageArea g
        | none => 0))))

/-- The offset that a basic-form load names for an overlap: its second instruction. -/
def findingOffset (b : Bytes) (i : Image) (f : Finding) : Nat :=
  if f.i2 < i.resident.length then field b 0x20 4 + 8 * f.i2 else field b 0x24 4

/-- The image loads, or is staged during a run (R142). -/
def State.placeProgram (s : State) (cores : List Nat) (i : Image) : State :=
  let rest := s.stagedImages.filter (fun x => x.eff.isSome || !cores.contains x.core)
  if s.inRun then s.withStagedImages (rest ++ cores.map (fun c => { core := c, eff := none, image := i }))
  else cores.foldl (fun st c => st.setProgram c i) (s.withStagedImages rest)

def programLoad (expert : Bool) (t : Nat) (p : Bytes) (s : State) : State × Option Reply :=
  let cores := maskCores p
  checked [(cores.any s.coreBusy, busy), reserved p 2 6, wrong cores.isEmpty 8] s
    (fun s => s.withSource t (field p 0 2) 0 0x30 imageEnd (fun b s =>
      match readImage b with
      | .error f => (s, some (faultReply f))
      | .ok i =>
        let found := i.verify
        match s.overlayFull cores i, found.find? (fun f => f.code == fOverlap && !expert) with
        | true, _ => (s, some (badField 0xC))
        | false, some f => (s, some (badField (findingOffset b i f)))
        | false, none => (s.placeProgram cores i, some (okWith (leBytes 2 (sat16 found.length) ++ zeros 6)))))

def execProgramLoad (t : Nat) (p : Bytes) (s : State) : Out := hostCmd 0x0501 t p (programLoad false t p) s

def execProgramLoadExpert (t : Nat) (p : Bytes) (s : State) : Out := hostCmd 0x8501 t p (programLoad true t p) s

/-! PROGRAM_VERIFY (R396). -/

def verifyReply (i : Image) : Reply :=
  let found := i.verify
  okWith (leBytes 2 (sat16 found.length) ++ zeros 6 ++ (found.take 255).flatMap Finding.record)

def execProgramVerify (t : Nat) (p : Bytes) (s : State) : Out :=
  hostCmd 0x0503 t p (fun s =>
    let src := field p 0 1
    let n := field p 2 2
    checked [wrong (decide (2 < src)) 0, reserved p 1 1, wrong (src != 0 && decide (511 < n)) 2, reserved p 4 4] s (fun s =>
      if src = 0 then
        s.withSource t n 0 0x30 imageEnd (fun b s => match readImage b with
          | .error f => (s, some (faultReply f))
          | .ok i => (s, some (verifyReply i)))
      else
        let img := if src = 1 then (s.core n).prog else ((s.stagedImages.filter (fun x => x.core == n)).getLast?).map (fun x => x.image)
        match img with
        | some i => (s, some (verifyReply i))
        | none => (s, some noResource))) s

/-! Micro-programs (R222, R395). -/

def microOps : List Nat := elems 1 13 ++ elems 0x10 4

def operandOk (n : Nat) : Bool := decide (n ≤ 15 ∨ 32 ≤ n)

/-- A micro-op word holds no reserved op, operand or aux value; STAT stands in no last phase. -/
def microWordOk (last : Bool) (w : W32) : Bool :=
  let v := w.toNat
  let op := bits v 31 26
  let aux := bits v 3 0
  microOps.contains op && operandOk (bits v 21 16) && operandOk (bits v 15 10) && operandOk (bits v 9 4)
    && (if op = 0x10 then decide (aux ≤ 5) else if op = 0x11 then decide (aux ≤ 6 ∧ aux ≠ 3) else if op = 0x13 then decide (aux ≤ 6) && !last else true)

def microWords (b : Bytes) (first n : Nat) : List W32 := (List.range n).map (fun i => BitVec.ofNat 32 (field b (8 + 4 * (first + i)) 4))

/-- The faults of one phase; `cnt` is the offset of its count field, which a missing W or WC write names (log entry 56). -/
def phaseFaults (last : Bool) (cnt first : Nat) (ws : List W32) : List Fault_ :=
  let writes := fun (n : Nat) => microPlanes 0x11 (ws.take n)
  let all := microPlanes 0x11 ws
  ws.zipIdx.flatMap (fun w =>
      faultIf (!microWordOk last w.1 || (bits w.1.toNat 31 26 == 0x11 && (writes w.2).contains (bits w.1.toNat 3 0))) (badFieldAt (8 + 4 * (first + w.2))))
    ++ faultIf (last && !(all.contains 0 && all.contains 6)) (badFieldAt cnt)

/-- How many bytes a micro-program takes. -/
def microBytes (h : Bytes) : Nat := 8 + 4 * (field h 1 1 + field h 2 1)

/-- The phases of a micro-program's bytes. -/
def microPhases (b : Bytes) : List (List W32) :=
  let n1 := field b 1 1
  if field b 0 1 = 2 then [microWords b 0 n1, microWords b n1 (field b 2 1)] else [microWords b 0 n1]

def microFaults (b : Bytes) : List Fault_ :=
  let k := field b 0 1
  let n1 := field b 1 1
  let n2 := field b 2 1
  let okCount := decide (1 ≤ n1 ∧ n1 ≤ 64) && (if k = 2 then decide (1 ≤ n2 ∧ n2 ≤ 64) else n2 == 0)
  faultIf (decide (b.length < 8)) (badLengthAt 0) ++ faultIf (!decide (1 ≤ k ∧ k ≤ 2)) (badFieldAt 0) ++ faultIf (!decide (1 ≤ n1 ∧ n1 ≤ 64)) (badFieldAt 1)
    ++ faultIf (!okCount) (badFieldAt 2) ++ faultIf (!allZero b 3 5) (badFieldAt 3)
    ++ (if !okCount then [] else if b.length < microBytes b then [badLengthAt 1]
        else (microPhases b).zipIdx.flatMap (fun f => phaseFaults (f.2 + 1 == k) (1 + f.2) (if f.2 = 0 then 0 else n1) f.1))

/-! Optimizer jobs (R216, R217). -/

def fp32At (b : Bytes) (o : Nat) : W32 := BitVec.ofNat 32 (field b o 4)

/-- Finite and not negative, checked on the value (R472). -/
def finiteF (w : W32) : Bool :=
  match decFP32 w with
  | .fin _ _ _ => true
  | _ => false

def notNegative (w : W32) : Bool :=
  match decFP32 w with
  | .fin s m _ => !s || m == 0
  | _ => false

def unitF (w : W32) : Bool := notNegative w && vLt (decFP32 w) (.fin false 1 0)

def layerAt (d : Bytes) (i : Nat) : Layer :=
  let o := 0x40 + 0x30 * i
  { id := field d o 2, decay := bit (field d (o + 2) 2) 0, first := field d (o + 4) 4, count := field d (o + 8) 4, cols := field d (o + 0xC) 4,
    lr := fp32At d (o + 0x10), beta1 := fp32At d (o + 0x14), beta2 := fp32At d (o + 0x18), eps := fp32At d (o + 0x1C), lambda := fp32At d (o + 0x20) }

/-- The faults of layer record i, which must begin where the one before it ends. -/
def layerFaults (d : Bytes) (opt n count i : Nat) : List Fault_ :=
  let o := 0x40 + 0x30 * i
  let l := layerAt d i
  let start := if i = 0 then 0 else (layerAt d (i - 1)).first + (layerAt d (i - 1)).count
  let colsOk := if opt = 5 then decide (1 ≤ l.cols) && l.count % l.cols == 0 else l.cols == 0
  faultIf (decide (1 < field d (o + 2) 2)) (badFieldAt (o + 2)) ++ faultIf (l.first != start) (badFieldAt (o + 4))
    ++ faultIf (l.count == 0 || decide (n < l.first + l.count) || (i + 1 == count && l.first + l.count != n)) (badFieldAt (o + 8))
    ++ faultIf (!colsOk) (badFieldAt (o + 0xC)) ++ faultIf (!notNegative l.lr) (badFieldAt (o + 0x10)) ++ faultIf (!unitF l.beta1) (badFieldAt (o + 0x14))
    ++ faultIf (!unitF l.beta2) (badFieldAt (o + 0x18)) ++ faultIf (!notNegative l.eps) (badFieldAt (o + 0x1C))
    ++ faultIf (!notNegative l.lambda) (badFieldAt (o + 0x20)) ++ faultIf (!allZero d (o + 0x24) 12) (badFieldAt (o + 0x24))

def jobBytes (h : Bytes) : Nat := 0x40 + 0x30 * field h 0x20 2

/-- A descriptor and its layers as a job; `micro` is the micro-program it names. -/
def jobOf (d micro : Bytes) : Job :=
  let fl := field d 6 1
  let opt := field d 4 1
  { optimizer := opt, phases := field d 5 1, srWrites := bit fl 0, wcNan := bit fl 1, wcSr := bit fl 2, srK := field d 7 1, pair := field d 8 2,
    grad := field d 0xA 2, mirror := field d 0xC 2, factor := field d 0xE 2, n := field d 0x10 4, expected := field d 0x14 4, wcId := field d 0x18 4,
    masterId := field d 0x1C 4, statsAxis := field d 0x22 1, micro := if opt = 0x80 then microPhases micro else [],
    consts := (List.range 4).map (fun i => fp32At d (0x24 + 4 * i)), wcDraw := fp32At d 0x34,
    layers := (List.range (field d 0x20 2)).map (layerAt d),
    raw := d.take (jobBytes d) ++ (if opt = 0x80 then micro.take (microBytes micro) else []) }

/-- A region of a kind and a least size, of the Owner. -/
def State.shardRegion (s : State) (i kind size : Nat) : Bool :=
  match s.ownRegion 0 i with
  | some g => g.kind == kind && decide (size ≤ g.size) && (kind != 0 || g.spill == 0)
  | none => false

def State.jobFaults (s : State) (expert : Bool) (d : Bytes) : List Fault_ :=
  let opt := field d 4 1
  let optOk := decide (1 ≤ opt ∧ opt ≤ 5) || (opt == 0x80 && expert)
  let n := field d 0x10 4
  let nOk := decide (1 ≤ n ∧ n ≤ 2147483648)
  let count := field d 0x20 2
  let cOk := decide (1 ≤ count ∧ count ≤ 1024)
  let whole := cOk && decide (jobBytes d ≤ d.length)
  let mp := SMap.find? s.mem.micros (field d 0x23 1)
  let phases := if opt = 2 ∨ opt = 5 then 2 else if opt = 0x80 then (match mp with
    | some b => field b 0 1
    | none => field d 5 1) else 1
  let k := field d 7 1
  let factors := if whole then (jobOf d []).factorCount else 0
  let fac := field d 0xE 2
  let chk := fun (b : Bool) (o : Nat) => faultIf (!b) (badFieldAt o)
  faultIf (decide (d.length < 0x40)) (badLengthAt 0) ++ chk (field d 0 4 == 1) 0 ++ chk optOk 4 ++ chk (field d 5 1 == phases) 5
    ++ chk (decide (field d 6 1 ≤ 7)) 6 ++ chk (k == 0 || decide (4 ≤ k ∧ k ≤ 16)) 7 ++ chk (s.shardRegion (field d 8 2) 1 (pairBytes n)) 8
    ++ chk (s.shardRegion (field d 0xA 2) 0 (4 * n)) 0xA ++ chk (field d 0xC 2 == 0 || s.shardRegion (field d 0xC 2) 2 (stateBytes n)) 0xC
    ++ chk (if factors = 0 then fac == 0 else s.shardRegion fac 3 (3 * roundUp mib2 (4 * factors))) 0xE ++ chk nOk 0x10
    ++ chk (field d 0x14 4 != 0) 0x14 ++ chk (decide (1 ≤ field d 0x18 4 ∧ field d 0x18 4 ≤ 0xFFFFFF)) 0x18
    ++ chk (decide (field d 0x1C 4 ≤ 0xFFFFFF)) 0x1C ++ chk cOk 0x20 ++ faultIf (cOk && !whole) (badLengthAt 0x20)
    ++ chk (decide (field d 0x22 1 ≤ 7) && (phases != 1 || field d 0x22 1 == 0)) 0x22
    ++ chk (if opt = 0x80 then mp.isSome else field d 0x23 1 == 0) 0x23
    ++ (List.range 4).flatMap (fun i => chk (opt == 0x80 || allZero d (0x24 + 4 * i) 4) (0x24 + 4 * i)) ++ chk (allZero d 0x38 8) 0x38
    ++ (if whole then (List.range count).flatMap (layerFaults d opt n count) else [])

/-- The job takes effect, or is staged during a run (R216, R383). -/
def State.placeJob (s : State) (i : Nat) (j : Job) : State :=
  let rest := s.stagedJobs.filter (fun x => x.eff.isSome || x.index != i)
  if s.inRun then s.withStagedJobs (rest ++ [{ index := i, eff := none, job := j }])
  else (s.withStagedJobs rest).withJobs (SMap.insert s.jobs i j)

def shiftFault (off : Nat) (f : Fault_) : Reply := { status := f.1, detail := off + f.2 }

def optimizerSet (expert : Bool) (t : Nat) (p : Bytes) (s : State) : State × Option Reply :=
  let item := field p 2 1
  let i := field p 4 2
  let off := field p 8 8
  let size := match s.ownRegion t (field p 0 2) with
    | some g => g.size
    | none => 2 ^ 64
  checked
    [ wrong (decide (1 < item) || (item == 1 && !expert)) 2, reserved p 3 1, wrong (if item = 1 then !decide (1 ≤ i ∧ i ≤ 16) else decide (255 < i)) 4,
      reserved p 6 2, wrong (decide (size ≤ off)) 8 ] s
    (fun s =>
      if item = 1 then
        s.withSource t (field p 0 2) off 8 microBytes (fun b s => match firstFault (microFaults b) with
          | some f => (s, some (shiftFault off f))
          | none => (s.withMem { s.mem with micros := SMap.insert s.mem.micros i (b.take (microBytes b)) }, some okReply))
      else
        s.withSource t (field p 0 2) off 0x40 jobBytes (fun b s => match firstFault (s.jobFaults expert b) with
          | some f => (s, some (shiftFault off f))
          | none => (s.placeJob i (jobOf b (SMap.get [] s.mem.micros (field b 0x23 1))), some okReply)))

def execOptimizerSet (t : Nat) (p : Bytes) (s : State) : Out := hostCmd 0x0502 t p (optimizerSet false t p) s

def execOptimizerSetExpert (t : Nat) (p : Bytes) (s : State) : Out := hostCmd 0x8502 t p (optimizerSet true t p) s

/-! FRAME_SET (R26, R397). -/

def frameSet (expert : Bool) (p : Bytes) (s : State) : State × Option Reply :=
  let i := field p 0 4
  let per := field p 4 2
  let skew := field p 8 4
  let eff := field p 0x10 8
  let e := (i, per, skew, expert)
  checked
    [ s.passed eff, wrong (!decide (1000 ≤ i ∧ i ≤ 50000)) 0, wrong (per == 0) 4, reserved p 6 2, wrong (skew != 0 && !decide (40 ≤ skew ∧ skew ≤ 10000)) 8,
      reserved p 0xC 4, s.effField eff 0x10, stageFull s.frame.staged eff ] s
    (fun s =>
      if s.inRun then (s.withFrame { s.frame with staged := SMap.insert s.frame.staged eff e }, some okReply)
      else
        let f := s.frame
        (s.withFrame { f with interval := i, configured := i, period := per, skewLimit := if skew = 0 then f.skewLimit else skew, expert := expert,
                              loaded := true, quietSeals := 0 }, some okReply))

def execFrameSet (t : Nat) (p : Bytes) (s : State) : Out := hostCmd 0x0601 t p (frameSet false p) s

def execFrameSetExpert (t : Nat) (p : Bytes) (s : State) : Out := hostCmd 0x8601 t p (frameSet true p) s

/-! SCHEDULE_LOAD (R29, R30, R397). -/

/-- P in force at a period: that of a FRAME_SET staged for it, else what the changes staged so far give. -/
def State.periodAt (s : State) (eff : Nat) : Nat :=
  if s.inRun = false then s.frame.period
  else
    match SMap.find? s.frame.staged eff with
    | some x => x.2.1
    | none => (s.viewAt eff).frame.period

/-- The table staged for a period, with the programs and jobs that take effect with it (R142, R383). -/
def State.stageTable (s : State) (eff : Nat) (tb : Table) : State :=
  let s1 := s.withFrame { s.frame with stagedTables := SMap.insert s.frame.stagedTables eff tb }
  let s2 := s1.withStagedImages (s1.stagedImages.map (fun x => if x.eff = none then { x with eff := some eff } else x))
  s2.withStagedJobs (s2.stagedJobs.map (fun x => if x.eff = none then { x with eff := some eff } else x))

/-- The table, and what was staged to take effect with it, in force. -/
def State.loadTable (s : State) (tb : Table) : State :=
  let s1 := s.withFrame { s.frame with table := some tb }
  let im := s1.stagedImages.filter (fun x => x.eff.isNone)
  let s2 := im.foldl (fun st x => st.setProgram x.core x.image) (s1.withStagedImages (s1.stagedImages.filter (fun x => x.eff.isSome)))
  let jb := s2.stagedJobs.filter (fun x => x.eff.isNone)
  (s2.withJobs (jb.foldl (fun m x => SMap.insert m x.index x.job) s2.jobs)).withStagedJobs (s2.stagedJobs.filter (fun x => x.eff.isSome))

/-- The state with a table loaded or staged, and what will be in force with it. -/
def State.withTable (s : State) (eff : Nat) (tb : Table) : State × State :=
  if s.inRun then (s.stageTable eff tb, (s.stageTable eff tb).viewAt eff) else (s.loadTable tb, s.loadTable tb)

def execScheduleLoad (t : Nat) (p : Bytes) (s : State) : Out :=
  hostCmd 0x0602 t p (fun s =>
    let eff := field p 8 8
    checked [s.passed eff, reserved p 2 6, s.effField eff 8] s (fun s =>
      s.withSource t (field p 0 2) 0 0x20 (fun h => 0x20 + 16 * min (field h 8 4) 16384) (fun b s =>
        let tb := tableOf b
        let r := s.withTable eff tb
        match firstFault (tableFaults b (s.periodAt eff) ++ (r.2.tableRefs tb).map badFieldAt) with
        | some f => (s, some (faultReply f))
        | none =>
          if r.2.runChecks tb = false then s.noField
          else
            match firstFail [if s.inRun then stageFull s.frame.stagedTables eff else (false, noResource)] with
            | some e => (s, some e)
            | none => (r.1, some okReply)))) s

/-! FRAME_STATUS (R46). -/

def State.frameStatus (s : State) : Bytes :=
  let f := s.frame
  let run := fun (n : Nat) => if s.inRun then n else 0
  let flags := bitNat f.expert + 2 * bitNat (s.run.mode == .held) + 4 * bitNat (s.inRun && s.run.kind == .drain) + 8 * bitNat (s.inRun && s.run.kind == .replay)
  leBytes 8 s.clk.ref ++ leBytes 8 (run s.run.comma) ++ leBytes 8 s.run.period ++ leBytes 8 (run (s.run.lag0.getD 0)) ++ leBytes 4 f.interval
    ++ leBytes 4 f.configured ++ leBytes 2 f.period ++ leBytes 2 (run s.run.clause) ++ leBytes 2 flags ++ leBytes 2 f.lastO ++ leBytes 2 f.lastU ++ zeros 2
    ++ leBytes 4 (sat32 f.overruns) ++ leBytes 4 f.stretches ++ leBytes 4 s.clk.slips ++ leBytes 4 f.skews ++ leBytes 4 f.budgets
    ++ leBytes 8 (match f.table with
      | some tb => tb.tag
      | none => 0)

def execFrameStatus (t : Nat) (p : Bytes) (s : State) : Out := readCmd 0x0603 t p (fun st => okWith st.frameStatus) s

end Sys2Proof.Machine
end

