-- ==== Sys2Proof/Machine/CmdSlice.lean ====
section
/-!
DEFINITION. The slice commands (16_vuhal_command_reference R398; 11_fabric_and_collectives R265, R271, R272, R280): SLICE_JOIN, ROUTE_TABLE_LOAD,
AXIS_SET, CABLING_CHECK and SLICE_LEAVE.
-/

namespace Sys2Proof.Machine

/-! SLICE_JOIN and SLICE_LEAVE (R398). -/

def execSliceJoin (t : Nat) (p : Bytes) (s : State) : Out :=
  hostCmd 0x0701 t p (fun s =>
    let sl := field p 0 2
    let tb := (s.sliceTables sl).current
    let place := match tb with
      | some x => x.members.findIdx? (· == s.modId)
      | none => none
    checked [(s.member.isSome, wrongState), wrong place.isNone 0, reserved p 2 6] s (fun s =>
      match tb, place with
      | some x, some r => (s.withMember (some (sl, r)), some (okWith (leBytes 2 r ++ leBytes 2 x.members.length ++ leBytes 4 x.epoch)))
      | _, _ => (s, some okReply))) s

def execSliceLeave (t : Nat) (p : Bytes) (s : State) : Out := hostCmd 0x0705 t p (fun s => (s.leaveSlice, some okReply)) s

/-! ROUTE_TABLE_LOAD (R265). -/

def memberBytes (h : Bytes) : Nat := roundUp 8 (2 * field h 6 2)

def routeBytes (h : Bytes) : Nat := 0x20 + memberBytes h + 8 * field h 0xC 2

def routeRange (b : Bytes) (o : Nat) : RouteRange := { lo := field b o 2, hi := field b (o + 2) 2, ports := field b (o + 4) 2, cls := field b (o + 6) 2 }

def routeOf (b : Bytes) : RouteTable :=
  { slice := field b 4 2, epoch := field b 8 4, effective := field b 0x10 8, allow := field b 0xE 2,
    members := (List.range (field b 6 2)).map (fun i => field b (0x20 + 2 * i) 2),
    ranges := (List.range (field b 0xC 2)).map (fun i => routeRange b (0x20 + memberBytes b + 8 * i)) }

/-- The faults of *Route range entry*. -/
def rangeFaults (allow o : Nat) (r : RouteRange) : List Fault_ :=
  faultIf (decide (16383 < r.lo)) (badFieldAt o) ++ faultIf (decide (16383 < r.hi ∨ r.hi < r.lo)) (badFieldAt (o + 2))
    ++ faultIf (r.ports &&& allow != r.ports) (badFieldAt (o + 4)) ++ faultIf (decide (2047 < r.cls)) (badFieldAt (o + 6))

def memberFaults (ms : List Nat) : List Fault_ :=
  ms.zipIdx.flatMap (fun m => faultIf (decide (16383 < m.1) || (ms.take m.2).contains m.1) (badFieldAt (0x20 + 2 * m.2)))

/-- The faults of a route table's bytes; `cur` is the slice's current epoch, and `members` a member count it must have. -/
def routeFaults (b : Bytes) (cur members : Option Nat) : List Fault_ :=
  let n := field b 6 2
  let k := field b 0xC 2
  let rOff := 0x20 + memberBytes b
  let t := routeOf b
  let counts := decide (n ≤ 16384 ∧ 1 ≤ k ∧ k ≤ 16384)
  faultIf (decide (b.length < 0x20)) (badLengthAt 0) ++ faultIf (field b 0 4 != 1) (badFieldAt 0) ++ faultIf (decide (4095 < t.slice)) (badFieldAt 4)
    ++ faultIf (decide (16384 < n) || (match members with
        | some m => n != m
        | none => false)) (badFieldAt 6)
    ++ faultIf (match cur with
        | some e => t.epoch != e + 1
        | none => t.epoch == 0) (badFieldAt 8)
    ++ faultIf (!decide (1 ≤ k ∧ k ≤ 16384)) (badFieldAt 0xC) ++ faultIf (!allZero b 0x18 8) (badFieldAt 0x18)
    ++ (if !counts then []
        else if b.length < rOff then [badLengthAt 6]
        else if b.length < rOff + 8 * k then [badLengthAt 0xC]
        else memberFaults t.members ++ faultIf (!allZero b (0x20 + 2 * n) (rOff - 0x20 - 2 * n)) (badFieldAt (0x20 + 2 * n))
          ++ t.ranges.zipIdx.flatMap (fun r => rangeFaults t.allow (rOff + 8 * r.2) r.1))

/-- The length of a window at the interval and P in force, and the first period at or after a reference count by it. -/
def State.windowCycles (s : State) : Nat := s.frame.period * s.frame.interval * 100

def State.periodOfRef (s : State) (ref : Nat) : Nat := s.run.period + ceilDiv (ref - s.run.periodRef) s.windowCycles

/-- The product of the axis sizes in force at a period. -/
def AxisSet.product (a : AxisSet) : Nat := (a.axes.filter (fun x => x.defined)).foldl (fun n x => n * x.size) 1

def State.axesAt (s : State) (p : Nat) : Option AxisSet :=
  match ((dueOf p s.fab.staged).1).getLast? with
  | some e => some e.2
  | none => s.fab.axis

/-- The member count that a table for the module's own slice must have during a run. -/
def State.membersNeeded (s : State) (sl eff : Nat) : Option Nat :=
  if s.inRun && s.ownSlice sl then (s.axesAt (s.periodOfRef eff)).map AxisSet.product else none

def RouteTable.rows (t : Option RouteTable) : Nat :=
  match t with
  | some x => x.ranges.length
  | none => 0

/-- More than 64 slices, or more than 16,384 range entries, with a new table in the pending place of its slice. -/
def State.routesFull (s : State) (t : RouteTable) : Bool :=
  let x := s.sliceTables t.slice
  let m := SMap.insert s.routes t.slice { x with pending := some t }
  decide (64 < m.length) || decide (16384 < sumNat (m.map (fun e => RouteTable.rows e.2.current + RouteTable.rows e.2.previous + RouteTable.rows e.2.pending)))

def execRouteTableLoad (t : Nat) (p : Bytes) (s : State) : Out :=
  hostCmd 0x0702 t p (fun s =>
    checked [reserved p 2 6] s (fun s =>
      s.withSource t (field p 0 2) 0 0x20 routeBytes (fun b s =>
        let tb := routeOf b
        let x := s.sliceTables tb.slice
        let soon := x.current.isSome && decide (tb.effective < x.since + cyclesS)
        if decide (0x20 ≤ b.length) && (decide (tb.effective < s.clk.ref) || soon) then (s, some wrongState)
        else
          match firstFault (routeFaults b (x.current.map (fun c => c.epoch)) (s.membersNeeded tb.slice tb.effective)) with
          | some f => (s, some (faultReply f))
          | none =>
            if s.routesFull tb then (s, some noResource)
            else (s.withRoutes (SMap.insert s.routes tb.slice { x with pending := some tb }), some okReply)))) s

/-! AXIS_SET (R271, R272). -/

def axisAt (b : Bytes) (a : Nat) : Axis :=
  { size := field b (8 + 8 * a) 2, stride := field b (10 + 8 * a) 2, kind := field b (12 + 8 * a) 1, defined := bit (field b (13 + 8 * a) 1) 0 }

def collAt (b : Bytes) (o : Nat) : CollDesc :=
  let fl := field b (o + 5) 1
  { kind := field b o 1, axis := field b (o + 1) 1, op := field b (o + 2) 1, inFmt := field b (o + 3) 1, outFmt := field b (o + 4) 1, sr := bit fl 0,
    nanMode := bit fl 1, srK := field b (o + 6) 1, dest := field b (o + 7) 1, root := field b (o + 8) 2, first := field b (o + 0xA) 2,
    count := field b (o + 0xC) 1, unit := field b (o + 0xE) 2, elems := field b (o + 0x10) 8, base := field b (o + 0x18) 8, tid := field b (o + 0x20) 4,
    draw := field b (o + 0x24) 4, done := field b (o + 0x28) 2, target := field b (o + 0x2C) 4 }

def contribAt (b : Bytes) (o : Nat) : Contrib :=
  { die := field b o 1, cluster := field b (o + 1) 1, ready := field b (o + 2) 2, base := field b (o + 8) 8 }

def axisColls (b : Bytes) : Nat := field b 4 2
def axisContribs (b : Bytes) : Nat := field b 6 2
def contribOff (b : Bytes) (i : Nat) : Nat := 0x50 + 64 * axisColls b + 16 * i
def axisBytes (h : Bytes) : Nat := contribOff h (axisContribs h)

def axisSetOf (b : Bytes) : AxisSet :=
  { axes := (List.range 8).map (axisAt b), colls := (List.range (axisColls b)).map (fun i => collAt b (0x50 + 64 * i)),
    contribs := (List.range (axisContribs b)).map (fun i => contribAt b (contribOff b i)) }

/-- The faults of one axis entry: an undefined axis has no size, stride or kind to be out of range. -/
def axisFaults (b : Bytes) (a : Nat) : List Fault_ :=
  let x := axisAt b a
  let o := 8 + 8 * a
  faultIf (x.defined && !decide (1 ≤ x.size ∧ x.size ≤ 16384)) (badFieldAt o) ++ faultIf (x.defined && !decide (1 ≤ x.stride ∧ x.stride ≤ 16384)) (badFieldAt (o + 2))
    ++ faultIf (x.defined && decide (5 < x.kind)) (badFieldAt (o + 4)) ++ faultIf (decide (1 < field b (o + 5) 1)) (badFieldAt (o + 5))
    ++ faultIf (!allZero b (o + 6) 2) (badFieldAt (o + 6))

/-- An axis among the defined ones, sorted by stride: each stride is the product of stride and size before it. -/
def strideOk (axes : List Axis) (a : Nat) : Bool :=
  let x := axes.getD a Axis.none
  let others := (axes.zipIdx.filter (fun y => y.1.defined && y.2 != a)).map (·.1)
  let below := others.filter (fun y => decide (y.stride < x.stride))
  !x.defined || ((others.all (fun y => y.stride != x.stride || y.size == 1 || x.size == 1))
    && x.stride == below.foldl (fun n y => n * y.size) 1)

def strideFaults (axes : List Axis) : List Fault_ := (List.range 8).flatMap (fun a => faultIf (!strideOk axes a) (badFieldAt (10 + 8 * a)))

def contribFaults (b : Bytes) (i : Nat) : List Fault_ :=
  let o := contribOff b i
  let c := contribAt b o
  faultIf (decide (7 < c.die)) (badFieldAt o) ++ faultIf (decide (7 < c.cluster)) (badFieldAt (o + 1)) ++ faultIf (decide (2047 < c.ready)) (badFieldAt (o + 2))
    ++ faultIf (!allZero b (o + 4) 4) (badFieldAt (o + 4)) ++ faultIf (c.base % 64 != 0) (badFieldAt (o + 8))

/-- The records of a descriptor rise by (die, cluster). -/
def risingContribs : List Contrib → Bool
  | a :: b :: r => decide (8 * a.die + a.cluster < 8 * b.die + b.cluster) && risingContribs (b :: r)
  | _ => true

def isMxCode (c : Nat) : Bool := decide (6 ≤ c ∧ c ≤ 0xB)

/-- The rules of R272 on element_count. -/
def countOk (d : CollDesc) (n : Nat) : Bool :=
  let k := if isMxCode d.inFmt || isMxCode d.outFmt then 32 else 1
  decide (1 ≤ d.elems ∧ d.elems ≤ 2 ^ 32) && (if d.kind = 1 ∨ d.kind = 5 then d.elems % (k * n) == 0 else true)
    && (if d.kind = 2 ∨ d.kind = 4 ∨ d.kind = 5 then d.elems % (k * max 1 d.count) == 0 else true)

/-- Inputs and output lie wholly within their stores. -/
def placeOk (d : CollDesc) (cs : List Contrib) (n : Nat) : Bool :=
  (collRanges d cs (d.outCount n)).all (fun x => decide (x.2 ≤ 16777216))
    && (d.dest ≠ 1 || decide (d.base + collBytes d.outFmt (d.outCount n) ≤ 1920 * 1048576))

def descFaults (b : Bytes) (axes : List Axis) (all : List Contrib) (i : Nat) : List Fault_ :=
  let o := 0x50 + 64 * i
  let d := collAt b o
  let reduces := d.kind == 1 || d.kind == 3
  let ax := axes.getD d.axis Axis.none
  let n := max 1 ax.size
  let cs := (all.drop d.first).take d.count
  let chk := fun (c : Bool) (f : Nat) => faultIf (!c) (badFieldAt (o + f))
  chk (decide (1 ≤ d.kind ∧ d.kind ≤ 5)) 0 ++ chk (decide (d.axis ≤ 7) && ax.defined) 1 ++ chk (if reduces then decide (1 ≤ d.op ∧ d.op ≤ 3) else d.op == 0) 2
    ++ chk (decide (d.inFmt ≤ 0xC)) 3 ++ chk (decide (d.outFmt ≤ 0xC)) 4 ++ chk (decide (field b (o + 5) 1 ≤ 3)) 5
    ++ chk (d.srK == 0 || decide (4 ≤ d.srK ∧ d.srK ≤ 16)) 6
    ++ chk (decide (d.dest ≤ 1) || (d.dest == 2 && reduces && d.op == 1 && d.outFmt == 0xC)) 7
    ++ chk (if d.kind = 4 then decide (d.root < n) else d.root == 0) 8 ++ chk (decide (d.first + d.count ≤ all.length)) 0xA
    ++ chk (decide (1 ≤ d.count ∧ d.count ≤ 64)) 0xC ++ chk (allZero b (o + 0xD) 1) 0xD
    ++ chk (if d.dest = 0 then decide (d.unit / 256 ≤ 7 ∧ d.unit % 256 ≤ 7) else if d.dest = 2 then decide (1 ≤ d.unit ∧ d.unit ≤ 4095) else d.unit == 0) 0xE
    ++ chk (countOk d n && placeOk d cs n) 0x10 ++ chk (d.dest == 2 || d.base % 64 == 0) 0x18 ++ chk (decide (d.tid ≤ 0xFFFFFF)) 0x20
    ++ chk (decide (d.done ≤ 2047)) 0x28 ++ chk (allZero b (o + 0x2A) 2) 0x2A ++ chk (allZero b (o + 0x30) 16) 0x30
    ++ faultIf (!risingContribs cs) (badFieldAt (contribOff b d.first))

/-- The faults of an axis set's bytes, whose sizes must multiply to a member count. -/
def axisSetFaults (b : Bytes) (members : Option Nat) : List Fault_ :=
  let a := axisSetOf b
  let cOk := decide (axisColls b ≤ 4096)
  faultIf (decide (b.length < 0x50)) (badLengthAt 0) ++ faultIf (field b 0 4 != 1) (badFieldAt 0) ++ faultIf (!cOk) (badFieldAt 4)
    ++ (List.range 8).flatMap (axisFaults b) ++ strideFaults a.axes ++ faultIf (members != some a.product) (badFieldAt 8)
    ++ faultIf (!allZero b 0x48 8) (badFieldAt 0x48)
    ++ (if !cOk then []
        else if b.length < 0x50 + 64 * axisColls b then [badLengthAt 4]
        else if b.length < axisBytes b then [badLengthAt 6]
        else (List.range (axisColls b)).flatMap (descFaults b a.axes a.contribs) ++ (List.range (axisContribs b)).flatMap (contribFaults b))

/-- The member count of the module's slice that will be in force at a period: a pending table counts where its effective point will have come, by the
interval in force (R265, R271). -/
def State.membersAt (s : State) (eff : Nat) : Option Nat :=
  match s.member with
  | none => none
  | some (sl, _) =>
    let x := s.sliceTables sl
    let t := match x.pending with
      | some q => if s.inRun && decide (s.periodOfRef q.effective ≤ eff) then some q else x.current
      | none => x.current
    t.map (fun q => q.members.length)

def execAxisSet (t : Nat) (p : Bytes) (s : State) : Out :=
  hostCmd 0x0703 t p (fun s =>
    let eff := field p 8 8
    checked [s.passed eff, reserved p 2 6, s.effField eff 8] s (fun s =>
      s.withSource t (field p 0 2) 0 0x50 axisBytes (fun b s =>
        match firstFault (axisSetFaults b (s.membersAt eff)) with
        | some f => (s, some (faultReply f))
        | none =>
          let a := axisSetOf b
          if s.inRun = false then (s.withFab { s.fab with axis := some a }, some okReply)
          else
            let s1 := s.withFab { s.fab with staged := SMap.insert s.fab.staged eff a }
            if (s1.viewAt eff).armHolds = false then s.noField
            else
              match firstFail [stageFull s.fab.staged eff] with
              | some e => (s, some e)
              | none => (s1, some okReply)))) s

/-! CABLING_CHECK (R280). -/

/-- The state code of a port (*Fabric port counters*). -/
def Port.stateCode (x : Port) : Nat := if x.quar && x.state != 4 then 3 else x.state

/-- The result of an entry: failed, an unexpected peer, no peer, the wrong peer, or a match. -/
def cableResult (x : Port) (none_ : Bool) (peer port : Nat) : Nat :=
  if x.state = 4 then 4
  else
    match x.peer with
    | none => if none_ then 0 else 2
    | some q => if none_ then 3 else if q.modId = peer ∧ q.port = port then 0 else 1

/-- A port's answer: its number, state, result, the peer's port, module and serial, and the delay (the layout is the model's, log entry 57). -/
def cableAnswer (n : Nat) (x : Port) (result : Nat) : Bytes :=
  let q := x.peer.getD { modId := 0, port := 0, slot := 0, serial := zeros 12 }
  leBytes 1 n ++ leBytes 1 x.stateCode ++ leBytes 1 result ++ leBytes 1 q.port ++ leBytes 2 q.modId ++ zeros 2 ++ leBytes 4 x.delay ++ fitTo 12 q.serial

/-- One entry of the payload. -/
structure Cable where
  port  : Nat
  none_ : Bool
  peer  : Nat
  at_   : Nat
  deriving DecidableEq, Repr

def cableAt (p : Bytes) (i : Nat) : Cable :=
  { port := field p (8 * i) 1, none_ := bit (field p (8 * i + 1) 1) 0, peer := field p (8 * i + 2) 2, at_ := field p (8 * i + 4) 1 }

def cableChecks (p : Bytes) (i : Nat) : List (Bool × Reply) :=
  let o := 8 * i
  [ wrong (decide (15 < field p o 1)) o, wrong (decide (1 < field p (o + 1) 1)) (o + 1), wrong (decide (16383 < field p (o + 2) 2)) (o + 2),
    wrong (decide (15 < field p (o + 4) 1)) (o + 4), reserved p (o + 5) 3 ]

/-- A mismatched port is quarantined, and a matching one is released. -/
def State.cable (s : State) (c : Cable) : State :=
  let x := s.port c.port
  let r := cableResult x c.none_ c.peer c.at_
  if r = 1 ∨ r = 3 then
    ((s.setPort c.port { x with quar := true }).log { code := 0x300B, source := srcN (c.port / 8), alert := true, detail := leBytes 1 c.port }).alert 3
  else if r = 0 then s.setPort c.port { x with quar := false }
  else s

def cablingCheck (expert : Bool) (p : Bytes) (s : State) : State × Option Reply :=
  let n := p.length / 8
  checked ((decide (p.length % 8 ≠ 0 ∨ 16 < n), badLength 0) :: (List.range n).flatMap (cableChecks p)) s (fun s =>
    let cs := (List.range n).map (cableAt p)
    let out := cs.flatMap (fun c => cableAnswer c.port (s.port c.port) (cableResult (s.port c.port) c.none_ c.peer c.at_))
    (if expert then s else cs.foldl State.cable s, some (okWith out)))

def execCablingCheck (t : Nat) (p : Bytes) (s : State) : Out := hostCmd 0x0704 t p (cablingCheck false p) s

def execCablingCheckExpert (t : Nat) (p : Bytes) (s : State) : Out := hostCmd 0x8704 t p (cablingCheck true p) s

end Sys2Proof.Machine
end

