-- ==== Sys2Proof/Machine/CmdRun.lean ====
section
/-!
DEFINITION. The run commands: STEP_FEED (12_step_sealing_and_replay R285, R286; 15_host_transport_mailboxes R372), RUN_ARM, RUN_START and RUN_HOLD
(16_vuhal_command_reference R399 to R401; 13 R312; 14 R354, R355), SEAL_POLICY_SET, REPLAY and STEP_STATUS (12 R301, R303; 16 R402).
-/

namespace Sys2Proof.Machine

/-! STEP_FEED. -/

/-- The host fields of a husk entry's header, as their bytes (R284). -/
structure FeedHead where
  lr      : W32
  grad    : W32
  samples : Nat
  input   : Nat
  tag     : Nat
  deriving DecidableEq, Repr

def feedHead (p : Bytes) : FeedHead :=
  { lr := fp32At p 0x20, grad := fp32At p 0x24, samples := field p 0x28 4, input := field p 0x30 8, tag := field p 0x38 8 }

/-- The header of an entry that has been fed before. -/
def State.fedHead (s : State) (i : Nat) : FeedHead :=
  let b := s.readMem (s.huskBase i) 0x48
  { lr := fp32At b 0x20, grad := fp32At b 0x24, samples := field b 0x28 4, input := field b 0x30 8, tag := field b 0x40 8 }

def idsOff : Nat := 0x10100
def FeedHead.idsEnd (h : FeedHead) : Nat := idsOff + 8 * h.samples
def FeedHead.dataOff (h : FeedHead) : Nat := roundUp 64 h.idsEnd
def FeedHead.dataEnd (h : FeedHead) : Nat := h.dataOff + h.input

/-- A write lies wholly within sample_ids or sample_data. -/
def FeedHead.takes (h : FeedHead) (a n : Nat) : Bool :=
  n == 0 || decide (idsOff ≤ a ∧ a + n ≤ h.idsEnd) || decide (h.dataOff ≤ a ∧ a + n ≤ h.dataEnd)

/-- The ranges of the header fields, or their agreement with those of the first STEP_FEED. -/
def headChecks (h : FeedHead) (old : Option FeedHead) (rsv : Bool × Reply) : List (Bool × Reply) :=
  match old with
  | some o => [ wrong (h.lr != o.lr) 0x20, wrong (h.grad != o.grad) 0x24, wrong (h.samples != o.samples) 0x28, rsv, wrong (h.input != o.input) 0x30,
                wrong (h.tag != o.tag) 0x38 ]
  | none => [ wrong (!notNegative h.lr) 0x20, wrong (!finiteF h.grad) 0x24, wrong (!decide (1 ≤ h.samples ∧ h.samples ≤ 1048576)) 0x28, rsv,
              wrong (h.input % 64 != 0 || decide (h.input < 64)) 0x30 ]

def noHeadChecks (p : Bytes) : List (Bool × Reply) :=
  [reserved p 0x20 4, reserved p 0x24 4, reserved p 0x28 4, reserved p 0x2C 4, reserved p 0x30 8, reserved p 0x38 8]

/-- The first STEP_FEED for a step takes a FREE slot and writes the header (R284, R285). -/
def State.takeSlot (s : State) (i step : Nat) (h : FeedHead) : State :=
  match s.run.armed with
  | none => s
  | some a =>
    let s1 := s.setSlot i (fun _ => { HuskSlot.blank with state := .feeding, step := step, samples := h.samples, input := h.input })
    s1.writeMem (s1.huskBase i)
      (leBytes 8 step ++ leBytes 16 a.runId ++ leBytes 8 a.seed.toNat ++ leBytes 4 h.lr.toNat ++ leBytes 4 h.grad.toNat ++ leBytes 4 h.samples ++ zeros 4
        ++ leBytes 8 h.input ++ leBytes 8 h.dataOff ++ leBytes 8 h.tag ++ zeros 0xB8)

/-- Every byte of sample_ids and sample_data has been written. -/
def State.entryWhole (s : State) (i : Nat) (h : FeedHead) (more : List (Nat × Nat)) : Bool :=
  let w := match s.run.husk[i]? with
    | some x => more ++ x.written
    | none => more
  decide (h.idsEnd ≤ coverTo w w.length idsOff) && decide (h.dataEnd ≤ coverTo w w.length h.dataOff)

/-- The entry closes: its digests, and its copy to the mirror partner (R286). -/
def State.closeHusk (s : State) (i : Nat) (h : FeedHead) : State :=
  let b := s.huskBase i
  let s1 := (s.writeMem (b + 0x50) (sha256 (s.readMem (b + idsOff) (8 * h.samples)))).writeMem (b + 0x70) (sha256 (s.readMem (b + h.dataOff) h.input))
  let s2 := (s1.setSlot i (fun x => { x with state := .closed })).withRun { (s1.setSlot i (fun x => { x with state := .closed })).run with closedCnt := s1.run.closedCnt + 1 }
  match s2.recov.partner with
  | none => s2
  | some q => s2.openSend { typ := tTransfer, cls := 9, dstRank := q, data := s2.readMem b h.dataEnd, husk := some i }

/-- Inline bytes land in the entry. -/
def State.feedBytes (s : State) (i off : Nat) (d : Bytes) : State :=
  if d.isEmpty then s
  else (s.setSlot i (fun x => { x with written := (off, d.length) :: x.written })).writeMem (s.huskBase i + off) d

def State.freeSlot (s : State) : Nat :=
  ((List.range 3).find? (fun i => match s.run.husk[i]? with
    | some h => h.state == .free
    | none => false)).getD 0

/-- The steps that may be fed (R285). -/
def State.accepts (s : State) (step : Nat) : Bool :=
  s.run.armed.isSome && decide (s.run.sealed < step ∧ step ≤ s.run.sealed + 3) && (match s.huskSlot step with
    | some i => (match s.run.husk[i]? with
      | some h => h.state == .feeding
      | none => false)
    | none => true)

def State.feedStep (s : State) (t : Nat) (p : Bytes) (i : Nat) (h : FeedHead) (fresh : Bool) : State × Option Reply :=
  let fl := field p 8 4
  let off := field p 0x10 8
  let n := field p 0x18 8
  let id := s.runningSession t
  let d := if bit fl 1 then [] else p.drop 0x40
  let s1 := if fresh then s.takeSlot i (field p 0 8) h else s
  if bit fl 0 then
    if s1.entryWhole i h (if d.isEmpty then [] else [(off, d.length)]) then
      let s2 := s1.feedBytes i off d
      let s3 := if bit fl 1 then s2.openTransfer id { number := field p 0xC 4, use := .husk (field p 0 8), region := 0, base := off, len := n, got := [] } else s2
      (s3.closeHusk i h, some okReply)
    else (s, some { status := 0x0104 })
  else if bit fl 1 then
    (s1.openTransfer id { number := field p 0xC 4, use := .husk (field p 0 8), region := 0, base := off, len := n, got := [] }, some accepted)
  else (s1.feedBytes i off d, some okReply)

def execStepFeed (t : Nat) (p : Bytes) (s : State) : Out :=
  hostCmd 0x0801 t p (fun s =>
    let fl := field p 8 4
    let bulk := bit fl 1
    let head := bit fl 2
    let n := field p 0x18 8
    let slot := s.huskSlot (field p 0 8)
    let old := slot.map s.fedHead
    let h := old.getD (feedHead p)
    let id := s.runningSession t
    checked
      ([ (!s.accepts (field p 0 8), wrongState), wrong (decide (7 < fl)) 8, wrong (if bulk then s.numberOpen id (field p 0xC 4) else field p 0xC 4 != 0) 0xC,
         wrong ((head || old.isSome) && !h.takes (field p 0x10 8) n) 0x10, (!bulk && (decide (4032 < n) || p.length != 0x40 + n), badLength 0x18) ]
        ++ (if head then headChecks (feedHead p) old (reserved p 0x2C 4) else noHeadChecks p)
        ++ [ (old.isNone && !head, { status := 0x0104 }), (old.isNone && decide (s.huskEntrySize < h.dataEnd), noResource),
             (bulk && decide (64 ≤ (s.transfersOf id).length), noResource) ]) s
      (fun s => s.feedStep t p (slot.getD s.freeSlot) h old.isNone)) s

/-! RUN_ARM. -/

/-- The staged restore that a RUN_ARM with flags bit 0 uses, if its run ID and key are those staged (R354). -/
def restoreChecks (c : Ckpt) (p : Bytes) : List (Bool × Reply) :=
  if bit (field p 0x2A 2) 0 = false then []
  else
    match c.staged with
    | none => []
    | some r => [wrong (r.runId != field p 0 16) 0, wrong (r.keyLo.toNat != field p 0x18 8 || r.keyHi.toNat != field p 0x20 8) 0x18]

def armedOf (p : Bytes) (v0 : Nat) : Armed :=
  { runId := field p 0 16, seed := BitVec.ofNat 64 (field p 0x10 8), keyLo := BitVec.ofNat 64 (field p 0x18 8), keyHi := BitVec.ofNat 64 (field p 0x20 8),
    husk := field p 0x28 2, flags := field p 0x2A 2, v0 := v0 }

/-- A husk region that is known, the Owner's, and a data region. -/
def State.huskOk (s : State) (i : Nat) : Bool :=
  match s.ownRegion 0 i with
  | some g => g.kind == 0
  | none => false

def State.huskSmall (s : State) (i : Nat) : Bool :=
  match s.region i with
  | some g => decide (g.size / 6 < mib2)
  | none => true

/-- Every M-die holds V0 in buffer 0 of a pair, and its other buffer is EMPTY. -/
def State.armPair (v0 : Nat) (s : State) (e : Nat × Job) : State :=
  let s1 := s.withMem { s.mem with pairV0 := SMap.insert s.mem.pairV0 e.1 v0 }
  (List.range 8).foldl (fun st m => (st.rebuildWc e.2 m v0 0).setPairDie e.1 m { PairDie.blank with buf0 := .held v0, wc := .held v0 }) s1

/-- The first uncorrectable atom among the masters that the rebuild reads. -/
def State.badMaster (s : State) : Option Nat :=
  s.pairJobs.findSome? (fun e => s.badIn (s.regionBase e.1 + bufferOff e.2.n 0) (plane4 e.2.n))

/-- Arm the run: nothing of an earlier run remains, and every WC plane is built from V0 with the scale state of step V0 + 1 (R207, R210, R211). -/
def State.armRun (s : State) (a : Armed) (stag : SMap Nat) : State :=
  let s1 := s.withRun { Run.start with mode := .armed, armed := some a, lastArmed := some a.runId, sealed := a.v0, sealedBase := a.v0, audit := s.run.audit,
                                       v0s := s.run.v0s, resolution := { Run.start.resolution with limit := s.run.resolution.limit } }
  let m := s1.mem
  let s2 := s1.withMem { m with jobRuns := [], sums := [], adds := [], drained := 0, segs := [], early := [], waiting := [], outbox := [], guards := [] }
  let s3 := (s2.withSteps []).withNum { s2.num with history := [], stag := stag }
  let s4 := s3.pairJobs.foldl (State.armPair a.v0) (s3.beginNumerics (a.v0 + 1))
  let c := s3.recov
  let partnered := (s3.pairJobs.filter (fun e => c.partner.isSome && e.2.mirror != 0)).map (·.1)
  let s5 := (s3.withMem s4.mem).withRecov { c with mirror := partnered.foldl (fun x r => SMap.insert x r .stale) [], retries := [], mirrorBad := [], refreshing := [] }
  let s6 := s5.pairJobs.foldl (fun st e => (List.range 8).foldl (fun q m => q.noteRebuild e.1 a.v0 m) st) s5
  (s6.withLedger { s6.ledger with seals := [] }).withCkpt { s6.ckpt with staged := none, last := none, lastStart := none, deferred := false }

def execRunArm (t : Nat) (p : Bytes) (s : State) : Out :=
  hostCmd 0x0802 t p (fun s =>
    let id := field p 0 16
    let used := bit (field p 0x2A 2) 0
    let v0 := if used then (match s.ckpt.staged with
      | some r => r.version
      | none => 0) else 0
    let stag := if used then (match s.ckpt.staged with
      | some r => r.stag
      | none => []) else []
    match s.frame.table with
    | none => (s, some wrongState)
    | some tb =>
      checked
        ([ (s.member.isNone || !s.frame.loaded, wrongState), (s.ckpt.restore.isSome, busy),
           wrong (id == 0 || (s.run.lastArmed == some id && s.ckpt.staged.isNone)) 0 ]
          ++ restoreChecks s.ckpt p
          ++ [ wrong (!s.huskOk (field p 0x28 2)) 0x28, wrong (decide (1 < field p 0x2A 2) || (used && s.ckpt.staged.isNone)) 0x2A, reserved p 0x2C 4 ]) s
        (fun s =>
          if tb.period ≠ s.frame.period ∨ (s.tableRefs tb).isEmpty = false ∨ s.runChecks tb = false then s.noField
          else
            checked [((s.num.emu && decide (256 < s.memberCount)) || s.huskSmall (field p 0x28 2), noResource)] s (fun s =>
              match s.badMaster with
              | some x => (s.noteUe x, some eccReply)
              | none => (s.armRun (armedOf p v0) stag, some (okWith (leBytes 8 v0)))))) s

/-! RUN_START. -/

/-- This module's pairing record: its rank, its partner, its job fold and its version (R312, R355, log entry 30). -/
def State.pairingRecord (s : State) : Bytes :=
  leBytes 2 s.rank ++ leBytes 2 (s.recov.partner.getD 0xFFFF) ++ zeros 4 ++ leBytes 8 (jobFold s.jobs).toNat ++ leBytes 8 s.run.sealed

/-- The exchange begins: the record goes to every other member, and every mirror awaits its refresh. -/
def State.beginStart (s : State) : State :=
  let d := s.pairingRecord
  let c := s.recov
  let mirrors := if c.partner.isSome then (s.pairJobs.filter (fun e => e.2.mirror != 0)).map (·.1) else []
  let s1 := (s.withRun { s.run with startSeq := some s.clk.elapsed, startSent := false, v0s := SMap.insert s.run.v0s s.rank s.run.sealed }).withRecov
    { c with refreshing := mirrors, mirror := mirrors.foldl (fun x r => SMap.insert x r .stale) c.mirror }
  ((List.range s.memberCount).filter (· != s.rank)).foldl (fun st r => st.openSend { typ := tTransfer, cls := 9, dstRank := r, data := d }) s1

/-- The partner's record is there and agrees: it names this rank, and its job fold is this module's. -/
def State.pairAgrees (s : State) : Bool :=
  match s.recov.partner, s.recov.pairRec with
  | none, _ => true
  | some _, none => false
  | some _, some (_, names, fold) => names == s.rank && fold == jobFold s.jobs

def State.sendRefreshes (s : State) : State :=
  let s1 := s.withRun { s.run with startSent := true }
  (s1.pairJobs.filter (fun e => e.2.mirror != 0)).foldl (fun st e => st.sendRefresh e.1 e.2 st.run.sealed) s1

/-- A transfer to the partner is still open. -/
def State.refreshOpen (s : State) : Bool :=
  match s.recov.partner with
  | none => false
  | some q => (List.range 2).any (fun n => (s.ndie n).slots.any (fun e => e.2.typ == tTransfer && e.2.dstRank == q))
      || s.fab.waitOps.any (fun o => o.typ == tTransfer && o.dstRank == q)

/-- The waits are over: every member's record has come, or 10 s have passed, and both refreshes have been verified. -/
def State.startReady (s : State) : Bool :=
  let late := match s.unpairedAt with
    | some x => decide (x ≤ s.clk.elapsed)
    | none => false
  ((List.range s.memberCount).all (fun r => (SMap.find? s.run.v0s r).isSome) || late) && s.recov.refreshing.isEmpty && !s.refreshOpen

/-- The lowest rank whose version differs from rank 0's. -/
def State.mixedRank (s : State) : Option Nat :=
  match SMap.find? s.run.v0s 0 with
  | none => none
  | some v => (s.run.v0s.find? (fun e => e.2 != v)).map (·.1)

/-- The command leaves its waits. -/
def State.endStart (s : State) : State :=
  (s.withRun { s.run with startSeq := none, startSent := false, v0s := [] }).withRecov { s.recov with refreshing := [] }

/-- The first state of a core in a run: its status, events, exception and objects are reset (R87, R146, R231). -/
def Core.fresh (k : Core) : Core :=
  { k with status := statusReset, stSets := 0, stColl := 0, first := none, exc := none, banned := [], cleared := 0,
           store := if k.entry.isNone then k.store.clear else k.store, overlay := if k.entry.isNone then [] else k.overlay }

/-- The run starts (R400, R27). -/
def State.startRun (s : State) (epoch last : Nat) : State :=
  let r := s.run
  let comma0 := epoch * epochCycles
  let s1 := s.withRun
    { Run.start with mode := .running, armed := r.armed, lastArmed := r.lastArmed, started := true, lastStep := last, sealed := r.sealed,
                     sealedBase := r.sealed, nextComma := some comma0, resolution := { r.resolution with code := 0, step := 0, period := 0 }, husk := r.husk,
                     closedCnt := r.closedCnt, freedCnt := r.freedCnt, audit := r.audit, startRef := comma0, lastVerdict := r.lastVerdict }
  let f := s1.frame
  let s2 := s1.withFrame { f with overruns := 0, stretches := 0, skews := 0, budgets := 0, skewRuns := [], skewFault := false, measO := 0, measU := 0, repO := 0,
                                  repU := 0, quietSeals := 0 }
  let s3 := ((s2.withCores (s2.cores.map (fun e => (e.1, e.2.fresh)))).withSync []).withSyncWin []
  let s4 := s3.withSteps ((SMap.keep (fun k => decide (k ≤ r.sealed)) s3.steps).map (fun e => (e.1, { e.2 with counters := [] })))
  let m := s4.mem
  let s5 := s4.withMem { m with adds := [], drained := 0, stagingCleared := 0, staging := m.staging.clear, early := [], waiting := [], outbox := [] }
  let b := s5.fab
  let s6 := s5.withFab { b with signals := [], exch := [], colls := [], early := [], steps := [], lasts := [], counted := 0, maxOffs := [] }
  let s7 := s6.withClk { s6.clk with expect := (s6.clk.ref / epochCycles + 1) * epochCycles }
  s7.appendStart r.sealed

/-- The epoch in force: none before one has been adopted. -/
def State.epochNow (s : State) : Option Nat := if s.clk.adopted then some (s.clk.ref / epochCycles) else none

/-- What RUN_START answers when its waits end: MIXED_STEPS, WRONG_STATE for an epoch too near, or the run. -/
def State.finishStart (s : State) (epoch last : Nat) : State × Reply :=
  let s1 := s.endStart
  match s.mixedRank with
  | some r => ((s1.withRecov { s1.recov with pairRec := none }).log { code := 0x8019, detail := leBytes 2 r }, { status := 0x0503, payload := leBytes 2 r })
  | none =>
    let far := match s1.epochNow with
      | some e => decide (e + 2 ≤ epoch)
      | none => false
    if far = false ∨ s1.clk.present = false ∨ s1.clk.stopped = true ∨ s1.sup.noRun = true then
      (s1.withRecov { s1.recov with pairRec := none }, wrongState)
    else (s1.startRun epoch last, okWith (leBytes 8 (s1.run.sealed + 1) ++ leBytes 8 (match s1.run.armed with
      | some a => a.v0
      | none => 0)))

/-- RUN_START as far as it can go now: the refreshes follow the partner's record, and the answer follows the refreshes. -/
def State.goStart (s : State) (epoch last : Nat) : State × Option Reply :=
  if s.pairAgrees = false then (s, none)
  else
    let s1 := if s.run.startSent then s else s.sendRefreshes
    if s1.startReady then
      let r := s1.finishStart epoch last
      (r.1, some r.2)
    else (s1, none)

/-- A tenant's running submission is this command with this payload, and waits for an event. -/
def State.waits (s : State) (op t : Nat) (p : Bytes) : Bool :=
  match (s.tenant t).running with
  | some q => q.opcode == op && q.payload.take q.len == p && q.started
  | none => false

/-- The row stands for the command's start, and again for each moment at which its waits let it go on (log entry 59). -/
def execRunStart (t : Nat) (p : Bytes) (s : State) : Out :=
  let epoch := field p 0 8
  let last := field p 8 8
  if s.waits 0x0803 t p then
    let due := s.pairAgrees && (!s.run.startSent || s.startReady)
    if s.run.mode ≠ .armed ∨ due = false then notNow "the waits of RUN_START have not ended"
    else
      match s.goStart epoch last with
      | (s1, some r) => .next (s1.respond t r)
      | (s1, none) => .next s1
  else
    hostCmd 0x0803 t p (fun s =>
      checked [wrong (decide (epochMax < epoch)) 0, wrong (decide (last ≠ 0 ∧ last ≤ s.run.sealed)) 8] s (fun s => s.beginStart.goStart epoch last)) s

/-- The partner's record differs, or has not arrived within 10 s: RUN_START is rejected (R312). -/
def execMirrorUnpaired (s0 : State) : Out :=
  match s0.unpairedAt with
  | none => notNow "no RUN_START waits"
  | some at' =>
    if s0.recov.partner.isNone || s0.run.startSent || s0.pairAgrees then notNow "the pairing records agree"
    else
      let s := if s0.recov.pairRec.isNone then s0.advanceTo (max at' s0.clk.elapsed) else s0
      let s1 := s.endStart
      .next (((s1.withRecov { s1.recov with pairRec := none }).log { code := 0x8001, detail := leBytes 2 (s1.recov.partner.getD 0) }).respond 0 wrongState)

/-! RUN_HOLD (R401). -/

def execRunHold (t : Nat) (p : Bytes) (s : State) : Out :=
  hostCmd 0x0804 t p (fun s =>
    let eff := field p 0 8
    checked [s.passed eff] s (fun s =>
      let e := if eff = 0 then s.run.period + 1 else eff
      (s.withRun { s.run with holdAt := some (match s.run.holdAt with
        | some h => min h e
        | none => e) }, some accepted))) s

/-! SEAL_POLICY_SET (R301). -/

/-- The verdict that caused the hold bars a seal: a failure other than LEDGER_SPACE, a nonzero sum or mismatch, or LEDGER_SPACE would still be set. -/
def State.sealBarred (s : State) (step : Nat) : Bool :=
  let r := s.stepRec step
  r.failures % 512 != 0 || r.failSums || r.failMismatch != 0 || s.ledgerShort

def execSealPolicySet (t : Nat) (p : Bytes) (s : State) : Out :=
  hostCmd 0x0805 t p (fun s =>
    let limit := field p 0 1
    let code := field p 1 1
    let step := field p 8 8
    let eff := field p 0x10 8
    let named := decide (1 ≤ code ∧ code ≤ 3)
    checked
      [ (named && (decide (0 < eff ∧ eff ≤ s.run.period) || s.run.mode != .held || s.run.heldStep != some step || (code == 1 && s.sealBarred step)), wrongState),
        wrong (decide (15 < limit)) 0, wrong (decide (3 < code)) 1, reserved p 2 6, wrong (code == 0 && step != 0) 8, wrong (named && eff == 0) 0x10 ] s
      (fun s => (s.withRun { s.run with resolution := { limit := if limit = 0 then s.run.resolution.limit else limit, code := code, step := step,
                                                        period := if named then eff else 0 } }, some okReply))) s

/-! REPLAY (R303). -/

/-- A step that runs with lag 0 or lag 1 and has not been verdicted. -/
def State.replayable (s : State) (step : Nat) : Bool :=
  s.run.lag0 == some step || (s.run.lag1 == some step && s.run.ownRec.isNone && s.run.record.isNone)

def execReplay (t : Nat) (p : Bytes) (s : State) : Out :=
  hostCmd 0x0806 t p (fun s =>
    checked [(!s.replayable (field p 0 8), wrongState)] s (fun s => (s.failStep (field p 0 8) fHost, some okReply))) s

/-! STEP_STATUS (R402). -/

/-- The state byte of *Step status*. -/
def State.stepCode (s : State) (step : Nat) : Nat :=
  if (SMap.find? s.ledger.seals step).isSome then 4
  else if s.run.heldStep = some step then 3
  else if s.inRun ∧ s.run.kind = .replay ∧ s.run.lag0 = some step then 5
  else if s.begun step then 2
  else if s.fed step then 1
  else 0

def State.stepStatus (s : State) (step first : Nat) : Bytes :=
  let code := s.stepCode step
  let r := s.stepRec step
  let sum := if code = 4 then [] else r.summary
  let recs := (sum.drop 0x30).drop (32 * first)
  let n := min 125 (recs.length / 32)
  leBytes 8 step ++ leBytes 1 code ++ leBytes 1 (min 255 r.attempts) ++ leBytes 2 r.lastFail ++ leBytes 1 r.lastAct ++ leBytes 1 r.decision ++ leBytes 2 n
    ++ leBytes 8 (match SMap.find? s.ledger.seals step with
      | some q => q.1
      | none => 2 ^ 64 - 1)
    ++ leBytes 1 (bitNat (!sum.isEmpty)) ++ zeros 7 ++ fitTo 0x30 sum ++ recs.take (32 * n)

def execStepStatus (t : Nat) (p : Bytes) (s : State) : Out :=
  hostCmd 0x0807 t p (fun s =>
    checked [reserved p 0xC 4] s (fun s =>
      (s, some (okWith (s.stepStatus (if field p 0 8 = 0 then s.run.lastVerdict else field p 0 8) (field p 8 4)))))) s

end Sys2Proof.Machine
end

