-- ==== Sys2Proof/Machine/CmdNumerics.lean ====
section
/-!
DEFINITION. *Numerics commands* (07_training_numerics R148, R149, R156, R168, R170; 16_vuhal_command_reference R383, *Other payloads*).
-/

namespace Sys2Proof.Machine

/-! NUMERICS_POLICY_SET. -/

def managedAt (b : Bytes) (i : Nat) : Managed :=
  let o := 0x40 + 16 * i
  let fl := field b (o + 7) 1
  { id := field b o 4, layer := field b (o + 4) 2, role := field b (o + 6) 1, scaled := bit fl 0, fmtSel := bit fl 1, amax0 := fp32At b (o + 8),
    fmt := field b (o + 0xC) 1 }

def policyBytes (h : Bytes) : Nat := 0x40 + 16 * field h 4 2

def policyOfBytes (b : Bytes) : Policy :=
  { tag := field b 0x20 8, headroom := field b 6 1, history := field b 7 1, masterMode := field b 8 1, tauExp := field b 9 1, replayLimit := field b 0xA 1,
    flushLimit := field b 0xC 4, actions := (List.range 16).map (fun i => field b (0x10 + i) 1), entries := (List.range (field b 4 2)).map (managedAt b) }

/-- The actions that *Numerics conditions* allows a condition; the basic form allows defaults alone, apart from SATURATE_MANAGED. -/
def actionOk (expert : Bool) (i a : Nat) : Bool :=
  let allowed := if 10 ≤ i then a == 0 else if i = 4 then decide (a ≤ 3) else a == 0 || a == 2 || a == 3
  allowed && (expert || i == 4 || a == defaultActions.getD i 0)

/-- The formats that a managed tensor may have. -/
def Managed.formatOk (m : Managed) : Bool := if m.fmtSel then m.fmt == 2 else if m.scaled then [1, 3, 4, 5].contains m.fmt else true

/-- The faults of entry i (*Managed tensor entry*). -/
def managedFaults (b : Bytes) (all : List Managed) (i : Nat) (m : Managed) : List Fault_ :=
  let o := 0x40 + 16 * i
  let fl := field b (o + 7) 1
  faultIf (!decide (1 ≤ m.id ∧ m.id ≤ 0xFFFFFF) || (all.take i).any (fun x => x.id == m.id)) (badFieldAt o) ++ faultIf (decide (3 < m.role)) (badFieldAt (o + 6))
    ++ faultIf (!decide (1 ≤ fl ∧ fl ≤ 3) || (m.fmtSel && m.role != 2)) (badFieldAt (o + 7)) ++ faultIf (!notNegative m.amax0) (badFieldAt (o + 8))
    ++ faultIf (!m.formatOk) (badFieldAt (o + 0xC)) ++ faultIf (!allZero b (o + 0xD) 3) (badFieldAt (o + 0xD))

/-- The faults of a policy's bytes (R149). -/
def policyFaults (expert : Bool) (b : Bytes) : List Fault_ :=
  let n := field b 4 2
  let p := policyOfBytes b
  let chk := fun (ok : Bool) (o : Nat) => faultIf (!ok) (badFieldAt o)
  faultIf (decide (b.length < 0x40)) (badLengthAt 0) ++ chk (field b 0 4 == 1) 0 ++ chk (decide (n ≤ 4096)) 4 ++ chk (decide (p.headroom ≤ 4)) 6
    ++ chk (decide (1 ≤ p.history ∧ p.history ≤ 64)) 7 ++ chk (decide (p.masterMode ≤ 1)) 8 ++ chk (decide (4 ≤ p.tauExp ∧ p.tauExp ≤ 20)) 9
    ++ chk (decide (1 ≤ p.replayLimit ∧ p.replayLimit ≤ 3)) 0xA ++ chk (allZero b 0xB 1) 0xB
    ++ p.actions.zipIdx.flatMap (fun a => chk (actionOk expert a.2 a.1) (0x10 + a.2)) ++ chk (allZero b 0x28 24) 0x28
    ++ (if 4096 < n then [] else if b.length < policyBytes b then [badLengthAt 4]
        else p.entries.zipIdx.flatMap (fun e => managedFaults b p.entries e.2 e.1))

/-- The master mode that a region's policy holds, where the region has one. -/
def State.masterModeIn (s : State) (t i : Nat) : Option Nat :=
  match s.ownRegion t i with
  | none => none
  | some g => if g.size ≤ 8 then none else some (field (s.readMem (g.base + 8) 1) 0 1)

/-- Every job in force is managed by a policy (R149). -/
def State.jobsManaged (s : State) (p : Policy) : Bool := s.jobs.all (fun e => p.managesWc e.2.wcId)

/-- A policy that is well formed takes effect, or is staged after the checks of the armed run (R148, R383). -/
def State.placePolicy (s : State) (p : Policy) (eff : Nat) : State × Option Reply :=
  if s.inRun then
    let s1 := s.withNum { s.num with staged := SMap.insert s.num.staged eff p }
    if (s1.viewAt eff).armHolds = false then s.noField
    else checked [stageFull s.num.staged eff] s (fun _ => (s1, some okReply))
  else if s.run.mode = .armed ∧ s.jobsManaged p = false then s.noField
  else (s.withNum { s.num with policy := p }, some okReply)

def policySet (expert : Bool) (t : Nat) (p : Bytes) (s : State) : State × Option Reply :=
  let eff := field p 8 8
  let mode := (s.masterModeIn t (field p 0 2)).getD s.num.policy.masterMode
  checked [s.passed eff, (s.inRun && mode != s.num.policy.masterMode, wrongState), reserved p 2 6, s.effField eff 8] s (fun s =>
    s.withSource t (field p 0 2) 0 0x40 policyBytes (fun b s =>
      match firstFault (policyFaults expert b) with
      | some f => (s, some (faultReply f))
      | none => s.placePolicy (policyOfBytes b) eff))

def execNumericsPolicySet (t : Nat) (p : Bytes) (s : State) : Out := hostCmd 0x0901 t p (policySet false t p) s

def execNumericsPolicySetExpert (t : Nat) (p : Bytes) (s : State) : Out := hostCmd 0x8901 t p (policySet true t p) s

/-! SCALE_STATE_READ. -/

def execScaleStateRead (t : Nat) (p : Bytes) (s : State) : Out :=
  readCmd 0x0902 t p (fun s =>
    let step := if field p 0 8 = 0 then s.run.sealed else field p 0 8
    let held := step != 0 && ((s.huskSlot step).isSome || step == s.run.sealed)
    match firstFail [wrong (decide (0xFFFFFF < field p 8 4)) 8, reserved p 0xC 4, (!held, noResource)] with
    | some r => r
    | none =>
      let es := ((s.stepRec step).scale.filter (fun e => decide (field p 8 4 ≤ e.1))).take 255
      okWith (leBytes 8 step ++ leBytes 4 es.length ++ zeros 4 ++ scaleRecords es)) s

/-! LAYER_WATCH_SET (R168). -/

def watchAt (p : Bytes) (i : Nat) : WatchEntry :=
  let o := 16 + 16 * i
  { layer := field p o 2, on := bit (field p (o + 2) 2) 0, high := fp32At p (o + 4), floor := fp32At p (o + 8), limit := field p (o + 0xC) 4 }

/-- Not negative, where infinity is allowed (R472). -/
def notNegativeOrInf (w : W32) : Bool := notNegative w || w == 0x7F800000#32

def watchChecks (p : Bytes) (i : Nat) : List (Bool × Reply) :=
  let o := 16 + 16 * i
  let w := watchAt p i
  [wrong (decide (1 < field p (o + 2) 2)) (o + 2), wrong (!notNegativeOrInf w.high) (o + 4), wrong (!notNegativeOrInf w.floor) (o + 8)]

def addWatches (m : SMap WatchEntry) (l : List WatchEntry) : SMap WatchEntry := l.foldl (fun m w => SMap.insert m w.layer w) m

/-- The table that the entries in force, those staged and the new ones make together. -/
def State.watchUnion (s : State) (staged : SMap (List WatchEntry)) : SMap WatchEntry := staged.foldl (fun m e => addWatches m e.2) s.num.watch

def execLayerWatchSet (t : Nat) (p : Bytes) (s : State) : Out :=
  hostCmd 0x0903 t p (fun s =>
    let n := field p 0 1
    let eff := field p 8 8
    let ws := (List.range n).map (watchAt p)
    let staged := SMap.insert s.num.stagedWatch eff ws
    checked
      ([s.passed eff, wrong (n == 0) 0, (decide (p.length < 16 + 16 * n), badLength 0), reserved p 1 7, s.effField eff 8] ++ (List.range n).flatMap (watchChecks p)
        ++ [(decide (1024 < (s.watchUnion staged).length), noResource), (s.inRun && (stageFull s.num.stagedWatch eff).1, noResource)]) s
      (fun s =>
        if s.inRun then (s.withNum { s.num with stagedWatch := staged }, some okReply)
        else (s.withNum { s.num with watch := addWatches s.num.watch ws }, some okReply))) s

/-! EMULATION_MODE_SET (R170). -/

def execEmulationModeSet (t : Nat) (p : Bytes) (s : State) : Out :=
  hostCmd 0x0904 t p (fun s =>
    checked [wrong (decide (1 < field p 0 1)) 0, reserved p 1 7] s (fun s => (s.withNum { s.num with emu := field p 0 1 == 1 }, some okReply))) s

end Sys2Proof.Machine
end

