-- ==== Sys2Proof/Machine/CmdRecov.lean ====
section
/-!
DEFINITION. Mirror, spare, fence, health and probation commands (13_mirror_spares_recovery R311, R320, R326, R328, R329, R333 to R335).
-/

namespace Sys2Proof.Machine

/-! MIRROR_PAIR_SET (R311). -/

def execMirrorPairSet (t : Nat) (p : Bytes) (s : State) : Out :=
  hostCmd 0x0A01 t p (fun s =>
    let r := field p 0 2
    let fl := field p 2 2
    let bad := if bit fl 0 then r != 0 else r == s.rank || !s.rankKnown r
    checked [wrong (decide (16383 < r) || bad) 0, wrong (decide (1 < fl)) 2, reserved p 4 4] s (fun s =>
      (s.withRecov { s.recov with partner := if bit fl 0 then none else some r, pairRec := none }, some okReply))) s

/-! SPARE_ENROL (R328). -/

def execSpareEnrol (t : Nat) (p : Bytes) (s : State) : Out :=
  hostCmd 0x0A02 t p (fun s =>
    checked [(s.member.isSome, wrongState), wrong (decide (4095 < field p 0 2)) 0, reserved p 2 6] s (fun s =>
      ((s.withRun { s.run with mode := .standby }).withRecov { s.recov with standby := some (field p 0 2) }, some okReply))) s

/-! TAKEOVER (R329). -/

/-- The table that an epoch of a slice names, in force or pending. -/
def State.epochTable (s : State) (sl e : Nat) : Option RouteTable :=
  let x := s.sliceTables sl
  ([x.current, x.pending].filterMap id).find? (fun q => q.epoch == e)

/-- The partner has a member under the epoch named, and is not the rank itself. -/
def State.partnerOk (s : State) (sl e rank partner : Nat) : Bool :=
  partner != rank && (match s.epochTable sl e with
    | some q => decide (partner < q.members.length)
    | none => false)

def takeoverOf (p : Bytes) : Takeover :=
  { rank := field p 0 2, failed := field p 2 2, epoch := field p 4 4, runId := field p 8 16, keyLo := BitVec.ofNat 64 (field p 0x18 8),
    keyHi := BitVec.ofNat 64 (field p 0x20 8), partner := field p 0x28 2, started := false, got := 0, step := 0 }

/-- The takeover waits for its epoch, or starts where the epoch is in force already. -/
def State.beginTakeover (s : State) (sl : Nat) (k : Takeover) : State :=
  let s1 := s.withRecov { s.recov with takeover := some k }
  match (s.sliceTables sl).current with
  | some q => if q.epoch = k.epoch then s1.startTakeover sl k else s1
  | none => s1

def execTakeover (t : Nat) (p : Bytes) (s : State) : Out :=
  hostCmd 0x0A03 t p (fun s =>
    let sl := s.recov.standby.getD 0
    checked
      [ (s.sup.noRun, wrongState), (s.recov.takeover.isSome, busy), wrong (decide (16383 < field p 0 2)) 0, wrong (decide (16383 < field p 2 2)) 2,
        wrong (decide (16383 < field p 0x28 2) || !s.partnerOk sl (field p 4 4) (field p 0 2) (field p 0x28 2)) 0x28, reserved p 0x2A 6 ] s
      (fun s => (s.beginTakeover sl (takeoverOf p), some accepted))) s

/-! FENCE (R326). A module that is fenced is left unchanged. -/

def fenceCmd (expert : Bool) (s : State) : State × Option Reply :=
  if s.run.mode = .fenced then (s, some okReply)
  else
    let s1 := (s.log { code := 0x800C, alert := true }).fenceModule
    (if expert then s1.withRecov { s1.recov with noTransit := true } else s1, some okReply)

def execFence (t : Nat) (p : Bytes) (s : State) : Out := hostCmd 0x0A04 t p (fenceCmd false) s

def execFenceExpert (t : Nat) (p : Bytes) (s : State) : Out := hostCmd 0x8A04 t p (fenceCmd true) s

/-! DIE_SWAP (R320). -/

def execDieSwap (t : Nat) (p : Bytes) (s : State) : Out :=
  hostCmd 0x0A05 t p (fun s =>
    let d := field p 0 1
    checked
      [ ((dieCores d).any s.coreBusy, busy), wrong (decide (7 < d)) 0, reserved p 1 7, (s.spareDie.isNone || s.recov.swap.isSome, noResource) ] s
      (fun s => (s.failDie d, some okReply))) s

/-! HEALTH_READ (R334). -/

def State.healthFlags (s : State) : Nat :=
  bitNat s.recov.probation + 2 * bitNat (s.run.mode == .fenced) + 4 * bitNat s.recov.selfFenced + 8 * bitNat (s.run.mode == .standby) + 16 * bitNat s.spareDie.isSome

/-- The bits of a set of small numbers. -/
def setBits (l : List Nat) (n : Nat) : Nat := (List.range n).foldl (fun a i => if l.contains i then a + 2 ^ i else a) 0

def State.healthHeader (s : State) (n : Nat) : Bytes :=
  let c := s.recov
  leBytes 4 ((match c.late.head? with
      | some w => w.window
      | none => 0) % 2 ^ 32)
    ++ leBytes 2 c.threshold ++ leBytes 2 s.healthFlags ++ leBytes 2 n ++ leBytes 2 (setBits c.retired 9) ++ leBytes 1 (s.spareDie.getD 0xFF) ++ zeros 3
    ++ leBytes 8 (setBits ((c.spareUsed.filter (fun e => e.2)).map (·.1)) 64) ++ leBytes 4 c.remaps ++ leBytes 4 c.swaps ++ leBytes 4 c.shadowBad
    ++ leBytes 4 c.unshadowed ++ leBytes 4 c.digestBad ++ leBytes 4 c.refreshes ++ leBytes 4 s.run.missed ++ leBytes 4 c.selfFences ++ zeros 8

def State.isOwnRank (s : State) (r : Nat) : Bool :=
  match s.member with
  | some (_, x) => x == r
  | none => false

def State.rankFlags (s : State) (r : Nat) : Nat :=
  bitNat (s.recov.suspects.contains r) + 2 * bitNat (s.isOwnRank r) + 4 * bitNat (s.recov.partner == some r)

def State.healthRecord (s : State) (r : Nat) : Bytes :=
  let l := s.recov.late
  leBytes 2 r ++ leBytes 2 (s.rankFlags r) ++ leBytes 4 (sat32 (lateSum l r)) ++ leBytes 4 (sat32 (l.map (fun w => w.counted)).sum)
    ++ leBytes 4 (sat32 ((l.map (fun w => SMap.get 0 w.maxOffs r)).foldl max 0))

/-- The ranks that have a record, in ascending order. -/
def State.healthRanks (s : State) (first : Nat) : List Nat :=
  let named := s.recov.late.flatMap (fun w => w.lasts.map (·.1)) ++ s.recov.suspects ++ s.recov.partner.toList ++ (s.member.map (·.2)).toList
  ((named.foldl (fun (m : SMap Bool) r => SMap.insert m r true) []).map (·.1)).filter
    (fun r => decide (first ≤ r) && (s.rankFlags r != 0 || lateSum s.recov.late r != 0))

def execHealthRead (t : Nat) (p : Bytes) (s : State) : Out :=
  readCmd 0x0A06 t p (fun s =>
    match firstFail [wrong (decide (16383 < field p 0 2)) 0, reserved p 2 6] with
    | some r => r
    | none =>
      let rs := (s.healthRanks (field p 0 2)).take 252
      okWith (s.healthHeader rs.length ++ rs.flatMap s.healthRecord)) s

/-! PROBATION_SET (R335). -/

/-- A threshold takes effect at once: ranks at or above it are SUSPECT; the flag of the others clears at a period (R333). -/
def State.setThreshold (s : State) (n : Nat) : State :=
  if n = 0 then s
  else
    let c := s.recov
    let ranks := dedup (c.late.flatMap (fun w => w.lasts.map (·.1)))
    let up := ranks.filter (fun r => decide (n ≤ lateSum c.late r) && !c.suspects.contains r)
    up.foldl (fun st r => st.log { code := 0x8010, detail := leBytes 2 r }) (s.withRecov { c with threshold := n, suspects := c.suspects ++ up })

def State.probationFor (s : State) (what eff : Nat) : State :=
  if what = 2 then s
  else if s.inRun then s.withRecov { s.recov with stagedProb := SMap.insert s.recov.stagedProb eff (what == 1) }
  else s.setProbation (what == 1)

def execProbationSet (t : Nat) (p : Bytes) (s : State) : Out :=
  hostCmd 0x0A07 t p (fun s =>
    let eff := field p 8 8
    let full := stageFull s.recov.stagedProb eff
    checked
      [ s.passed eff, wrong (decide (64 < field p 0 1)) 0, wrong (decide (2 < field p 1 1)) 1, reserved p 2 6, s.effField eff 8,
        (s.inRun && field p 1 1 != 2 && full.1, full.2) ] s
      (fun s => ((s.setThreshold (field p 0 1)).probationFor (field p 1 1) eff, some okReply))) s

end Sys2Proof.Machine
end

