-- ==== Sys2Proof/Machine/CmdCkpt.lean ====
section
/-!
DEFINITION. Checkpoint and restore commands (14_checkpoint_restore R339, R341, R351 to R354).
-/

namespace Sys2Proof.Machine

/-! CHECKPOINT_POLICY_SET (R339). -/

def ckptPolicyOf (p : Bytes) : CkptPolicy :=
  { flags := field p 0 1, chunks := field p 1 1, sink := field p 4 4, steps := field p 8 4, timer := field p 0xC 4,
    limits := (List.range 16).map (fun i => field p (0x10 + 2 * i) 2) }

def ckptPolicySet (expert : Bool) (p : Bytes) (s : State) : State × Option Reply :=
  let q := ckptPolicyOf p
  checked
    [ wrong (decide ((if expert then 7 else 3) < q.flags)) 0, wrong (decide (16 < q.chunks)) 1, reserved p 2 2, wrong (!s.ownerSession q.sink) 4,
      wrong (bit q.flags 0 && !decide (1 ≤ q.steps ∧ q.steps ≤ 1000000)) 8, wrong (bit q.flags 1 && !decide (60 ≤ q.timer ∧ q.timer ≤ 86400)) 0xC,
      reserved p 0x30 16 ] s
    (fun s => (s.withCkpt (if s.inRun then { s.ckpt with stagedPol := some q } else { s.ckpt with policy := q }), some okReply))

def execCheckpointPolicySet (t : Nat) (p : Bytes) (s : State) : Out := hostCmd 0x0B01 t p (ckptPolicySet false p) s

def execCheckpointPolicySetExpert (t : Nat) (p : Bytes) (s : State) : Out := hostCmd 0x8B01 t p (ckptPolicySet true p) s

/-! CHECKPOINT_NOW (R341). -/

/-- Every pair holds a version on every M-die. -/
def State.pairsHold (s : State) (v : Nat) : Bool :=
  s.pairJobs.all (fun e => (List.range 8).all (fun m => let d := s.pairDie e.1 m; d.buf0 == .held v || d.buf1 == .held v))

/-- During a run the command waits for the period, which answers it. -/
def execCheckpointNow (t : Nat) (p : Bytes) (s : State) : Out :=
  hostCmd 0x0B02 t p (fun s =>
    let v := if field p 0 8 = 0 then s.run.sealed else field p 0 8
    checked [(!s.inRun && !s.pairsHold v, wrongState), (s.ckpt.run.isSome || s.ckpt.restore.isSome || s.ckpt.now.isSome, busy)] s (fun s =>
      if s.inRun then (s.withCkpt { s.ckpt with now := some (field p 0 8), nowFor := some t }, none) else (s.startCheckpoint v, some okReply))) s

/-! CHECKPOINT_STATUS and MANIFEST_READ (R351). -/

def State.ckptState (s : State) : Nat :=
  match s.ckpt.run, s.ckpt.restore with
  | some r, _ => if r.reading then 2 else 1
  | none, some _ => 3
  | none, none => 0

def State.ckptView (s : State) : Bytes :=
  let c := s.ckpt
  let run := c.run.getD { version := 0, session := 0, byDigest := false, reading := false, streams := [], allow := [], sent := 0, verified := 0, resent := 0,
                          pos := 0, lastBack := 0, part := [] }
  let back := c.restore.map (fun r => (r.version, r.received))
  leBytes 1 s.ckptState ++ leBytes 1 (bitNat c.deferred + 2 * bitNat c.staged.isSome) ++ leBytes 2 c.status ++ leBytes 4 c.deferrals
    ++ leBytes 8 (match back with
      | some x => x.1
      | none => run.version)
    ++ leBytes 8 (c.done.getD (2 ^ 64 - 1)) ++ leBytes 8 run.sent
    ++ leBytes 8 (match back with
      | some x => x.2
      | none => run.verified)
    ++ leBytes 4 run.resent ++ zeros 4 ++ fitTo 32 c.sha

def execCheckpointStatus (t : Nat) (p : Bytes) (s : State) : Out := readCmd 0x0B03 t p (fun s => okWith s.ckptView) s

def execManifestRead (t : Nat) (p : Bytes) (s : State) : Out :=
  readCmd 0x0B05 t p (fun s => if s.ckpt.done.isNone then noResource else okWith (s.ckpt.manifest.take 4096)) s

/-! RESTORE (R352 to R354). -/

/-- The length of a DER object, from its first bytes. -/
def derLength (b : Bytes) : Nat :=
  let n := field b 1 1
  if n < 128 then 2 + n else 2 + (n - 128) + beNat (slice b 2 (n - 128))

/-- The faults of the manifest as a structure, and of its length. -/
def manifestFaults (m : Bytes) : List (Bool × Reply) :=
  [ wrong (field m 0 4 != 1) 0, reserved m 0x52 2, reserved m 0x58 8, (manLength m != m.length, badLength 4) ]

/-- The first digest record whose step differs from a version. -/
def mixedDigest (m : Bytes) (v : Nat) : Option Nat := (List.range (manPairs m)).find? (fun i => field (manDigest m i) 8 8 != v)

/-- The certificate chains to an anchor of some tenant, and the signature over the manifest verifies. -/
def State.manifestSigned (s : State) (m cert : Bytes) : Bool :=
  (List.range 4).any (fun t => s.sup.opts.anchors.getD t 0 != 0 && Config.chains t cert)
    && Config.signatureOk cert (sha256 (m.take (m.length - 384))) (m.drop (m.length - 384))

/-- Checks 1 to 5 of *Restore checks*: the first that fails, with the event's detail. -/
def State.restoreRefusal (s : State) (p m cert : Bytes) : Option (Reply × Bytes) :=
  let v := field p 8 8
  let ranked := match s.member with
    | some (_, r) => manRank m == r
    | none => false
  if s.manifestSigned m cert = false then some ({ status := 0x0502 }, [])
  else if manRun m ≠ field p 0x10 16 then some (badField 0x10, [])
  else if manVersion m ≠ v then some ({ status := 0x0503 }, [])
  else
    match mixedDigest m v with
    | some i => some ({ status := 0x0503, payload := leBytes 2 i }, leBytes 2 i)
    | none =>
      if ranked = false then some (badField 0x06, [])
      else if manFold m ≠ (jobFold s.jobs).toNat then some (badField 0x28, [])
      else if (s.restoreStreams m).any (fun x => x.isNone) then some (noResource, [])
      else none

/-- The reception opens: an earlier restore ends, and the staging buffers are EMPTY. -/
def State.openRestore (s : State) (p m : Bytes) : State :=
  let s1 := s.emptyStaging
  s1.withCkpt { s1.ckpt with inbox := s1.ckpt.inbox.filter (fun c => c.kind != 3),
                             restore := some { version := field p 8 8, runId := field p 0x10 16, keyLo := BitVec.ofNat 64 (field p 0x20 8),
                                               keyHi := BitVec.ofNat 64 (field p 0x28 8), session := field p 0x30 4, manifest := m, got := [], state := [],
                                               received := 0 } }

def execRestore (t : Nat) (p : Bytes) (s : State) : Out :=
  hostCmd 0x0B04 t p (fun s =>
    let n := field p 4 4
    let own := s.ownRegion t (field p 0 2)
    let short := match own with
      | some g => decide (g.size < n) || decide (n < 0x60 + 384)
      | none => false
    checked
      [ (s.ckpt.run.isSome || s.jobShards.any s.transferInto, busy), reserved p 2 2, (short, badLength 4), wrong (!s.ownerSession (field p 0x30 4)) 0x30,
        reserved p 0x34 4 ] s (fun s =>
      let at' := roundUp 64 n
      s.withSource t (field p 0 2) 0 n (fun _ => n) (fun m s =>
        checked (manifestFaults m) s (fun s =>
          s.withSource t (field p 0 2) at' 4 derLength (fun cert s =>
            match s.restoreRefusal p m cert with
            | some (r, d) => (s.log { code := 0x8019, detail := leBytes 2 r.status ++ d }, some r)
            | none => (s.openRestore p m, some accepted)))))) s

end Sys2Proof.Machine
end

