-- ==== Sys2Proof/Machine/CmdObserve.lean ====
section
/-!
DEFINITION. *Observation* (16_vuhal_command_reference R403 to R406): telemetry records and streams, the ledger and the audit.
-/

namespace Sys2Proof.Machine

/-! The records of *Telemetry selectors*. -/

/-- *Memory error counters* (R197). -/
def State.memRecord (s : State) (m : Nat) : Bytes :=
  let d := SMap.get MDie.blank s.mem.mdies m
  leBytes 4 m ++ leBytes 4 d.ce ++ leBytes 4 d.ue ++ leBytes 4 d.edcRetry ++ leBytes 4 d.retrain ++ leBytes 4 d.scrubCe ++ leBytes 4 d.scrubUe
    ++ leBytes 4 d.scrubPass ++ leBytes 4 d.addPeak ++ zeros 4 ++ (List.range 9).flatMap (fun i => leBytes 4 (SMap.get 0 d.ceByDevice i))
    ++ (List.range 72).flatMap (fun i => leBytes 2 (SMap.get 0 d.ceByLane i)) ++ (List.range 9).flatMap (fun i => leBytes 4 (SMap.get 0 d.onDevice i))
    ++ leBytes 4 d.stagingCe ++ leBytes 4 d.stagingUe ++ leBytes 8 (d.lastUeMa.getD (2 ^ 64 - 1)) ++ leBytes 2 d.lastUeSyn ++ leBytes 2 (bitNat d.degraded)
    ++ zeros 12

/-- *Near-memory counters* (R229). -/
def State.nearRecord (s : State) (m : Nat) : Bytes :=
  let n := SMap.get NearCounters.blank s.mem.near m
  leBytes 4 m ++ leBytes 4 n.versionGone ++ leBytes 4 n.fallback ++ leBytes 4 n.rebuild ++ leBytes 4 n.delivered ++ leBytes 4 n.stray ++ leBytes 4 n.excess
    ++ leBytes 4 n.holdUs ++ leBytes 4 n.stallCount ++ leBytes 4 n.stallUs ++ leBytes 4 n.jobsDone ++ leBytes 4 n.jobsStopped ++ zeros 16

/-- A free 32-bit value of a read (log entry 61). -/
def State.free32 (s : State) (i : Nat) : Bytes := leBytes 4 ((Config.freeWord (s.fresh + i)).toNat % 2 ^ 32)

/-- *Fabric port counters* (R281). The time a channel waited for credits is free. -/
def State.portRecord (s : State) (p : Nat) : Bytes :=
  let x := s.port p
  let c4 := fun (o : Nat) => leBytes 4 (sat32 (SMap.get 0 x.cnt o))
  let c8 := fun (o : Nat) => leBytes 8 (SMap.get 0 x.cnt o)
  leBytes 1 p ++ leBytes 1 x.stateCode ++ zeros 2 ++ leBytes 4 x.delay ++ [0x08, 0x10, 0x18].flatMap c8 ++ (elems 8 12).flatMap (fun i => c4 (4 * i))
    ++ s.free32 0 ++ c4 0x54 ++ zeros 8

/-- *Operation counters* (R281). How full the reduction buffer has been is free (R278). -/
def State.opsRecord (s : State) (n : Nat) : Bytes :=
  let x := s.ndie n
  let c4 := fun (o : Nat) => leBytes 4 (sat32 (SMap.get 0 x.cnt o))
  leBytes 2 x.slots.length ++ leBytes 2 (SMap.get 0 x.cnt 2) ++ leBytes 4 (sat32 x.opened) ++ leBytes 4 (sat32 x.completed) ++ leBytes 4 (sat32 x.abandoned)
    ++ c4 0x10 ++ c4 0x14 ++ c4 0x18 ++ s.free32 0

/-- *Host port counters* (R376). -/
def State.hostRecord (s : State) (p : Nat) : Bytes :=
  let x := s.hostPort p
  let c4 := fun (o : Nat) => leBytes 4 (sat32 (SMap.get 0 x.cnt o))
  let c8 := fun (o : Nat) => leBytes 8 (SMap.get 0 x.cnt o)
  let seen := s.host.sessions.countP (fun y => match SMap.find? y.seen p with
    | some t => decide (s.clk.elapsed < t + cyclesS)
    | none => false)
  leBytes 1 p ++ leBytes 1 x.state ++ leBytes 2 seen ++ c4 4 ++ c8 8 ++ c8 0x10 ++ (elems 6 8).flatMap (fun i => c4 (4 * i)) ++ zeros 8

/-- A C-die that is not active: its links are disabled (R321). -/
def State.dark (s : State) (d : Nat) : Bool := isCDie d && !s.dieMap.contains d

/-- The state of the link between two dies: up, failed, or disabled (R181, R321). -/
def State.linkState (s : State) (a b : Nat) : Nat :=
  let bad := (s.link (a * 64 + b)).failed || (s.link (b * 64 + a)).failed
  if s.dark a || s.dark b || (bad && isCDie a && isCDie b) then 3 else if bad then 2 else 0

/-- *Link counters* of a die (R198, R403); the count of flits received is free. -/
def State.linkRecord (s : State) (d : Nat) : Bytes :=
  let peers := dieCodes.filter (fun p => linkExists { rx := d, tx := p })
  leBytes 2 d ++ leBytes 2 peers.length ++ leBytes 4 (SMap.get 0 s.mem.sramCe d) ++ leBytes 4 (SMap.get 0 s.mem.sramUe d) ++ zeros 4
    ++ peers.zipIdx.flatMap (fun p =>
      let x := s.link (d * 64 + p.1)
      leBytes 2 p.1 ++ leBytes 1 (s.linkState d p.1) ++ zeros 1 ++ leBytes 4 x.retrains ++ leBytes 8 (Config.freeWord (s.fresh + p.2)).toNat ++ leBytes 4 x.fixed
        ++ leBytes 4 x.replays ++ leBytes 4 x.runs8 ++ zeros 4)

/-- *Power status* (R414). -/
def State.powerRecord (s : State) : Bytes :=
  let u := s.sup
  let mem := (List.range 8).flatMap (fun i => leBytes 2 (natOfInt 16 (u.memTemps.getD i 0)))
  leBytes 4 u.mv ++ leBytes 4 u.ma ++ leBytes 4 (u.means.headD 0 / 1000) ++ leBytes 4 u.cap ++ leBytes 2 u.slew ++ leBytes 2 s.phaseUs
    ++ leBytes 2 (u.limiting % 8 + 8 * bitNat s.recov.probation) ++ zeros 2 ++ leBytes 4 (u.peak / 1000) ++ zeros 4 ++ leBytes 8 (u.energy / 100000000)
    ++ (List.range 7).flatMap (fun i => leBytes 2 (u.watts.getD i 0)) ++ zeros 2 ++ (List.range 20).flatMap (fun i => leBytes 2 (natOfInt 16 (u.temps.getD i 0)))
    ++ mem ++ zeros 16

/-- The indices of a selector, in ascending order; none for a selector that is not listed. -/
def telIndices (sel : Nat) : List Nat :=
  match sel with
  | 1 => List.range 8
  | 2 => List.range 8
  | 3 => List.range 16
  | 4 => [0, 1]
  | 5 => [0, 1]
  | 6 => dieCodes
  | 7 => [0]
  | 8 => [0]
  | _ => []

def State.telRecord (s : State) (sel i : Nat) : Bytes :=
  match sel with
  | 1 => s.memRecord i
  | 2 => s.nearRecord i
  | 3 => s.portRecord i
  | 4 => s.opsRecord i
  | 5 => s.hostRecord i
  | 6 => s.linkRecord i
  | 7 => s.frameStatus
  | _ => s.powerRecord

/-- A read of *Power status* clears its peak (R414). -/
def State.clearPeak (s : State) : State := s.withSup { s.sup with peak := 0 }

/-- What reading a record leaves: the peak cleared, and the free values used. -/
def State.afterTel (s : State) (sel : Nat) : State :=
  let s1 := s.withFresh (s.fresh + 64)
  if sel = 8 then s1.clearPeak else s1

def execTelemetryRead (t : Nat) (p : Bytes) (s : State) : Out :=
  hostCmd 0x0C01 t p (fun s =>
    let sel := field p 0 2
    let i := field p 2 2
    checked [wrong (telIndices sel).isEmpty 0, wrong (!(telIndices sel).contains i) 2, reserved p 4 4] s (fun s =>
      (s.afterTel sel, some (okWith (s.telRecord sel i))))) s

/-! TELEMETRY_STREAM (R404). -/

/-- The selectors of a mask. -/
def maskSelectors (mask : Nat) : List Nat := (elems 1 8).filter (fun k => bit mask (k - 1))

/-- Every record of a mask, with what reading them leaves. -/
def State.telRecords (s : State) (mask : Nat) : State × Bytes :=
  (maskSelectors mask).foldl (fun (a : State × Bytes) sel =>
    (telIndices sel).foldl (fun (x : State × Bytes) i => (x.1.afterTel sel, x.2 ++ x.1.telRecord sel i)) a) (s, [])

/-- The rate of a stream in MB/s, rounded up (log entry 62). -/
def streamRate (bytes ms : Nat) : Nat := ceilDiv bytes (1000 * ms)

def State.streamOf (s : State) (id k : Nat) : Option TelStream :=
  match s.session id with
  | some x => SMap.find? x.streams k
  | none => none

def execTelemetryStream (t : Nat) (p : Bytes) (s : State) : Out :=
  hostCmd 0x0C02 t p (fun s =>
    let act := field p 0 1
    let k := field p 1 1
    let mask := field p 4 4
    let ms := field p 8 4
    let start := act == 0
    let id := s.runningSession t
    let rate := streamRate (s.telRecords mask).2.length ms
    let old := match s.streamOf id k with
      | some x => x.rate
      | none => 0
    let use := (s.uses t).getD 2 0 - old + rate
    checked
      [ wrong (decide (1 < act)) 0, wrong (decide (3 < k)) 1, reserved p 2 2, wrong (start && decide (255 < mask)) 4,
        wrong (start && !decide (1 ≤ ms ∧ ms ≤ 60000)) 8, reserved p 0xC 4, (start && carries t 2 && decide ((s.tenant t).quotaAt 2 < use), overQuota) ] s
      (fun s =>
        let x : TelStream := { mask := mask, interval := ms, rate := rate, next := s.clk.elapsed + ms * cyclesMs }
        let s1 := s.setSession id (fun y => { y with streams := if start then SMap.insert y.streams k x else SMap.erase y.streams k })
        (s1.refreshQuota t, some (okWith (leBytes 4 (if start then rate else 0)))))) s

/-- Bulk-out frames of kind 4: the records of one interval, with offsets within them. -/
def telFrames (stream : Nat) (b : Bytes) : List TxFrame :=
  (fragments (ceilDiv b.length 4096) b).zipIdx.map (fun x => bulkFrame 4 (leBytes 4 stream ++ leBytes 2 x.1.length ++ zeros 2 ++ leBytes 8 (4096 * x.2)) x.1)

/-- A started stream's interval has passed: every record that its mask selects is sent. -/
def execTelemetryStreamInterval (session stream : Nat) (at' : Nat) (s0 : State) : Out :=
  let s := s0.advance at'
  match s.streamOf session stream with
  | none => notNow "no such stream"
  | some x =>
    if s.clk.elapsed < x.next then notNow "the stream's interval has not passed"
    else
      let s1 := s.setSession session (fun y => { y with streams := SMap.insert y.streams stream { x with next := x.next + x.interval * cyclesMs } })
      let r := s1.telRecords x.mask
      .next (r.1.sendFrames session (telFrames stream r.2))

/-! LEDGER_READ (R405). -/

/-- Ledger bytes from an offset of the first entry on, and the entries whose last byte is among the first n of them. -/
def ledgerBytes (n : Nat) : List LedgerEntry → Nat → Bytes × List Nat
  | [], _ => ([], [])
  | e :: es, off =>
    let b := e.bytes.drop off
    if n ≤ b.length then (b.take n, if b.length = n then [e.seq] else [])
    else
      let r := ledgerBytes (n - b.length) es 0
      (b ++ r.1, e.seq :: r.2)

def Ledger.oldest (l : Ledger) : Nat :=
  match l.entries with
  | e :: _ => e.seq
  | [] => l.nextSeq

def execLedgerRead (t : Nat) (p : Bytes) (s : State) : Out :=
  readCmd 0x0C03 t p (fun s =>
    let q := field p 0 8
    let off := field p 8 4
    let l := s.ledger
    let rest := l.entries.dropWhile (fun e => e.seq != q)
    let r := ledgerBytes 4064 rest off
    match firstFail [wrong (match rest with
        | e :: _ => decide (e.bytes.length ≤ off)
        | [] => false) 8, reserved p 0xC 4, (decide (q < l.oldest), noResource)] with
    | some e => e
    | none =>
      { payload := leBytes 8 q ++ leBytes 4 off ++ leBytes 4 r.1.length ++ leBytes 8 l.headNow.1 ++ leBytes 8 l.oldest ++ r.1, ledger := r.2 }) s

/-! COUNTERS_AUDIT_READ (R406). -/

def execCountersAuditRead (t : Nat) (p : Bytes) (s : State) : Out := readCmd 0x0C04 t p (fun s => okWith (fitTo 0x88 s.run.audit)) s

end Sys2Proof.Machine
end

