-- ==== Sys2Proof/Machine/CmdService.lean ====
section
/-!
DEFINITION. *Service and debug* and *Power* (16_vuhal_command_reference R407 to R414; 10_synchronisation R249; 17_reset_power_startup R418, R437 to
R439; 18_supervision_identity_attestation R444, R454).
-/

namespace Sys2Proof.Machine

/-! RESET (R407). -/

def resetTarget (p : Bytes) : ResetTarget := { die := field p 1 1, cluster := field p 2 1, core := field p 3 1 }

/-- The die that a level may name: none at L0 and L1, any but the S-die at L2, a C-die at L3 and L4. -/
def resetDieOk (level die : Nat) : Bool :=
  if level ≤ 1 then die == 0 else if level = 2 then decide (die ≤ 7) || isMDie die || isNDie die else decide (die ≤ 7)

def resetChecks (t : Nat) (p : Bytes) : List (Bool × Reply) :=
  let l := field p 0 1
  let x := resetTarget p
  [ (t == 0 && decide (l ≤ 1), { status := 0x0201 }), wrong (decide (4 < l)) 0, wrong (!resetDieOk l x.die) 1,
    wrong (decide ((if l ≤ 2 then 0 else 7) < x.cluster)) 2, wrong (decide ((if l ≤ 3 then 0 else 7) < x.core)) 3, reserved p 4 4 ]

/-- The command's level, raised as the map requires (R418). -/
def State.commandLevel (s : State) (asked : Nat) : Nat := min asked (s.mapLevel fuCommand)

/-- RESET_RAISED, where the level applied is wider than the level asked for. -/
def State.noteRaised (s : State) (asked level : Nat) : State :=
  if level < asked then s.log { code := 0x1003, detail := leBytes 1 (sourceCode fuCommand) ++ leBytes 1 level } else s

/-- A reset at L0 or L1 waits for its response; of two that wait, the wider begins at the earlier moment. -/
def State.askFor (s : State) (level : Nat) : State :=
  s.withSup { s.sup with askReset := some (match s.sup.askReset with
    | some a => (min a.1 level, a.2)
    | none => (level, s.clk.elapsed)) }

def execReset (t : Nat) (p : Bytes) (s : State) : Out :=
  hostCmd 0x0D01 t p (fun s =>
    let asked := field p 0 1
    let level := s.commandLevel asked
    checked (resetChecks t p) s (fun s =>
      let s1 := s.noteRaised asked level
      if level ≤ 1 then (s1.askFor level, some { payload := leBytes 1 level, reset := true })
      else (s1.beginReset fuCommand level (resetTarget p) [], some { status := 1, payload := leBytes 1 level }))) s

/-! Requests to the safety partition (R408, R414, R437, R438, R444): the command waits for the partition's answer. -/

def State.ask (s : State) (item value t : Nat) : State := s.withSup { s.sup with asks := s.sup.asks ++ [{ item := item, value := value, tenant := some t }] }

def execServiceStateSet (t : Nat) (p : Bytes) (s : State) : Out :=
  hostCmd 0x0D02 t p (fun s =>
    checked [wrong (decide (1 < field p 0 1)) 0, reserved p 1 7] s (fun s => (s.ask itemService (field p 0 1) t, none))) s

def execPowerCapSet (t : Nat) (p : Bytes) (s : State) : Out :=
  hostCmd 0x0F01 t p (fun s =>
    checked [wrong (!decide (1200 ≤ field p 0 4 ∧ field p 0 4 ≤ 3000)) 0, reserved p 4 4] s (fun s => (s.ask itemCap (field p 0 4) t, none))) s

/-- The value of a ramp request: the slew limit, with the phase above it. -/
def rampPolicySet (expert : Bool) (t : Nat) (p : Bytes) (s : State) : State × Option Reply :=
  let slew := field p 0 2
  let phase := field p 2 2
  checked
    [ wrong (!decide (100 ≤ slew ∧ slew ≤ 1200)) 0, wrong (if expert then !decide (1 ≤ phase ∧ phase ≤ 10000) else phase != 0) 2, reserved p 4 4 ] s
    (fun s => (s.ask itemRamp (slew + phase * 65536) t, none))

def execRampPolicySet (t : Nat) (p : Bytes) (s : State) : Out := hostCmd 0x0F03 t p (rampPolicySet false t p) s

def execRampPolicySetExpert (t : Nat) (p : Bytes) (s : State) : Out := hostCmd 0x8F03 t p (rampPolicySet true t p) s

def execPowerStatus (t : Nat) (p : Bytes) (s : State) : Out := hostCmd 0x0F02 t p (fun s => (s.clearPeak, some (okWith s.powerRecord))) s

/-! ESCALATION_READ (R409). -/

def ResetLog.record (x : ResetLog) : Bytes :=
  leBytes 8 x.ref ++ leBytes 1 x.source ++ leBytes 1 x.level ++ leBytes 1 x.die ++ leBytes 1 x.cluster ++ leBytes 1 x.core ++ leBytes 1 (bitNat x.raised)
    ++ zeros 2

def State.escalationView (s : State) : Bytes :=
  let u := s.sup
  leBytes 1 (bitNat u.outOf + 2 * bitNat u.returning) ++ leBytes 1 escThreshold ++ leBytes 2 u.outCause ++ leBytes 4 (escWindow / cyclesS)
    ++ leBytes 4 s.countedNow.length ++ zeros 4 ++ u.resets.flatMap ResetLog.record

def execEscalationRead (t : Nat) (p : Bytes) (s : State) : Out := readCmd 0x0D03 t p (fun s => okWith s.escalationView) s

/-! SYNC_INSPECT (R249, R410). -/

/-- The object that a local handle in named form names. -/
def namedObject (h : Nat) : Option Nat :=
  let scope := bits h 31 28
  if handleLayoutOk (BitVec.ofNat 32 h) && decide (scope ≤ 2) && bit h 27 then
    some (objKey scope (if scope = 0 then bits h 26 18 else if scope = 1 then bits h 26 21 else bits h 26 24) (bits h 10 0))
  else none

/-- The window of an object's present state; none before a run. -/
def State.objWindow (s : State) (key : Nat) : Nat :=
  let unit := keyUnit key
  if s.run.started = false then 0
  else if keyScope key = 0 then (s.core unit).cleared + 1
  else SMap.get 0 s.syncWin (keyScope key * 65536 + unit) + 1

/-- The waiters of an object: by core of its cluster, or by cluster of its die. -/
def State.waiterBits (s : State) (key : Nat) : Nat :=
  setBits ((s.waiters key).map (fun c => if keyScope key = 2 then c / 8 % 8 else c % 8)) 8

def State.lastSignaller (o : SyncObj) : Nat :=
  (if o.lastSrc = 2 then o.lastWho % 16384 + 16384 * (o.lastDie % 8) else o.lastWho % 512) + 131072 * o.lastSrc

/-- *Sync object record*. -/
def State.objRecord (s : State) (key : Nat) : Bytes :=
  let o := s.obj key
  let target := match (s.core (keyUnit key)).wait with
    | some w => if keyScope key = 0 && w.key == key then w.target else 0
    | none => 0
  leBytes 4 (objHandle key) ++ leBytes 4 o.value ++ leBytes 2 (bitNat o.poisoned + 2 * bitNat (!o.held.isEmpty))
    ++ leBytes 2 (match o.poisoner with
      | some c => if o.poisoned then 0x8000 + c else 0
      | none => 0)
    ++ leBytes 4 (s.waiterBits key) ++ leBytes 8 (setBits ((s.ownersOf key).map (· % 64)) 64) ++ leBytes 4 (State.lastSignaller o) ++ leBytes 4 o.lastCnt
    ++ leBytes 8 o.lastRef ++ leBytes 4 o.signals ++ leBytes 4 o.ignored ++ leBytes 4 (s.objWindow key) ++ leBytes 4 target ++ zeros 8

def execSyncInspect (t : Nat) (p : Bytes) (s : State) : Out :=
  readCmd 0x0E01 t p (fun s =>
    let n := field p 0 2
    let hs := (List.range n).map (fun i => namedObject (field p (4 + 4 * i) 4))
    match firstFail ([wrong (!decide (1 ≤ n ∧ n ≤ 63)) 0, (decide (p.length < 4 + 4 * n), badLength 0), reserved p 2 2]
        ++ hs.zipIdx.map (fun h => wrong h.1.isNone (4 + 4 * h.2))) with
    | some r => r
    | none => okWith ((hs.filterMap id).flatMap s.objRecord)) s

/-! NUTSHELL_READ (R411). -/

/-- *Nutshell entry*. -/
def NutEntry.record (e : NutEntry) : Bytes :=
  leBytes 8 e.ref ++ leBytes 4 e.seq ++ leBytes 2 e.code ++ leBytes 2 e.source ++ leBytes 1 e.flags ++ leBytes 1 e.tenant ++ zeros 2 ++ leBytes 4 e.window
    ++ leBytes 8 e.step ++ fitTo 32 e.detail

/-- The bank or slot of a source, oldest entry first, with the reference count of its freeze. -/
def Nutshell.bank (n : Nutshell) (source : Nat) : Option (Nat × List NutEntry) :=
  if source = 0 then some (0, n.live.reverse)
  else (n.archives[source - 1]?).map (fun a => (a.1.ref, a.2.reverse))

def execNutshellRead (t : Nat) (p : Bytes) (s : State) : Out :=
  readCmd 0x0E02 t p (fun s =>
    let first := field p 2 2
    match firstFail [wrong (decide (3 < field p 0 1)) 0, reserved p 1 1, wrong (decide (8191 < first)) 2,
        wrong (!decide (1 ≤ field p 4 2 ∧ field p 4 2 ≤ 63)) 4, reserved p 6 2], s.nut.bank (field p 0 1) with
    | some r, _ => r
    | none, none => noResource
    | none, some b =>
      let es := (b.2.drop first).take (field p 4 2)
      okWith (leBytes 1 (field p 0 1) ++ zeros 1 ++ leBytes 2 b.2.length ++ leBytes 2 first ++ leBytes 2 es.length ++ leBytes 8 b.1 ++ es.flatMap NutEntry.record)) s

/-! EVENT_LOG_READ (R412). -/

def MarkRecord.record (m : MarkRecord) : Bytes := leBytes 2 m.code ++ leBytes 2 m.clause ++ leBytes 4 m.index ++ leBytes 8 m.value.toNat ++ leBytes 8 m.ref

def execEventLogRead (t : Nat) (p : Bytes) (s : State) : Out :=
  readCmd 0x0E03 t p (fun s =>
    let c := field p 0 2
    let first := field p 2 2
    match firstFail [wrong (decide (511 < c)) 0, wrong (decide (255 < first)) 2, reserved p 4 4] with
    | some r => r
    | none =>
      let tr := (s.core c).trace
      let ms := (tr.drop first).take 170
      okWith (leBytes 2 c ++ leBytes 2 tr.length ++ leBytes 2 first ++ leBytes 2 ms.length ++ ms.flatMap MarkRecord.record)) s

/-! CORE_HALT_INSPECT (R413). -/

/-- *Exception record*. -/
def ExcRecord.record (x : ExcRecord) : Bytes :=
  leBytes 1 x.code ++ leBytes 1 x.cls ++ leBytes 2 x.clause ++ leBytes 4 x.index ++ leBytes 8 x.word.toNat ++ leBytes 8 x.step ++ leBytes 2 x.core
    ++ leBytes 2 x.entry ++ leBytes 4 x.detail ++ leBytes 8 x.ref

/-- A register snapshot: scalars, addresses, loops and calls, innermost first. -/
def snapshot (sregs aregs : SMap Word) (loops : List LoopLevel) (calls : List Return) : Bytes :=
  (List.range 32).flatMap (fun i => leBytes 8 (SMap.get 0 sregs i).toNat) ++ (List.range 16).flatMap (fun i => leBytes 8 (SMap.get 0 aregs i).toNat)
    ++ fitTo 64 (loops.flatMap (fun l => leBytes 4 l.count ++ leBytes 4 l.index ++ leBytes 4 l.start ++ leBytes 4 l.stop))
    ++ fitTo 16 (calls.flatMap (fun r => leBytes 2 r.index))

/-- *Core inspection*, of the live registers or of those taken with the exception record. -/
def Core.inspection (k : Core) (live : Bool) : Bytes :=
  leBytes 4 k.status.toNat ++ leBytes 4 (sat24 k.stSets + 2 ^ 24 * min k.stColl 255) ++ fitTo 32 (match k.first with
      | some f => f.bytes
      | none => [])
    ++ fitTo 40 (match k.exc with
      | some x => x.record
      | none => [])
    ++ (if live then snapshot k.sregs k.aregs k.loops k.calls
        else match k.exc with
          | some x => snapshot x.sregs x.aregs x.loops x.calls
          | none => zeros 464)

def coreInspect (expert : Bool) (p : Bytes) (s : State) : State × Option Reply :=
  let c := field p 0 2
  checked [(expert && s.coreBusy c, busy), wrong (decide (511 < c)) 0, reserved p 2 6] s (fun s =>
    (if expert then s.stopCore c else s, some (okWith ((s.core c).inspection expert))))

def execCoreHaltInspect (t : Nat) (p : Bytes) (s : State) : Out := hostCmd 0x0E04 t p (coreInspect false p) s

def execCoreHaltInspectExpert (t : Nat) (p : Bytes) (s : State) : Out := hostCmd 0x8E04 t p (coreInspect true p) s

end Sys2Proof.Machine
end

