-- ==== Sys2Proof/Machine/CmdEval.lean ====
section
/-!
DEFINITION. *Evaluations* (16_vuhal_command_reference R415, R416; 15_host_transport_mailboxes R371, R373).
-/

namespace Sys2Proof.Machine

/-! EVAL_SUBMIT (R415). -/

/-- The cores that the evaluation slots of the table in force target. -/
def State.evalCores (s : State) : List Nat :=
  match s.frame.table with
  | some t => (t.entries.filter (fun e => e.cls == clsEval)).flatMap TableEntry.units
  | none => []

/-- load_index lies above the resident image of the training program on every core that an evaluation slot targets. -/
def State.loadIndexOk (s : State) (n : Nat) : Bool :=
  decide (n ≤ 8191) && s.evalCores.all (fun c => match (s.core c).prog with
    | some g => decide (g.resident.length ≤ n)
    | none => true)

/-- A region of the tenant that holds a number of bytes: whether the index names one, and whether they fit. -/
def State.evalRegion (s : State) (t i n : Nat) : Bool × Bool :=
  match s.ownRegion t i with
  | some g => (true, decide (n ≤ g.size))
  | none => (false, true)

/-- An eval_id that is zero, or that an unfinished or one of the last 64 finished evaluations carries. -/
def State.evalIdTaken (s : State) (id : Nat) : Bool := id == 0 || s.evals.any (fun v => v.id == id)

def nonzero (n : Nat) : Option Nat := if n = 0 then none else some n

def evalOf (t : Nat) (p : Bytes) : Eval :=
  { id := field p 0 8, tenant := t, seed := BitVec.ofNat 64 (field p 8 8), imageReg := field p 0x10 2, inputReg := field p 0x12 2, resultReg := field p 0x14 2,
    loadIndex := field p 0x16 2, imageBytes := field p 0x18 8, inputBytes := field p 0x20 8, resultBytes := field p 0x28 8,
    imageOpen := nonzero (field p 0x30 4), inputOpen := nonzero (field p 0x34 4), power := field p 0x38 4, phase := 0, status := 0, version := 0,
    window := 0, image := none, inDigest := zeros 32, outDigest := zeros 32, seq := none }

/-- Insert an accepted evaluation behind the unfinished ones. -/
def State.addEval (s : State) (v : Eval) : State :=
  s.withEvals (s.evals.filter (fun x => decide (x.phase ≤ 1)) ++ [v] ++ s.evals.filter (fun x => decide (1 < x.phase)))

/-- Open the transfer of an evaluation's image or input. -/
def State.openEval (s : State) (id num reg len : Nat) (use : TransferFor) : State :=
  if num = 0 then s else s.openTransfer id { number := num, use := use, region := reg, base := s.regionBase reg, len := len, got := [] }

def State.acceptEval (s : State) (sess : Nat) (v : Eval) : State :=
  let s1 := s.addEval v
  let s2 := s1.openEval sess (v.imageOpen.getD 0) v.imageReg v.imageBytes (.evalImage v.id)
  s2.openEval sess (v.inputOpen.getD 0) v.inputReg v.inputBytes (.evalInput v.id)

/-- How many transfers a request opens. -/
def Eval.opens (v : Eval) : Nat := bitNat v.imageOpen.isSome + bitNat v.inputOpen.isSome

/-- The resources of a request: a place in the queue, its transfers, and the power share. -/
def State.evalLimits (s : State) (t sess : Nat) (v : Eval) : List (Bool × Reply) :=
  [ (decide (16 ≤ s.evals.countP (fun x => decide (x.phase ≤ 1))) || decide (64 < (s.transfersOf sess).length + v.opens), noResource),
    (decide (0 < v.power ∧ (s.tenant t).quotaAt 3 < (s.uses t).getD 3 0 + v.power), overQuota) ]

def evalSubmit (t : Nat) (p : Bytes) (s : State) : State × Option Reply :=
  let v := evalOf t p
  let sess := s.runningSession t
  let im := s.evalRegion t v.imageReg v.imageBytes
  let inp := s.evalRegion t v.inputReg v.inputBytes
  let res := s.evalRegion t v.resultReg v.resultBytes
  checked
    [ ((v.imageOpen.isSome && s.regionChanging v.imageReg) || (v.inputOpen.isSome && s.regionChanging v.inputReg), busy),
      wrong (s.evalIdTaken v.id) 0, wrong (!im.1) 0x10, wrong (!inp.1) 0x12, wrong (!res.1) 0x14,
      wrong (!s.loadIndexOk v.loadIndex) 0x16, wrong (!im.2) 0x18, wrong (!inp.2) 0x20, wrong (!res.2) 0x28,
      wrong (v.imageOpen.isSome && s.numberOpen sess (field p 0x30 4)) 0x30,
      wrong (v.inputOpen.isSome && (s.numberOpen sess (field p 0x34 4) || v.imageOpen == v.inputOpen)) 0x34, reserved p 0x3C 4 ] s
    (fun s =>
      if v.imageOpen.isSome then checked (s.evalLimits t sess v) s (fun s => (s.acceptEval sess v, some accepted))
      else
        s.withBytes (s.regionBase v.imageReg) v.imageBytes (fun b s =>
          match s.evalImage v.loadIndex b with
          | .error (some f) => (s, some (faultReply f))
          | .error none => s.noField
          | .ok g => checked (s.evalLimits t sess v) s (fun s => (s.acceptEval sess { v with image := some g }, some accepted))))

def execEvalSubmit (t : Nat) (p : Bytes) (s : State) : Out := hostCmd 0x1001 t p (evalSubmit t p) s

/-! EVAL_RESULT_READ (R416). -/

/-- *Evaluation result*. -/
def evalRecord (v : Eval) (n : Nat) : Bytes :=
  leBytes 8 v.id ++ leBytes 1 v.phase ++ zeros 1 ++ leBytes 2 v.status ++ zeros 4 ++ leBytes 8 v.version ++ leBytes 8 v.window ++ fitTo 32 v.outDigest
    ++ leBytes 8 (v.seq.getD (2 ^ 64 - 1)) ++ leBytes 8 n ++ zeros 16

def evalResultRead (t : Nat) (p : Bytes) (s : State) : State × Option Reply :=
  let off := field p 8 8
  let flags := field p 0x14 4
  let bulk := bit flags 0
  let v := s.evals.find? (fun v => v.id == field p 0 8 && v.tenant == t)
  match v with
  | none => checked [wrong (bits flags 15 1 != 0) 0x14] s (fun s => (s, some noResource))
  | some v =>
    let have_ := if v.phase = 2 then v.resultBytes - off else 0
    let n := min have_ (if bulk then field p 0x10 4 else min 4000 (field p 0x10 4))
    checked [wrong (decide (v.resultBytes < off)) 8, wrong (bits flags 15 1 != 0) 0x14] s (fun s =>
      match s.ownRegion t v.resultReg with
      | none => (s, some (okWith (evalRecord v 0)))
      | some g => s.withBytes (g.base + off) n (fun b s =>
          (s, some (if bulk then { okWith (evalRecord v n) with bulk := bulkOut (bits flags 31 16) b } else okWith (evalRecord v n ++ b)))))

def execEvalResultRead (t : Nat) (p : Bytes) (s : State) : Out := hostCmd 0x1002 t p (evalResultRead t p) s

end Sys2Proof.Machine
end

