-- ==== Sys2Proof/Machine/Scalar.lean ====
section
/-!
DEFINITION. The scalar class (06_core_instruction_set R123): arithmetic modulo 2^64, no exception.
-/

namespace Sys2Proof.Machine

/-- d = f(a, b), b a register or the sign-extended immediate. -/
def scalarOp (f : Word → Word → Word) (x : ScalarOp) (k : Core) : Core := k.setS x.d (f (k.s x.a) (secondOf x k))

def boolWord (b : Bool) : Word := if b then 1 else 0
/-- The shift amount is b mod 64. -/
def shamt (b : Word) : Nat := b.toNat % 64

def execAdd (c : Nat) (x : ScalarOp) (s : State) : Out := issueReg c (.add c x) (scalarOp (· + ·) x) s
def execSub (c : Nat) (x : ScalarOp) (s : State) : Out := issueReg c (.sub c x) (scalarOp (· - ·) x) s
def execMul (c : Nat) (x : ScalarOp) (s : State) : Out := issueReg c (.mul c x) (scalarOp (· * ·) x) s
def execAndOp (c : Nat) (x : ScalarOp) (s : State) : Out := issueReg c (.andOp c x) (scalarOp (· &&& ·) x) s
def execOrOp (c : Nat) (x : ScalarOp) (s : State) : Out := issueReg c (.orOp c x) (scalarOp (· ||| ·) x) s
def execXor (c : Nat) (x : ScalarOp) (s : State) : Out := issueReg c (.xor c x) (scalarOp (· ^^^ ·) x) s
def execShl (c : Nat) (x : ScalarOp) (s : State) : Out := issueReg c (.shl c x) (scalarOp (fun a b => a <<< shamt b) x) s
def execShr (c : Nat) (x : ScalarOp) (s : State) : Out := issueReg c (.shr c x) (scalarOp (fun a b => a >>> shamt b) x) s
def execSra (c : Nat) (x : ScalarOp) (s : State) : Out := issueReg c (.sra c x) (scalarOp (fun a b => a.sshiftRight (shamt b)) x) s
def execMinOp (c : Nat) (x : ScalarOp) (s : State) : Out := issueReg c (.minOp c x) (scalarOp (fun a b => if a.slt b then a else b) x) s
def execMaxOp (c : Nat) (x : ScalarOp) (s : State) : Out := issueReg c (.maxOp c x) (scalarOp (fun a b => if a.slt b then b else a) x) s
def execSeq (c : Nat) (x : ScalarOp) (s : State) : Out := issueReg c (.seq c x) (scalarOp (fun a b => boolWord (a == b)) x) s
def execSlt (c : Nat) (x : ScalarOp) (s : State) : Out := issueReg c (.slt c x) (scalarOp (fun a b => boolWord (a.slt b)) x) s
def execSltu (c : Nat) (x : ScalarOp) (s : State) : Out := issueReg c (.sltu c x) (scalarOp (fun a b => boolWord (a.ult b)) x) s

/-- LUI: imm32 in the upper half, bits 31:0 of a in the lower half, whatever imm is. -/
def lui (x : ScalarOp) (k : Core) : Core := k.setS x.d (x.imm32 ++ (k.s x.a).setWidth 32)
def execLui (c : Nat) (x : ScalarOp) (s : State) : Out := issueReg c (.lui c x) (lui x) s

/-- ADDA: d and a name address registers, b a scalar register (R123). -/
def adda (x : ScalarOp) (k : Core) : Core := k.setA (x.d.setWidth 4) (k.a (x.a.setWidth 4) + secondOf x k)
def execAdda (c : Nat) (x : ScalarOp) (s : State) : Out := issueReg c (.adda c x) (adda x) s

def mova (x : ScalarOp) (k : Core) : Core := k.setA (x.d.setWidth 4) (k.s x.a)
def execMova (c : Nat) (x : ScalarOp) (s : State) : Out := issueReg c (.mova c x) (mova x) s

def movs (x : ScalarOp) (k : Core) : Core := k.setS x.d (k.a (x.a.setWidth 4))
def execMovs (c : Nat) (x : ScalarOp) (s : State) : Out := issueReg c (.movs c x) (movs x) s

end Sys2Proof.Machine
end

