-- ==== Sys2Proof/Machine/SyncOps.lean ====
section
/-!
DEFINITION. The sync class and what the sync units do (06_core_instruction_set R134 to R136; 10_synchronisation R235 to R247; 05_vector_engine R115).
-/

namespace Sys2Proof.Machine

/-- The handle of a SIG: the register's low 32 bits, or the immediate. -/
def SigOp.handleOf (x : SigOp) (k : Core) : Nat := if x.imm then x.handle.toNat else (k.s x.reg).toNat % 2 ^ 32

/-- SIG: waits for everything issued before it, then starts its signal (R134). -/
def execSig (c : Nat) (x : SigOp) (s : State) : Out :=
  issue c (.sig c x) (fun k e st =>
    let h := SigOp.handleOf x k
    if !k.drained then .stall
    else
      match st.resolveHandle c h with
      | none => .raise xHandle h
      | some (.obj key) =>
        let q : SigRun := { key := key, remote := false, count := x.count.toNat, index := e.issued, handle := h, load := false,
                            dyn := !x.imm && decide (keyScope key ≠ 0), word := (k.word e.pc).getD 0 }
        .done ((st.setCore c { k with sigQ := k.sigQ ++ [q] }).signalled c e h x.count.toNat)
      | some (.far _ _ _) =>
        let q : SigRun := { key := 0, remote := true, count := x.count.toNat, index := e.issued, handle := h, load := false, dyn := false,
                            word := (k.word e.pc).getD 0 }
        let e' := e.digest (mixNat (h * 2 ^ 8 + x.count.toNat))
        .done (st.setCore c { k with sigQ := k.sigQ ++ [q], entry := some e' })) s

/-- Work issued after an instruction whose exception is found while it executes is abandoned; the lines it had written are free (R145 item 2). -/
def State.abandonAfter (s : State) (c index : Nat) : State :=
  let k := s.core c
  let lost := k.loadQ.filter (fun l => decide (index < l.index))
  let s1 := s.setCore c { k with loadQ := k.loadQ.filter (fun l => decide (l.index ≤ index)), matQ := k.matQ.filter (fun m => decide (m.index ≤ index)),
                                 sigQ := k.sigQ.filter (fun q => decide (q.index ≤ index)) }
  let s2 := lost.foldl (fun st l => l.lines.foldl (fun st a =>
    let bs := (List.range 64).map (fun j => Config.freeByte st.fresh (64 * a + j))
    if l.space < 512 then st.writePlace (.own l.space) (64 * a) bs
    else if l.space < 576 then st.writePlace (.cluster (l.space - 512)) (64 * a) bs
    else if l.space = 576 then st.writePlace .staging (64 * a) bs
    else st) st) s1
  if lost.isEmpty then s2 else s2.nextFree

/-- A signal of a core reaches a local object (R236 to R238, R242). -/
def State.applyLocal (s : State) (c : Nat) (e : EntryRun) (q : SigRun) : State :=
  let r := s.applySignal q.key q.count (if q.load then 1 else 0) c (dieOfCore c)
  let count := fun (st : State) (f : Nat × Nat × Nat × Nat → Nat × Nat × Nat × Nat) =>
    if e.isEval then st else st.countSignal e.step (dieOfCore c) f
  match r.2 with
  | .added =>
    let o := r.1.obj q.key
    let own := q.dyn && decide (keyScope q.key ≠ 0) && !o.owners.contains c
    count (if own then r.1.setObj q.key { o with owners := o.owners ++ [c] } else r.1) (fun y => (y.1, y.2.1 + q.count, y.2.2))
  | .ignored => count r.1 (fun y => (y.1, y.2.1, y.2.2.1, y.2.2.2 + q.count))
  | .refused =>
    let s1 := count r.1 (fun y => (y.1, y.2.1, y.2.2.1 + q.count, y.2.2.2))
    let s2 := s1.abandonAfter c q.index
    match (s2.core c).entry with
    | some e' => s2.raiseExc c e' xSaturate q.handle q.index q.word
    | none => s2

/-- The payload of a REMOTE_SIGNAL frame (R254). -/
def signalPayload (h count die : Nat) : Bytes := leBytes 4 h ++ leBytes 4 count ++ leBytes 1 die ++ zeros 7

/-- A remote signal is handed to the issuing die's N-die (R246, R247). -/
def State.sendSignal (s : State) (c : Nat) (e : EntryRun) (q : SigRun) : State :=
  let rank := bits q.handle 27 14
  let data := signalPayload q.handle q.count (dieOfCore c)
  let step := if e.isEval then none else some e.step
  let s1 := if e.isEval then s else s.mapStep e.step (fun r =>
    { r with sigSent := SMap.insert r.sigSent rank (SMap.get 0 r.sigSent rank + q.count) })
  if rank = s.rank then
    let s2 := (s1.countOp step true 0 rank rank).countOp step false 0 rank rank
    s2.withFab { s2.fab with signals := s2.fab.signals ++ [{ window := e.window, rank := rank, lag := e.lag, step := step, data := data }] }
  else s1.openSend { typ := tSignal, cls := 9, window := e.window, lag := e.lag, dstRank := rank, data := data, step := step }

/-- The oldest signal of a core is applied, or handed on where it is remote. -/
def execSignalApplied (c : Nat) (s : State) : Out :=
  let k := s.core c
  match k.sigQ, k.entry with
  | q :: rest, some e =>
    let s1 := s.setCore c { k with sigQ := rest }
    .next (if q.remote then s1.sendSignal c e q else s1.applyLocal c e q)
  | _, _ => notNow "no signal of this core is waiting to be applied"

/-- The window that a die's objects stand in (R244, R247). -/
def State.dieWindow (s : State) (die : Nat) : Nat := SMap.get 0 s.syncWin (131072 + die) + 1

/-- Remote signals held by a die's objects for a later window. -/
def State.heldOn (s : State) (die : Nat) : Nat :=
  ((s.sync.filter (fun e => keyScope e.1 == 2 && keyUnit e.1 == die)).map (fun e => e.2.held.length)).sum

/-- A remote signal that is not applied is counted for its step (R246). -/
def State.badSignal (s : State) (step : Option Nat) (count : Nat) : State :=
  match step with
  | some n => s.mapStep n (fun r => { r with sigBad := r.sigBad + count })
  | none => s

/-- The oldest REMOTE_SIGNAL frame delivered here is applied, held for a later window, or discarded as late (R247). -/
def execRemoteSignal (s : State) : Out :=
  match s.fab.signals with
  | [] => notNow "no remote signal has been delivered"
  | x :: rest =>
    let h := field x.data 0 4
    let count := field x.data 4 4
    let die := field x.data 8 1
    let unit := bits h 13 11
    let key := objKey 2 unit (bits h 10 0)
    let s0 := s.withFab { s.fab with signals := rest }
    let now := s.dieWindow unit % 2 ^ 32
    let late := (s0.log { code := 0x500E, source := srcC (s.physDie unit), step := x.step.getD 0,
                          detail := leBytes 4 h ++ leBytes 2 x.rank ++ leBytes 1 die ++ leBytes 4 x.window ++ leBytes 4 count }).badSignal x.step count
    if !s.inRun || s.inReset unit || x.window < now then .next late
    else if now < x.window then
      if 1024 ≤ s.heldOn unit then
        .next ((s0.withFab { s0.fab with signals := rest ++ [x] }).logWindowOnce { code := 0x500F, source := srcC (s.physDie unit) })
      else
        let o := s0.obj key
        .next (s0.setObj key { o with held := o.held ++ [{ window := x.window, count := count, rank := x.rank, die := die, step := x.step.getD 0 }] })
    else
      let r := s0.applySignal key count 2 x.rank die
      match r.2, x.step with
      | .added, some n => .next (r.1.mapStep n (fun q => { q with sigApplied := SMap.insert q.sigApplied x.rank (SMap.get 0 q.sigApplied x.rank + count) }))
      | .added, none => .next r.1
      | _, _ => .next (r.1.badSignal x.step count)

/-! Waits. -/

/-- WAIT: SYNC_HANDLE, WAIT_POISONED, satisfied at issue, or outstanding (R134 to R136, R239, R240). -/
def execWait (c : Nat) (x : WaitOp) (s : State) : Out :=
  issue c (.wait c x) (fun k e st =>
    let h := (k.s x.reg).toNat % 2 ^ 32
    let t := (k.s x.target).toNat % 2 ^ 32
    if x.sleep && !k.drained then .stall
    else
      match st.resolveHandle c h with
      | some (.obj key) =>
        if !mayWait c key then .raise xHandle h
        else
          let o := st.obj key
          if o.poisoned then .raise xPoisoned (objHandle key)
          else if t ≤ o.value then .done st
          else
            let w : WaitRun := { key := key, target := t, sleep := x.sleep, issued := st.clk.ref, timeout := x.timeout.toNat }
            .goto (st.setCore c { k with wait := some w }) e.pc
      | _ => .raise xHandle h) s

/-- The counter has reached the target of a core's WAIT, which completes (R135, R240 item 2). -/
def execWaitSatisfied (c : Nat) (s : State) : Out :=
  match (s.core c).wait with
  | some w => if (s.obj w.key).poisoned || !s.reached c then notNow "the wait is not satisfied" else .next (s.passWait c)
  | none => notNow "the core does not wait"

/-- Whether a wait's timeout has expired: its field in microseconds from issue, or the period that closes its window (R135). -/
def waitExpired (s : State) (w : WaitRun) (e : EntryRun) : Bool :=
  if w.timeout = 0 then decide (e.window ≤ s.run.period) else decide (w.issued + w.timeout * 100 ≤ s.clk.ref)

/-- A wait's timeout expires before anything else ends it: WAIT_TIMEOUT, and SYNC_TIMEOUT is logged (R240 item 3, R241). -/
def execWaitTimeout (c : Nat) (at' : Nat) (s0 : State) : Out :=
  let s := s0.advance at'
  let k := s.core c
  match k.wait, k.entry with
  | some w, some e =>
    let o := s.obj w.key
    if o.poisoned || decide (w.target ≤ o.value) || !waitExpired s w e then notNow "the wait has not timed out"
    else
      .next ((s.log { code := 0x500B, source := s.coreSource c, step := e.step,
                      detail := leBytes 2 c ++ leBytes 4 (objHandle w.key) ++ leBytes 4 w.target ++ leBytes 4 o.value ++ leBytes 2 o.lastWho }).failWait
        c xTimeout)
  | _, _ => notNow "the core does not wait"

/-! The ends of windows. -/

/-- No entry of a window up to w is still to run on the core. -/
def State.coreDone (s : State) (c w : Nat) : Bool :=
  (match (s.core c).entry with
    | some e => decide (w < e.window)
    | none => true)
  && !s.run.entries.any (fun x => decide (keyWindow x.1 ≤ w) && x.2.live && x.2.entry.group == clsCore && x.2.entry.units.contains c && !x.2.done.contains c)

/-- A core's valid bits are cleared after the period and its last entry of the window; its overlay becomes not valid and its objects return to zero
(R115, R138, R244). -/
def execValidBitsClear (c : Nat) (s : State) : Out :=
  let k := s.core c
  let w := s.run.period
  if 512 ≤ c ∨ s.inRun = false ∨ w ≤ k.cleared ∨ s.coreDone c w = false then notNow "no window of this core has closed"
  else .next ((s.setCore c { k with store := k.store.clear, overlay := [], cleared := w }).unitToZero w 0 c)

/-- The cores of a cluster or die. -/
def unitCores (scope unit : Nat) : List Nat := if scope = 1 then elems (unit * 8) 8 else elems (unit * 64) 64

/-- A cluster's or die's objects return to zero after the period and the last entry of the window on its cores; a die also waits for the remote signals
of the window (R244). -/
def execObjectsReturnToZero (scope : Nat) (unit : Nat) (s : State) : Out :=
  let w := s.run.period
  let key := scope * 65536 + unit
  let waiting := s.fab.signals.any (fun x => bits (field x.data 0 4) 13 11 == unit && decide (x.window ≤ w))
  if ¬ ((scope = 1 ∧ unit < 64) ∨ (scope = 2 ∧ unit < 8)) ∨ s.inRun = false ∨ w ≤ SMap.get 0 s.syncWin key
      ∨ (unitCores scope unit).all (fun c => s.coreDone c w) = false ∨ (scope = 2 ∧ waiting = true) then
    notNow "no window of this unit has closed"
  else .next ((s.unitToZero w scope unit).withSyncWin (SMap.insert s.syncWin key w))

end Sys2Proof.Machine
end

