-- ==== Sys2Proof/Machine/Dispatch.lean ====
section
/-!
DEFINITION. The dispatch: one arm for each command.
-/

namespace Sys2Proof.Machine

def exec (i : Instr) (s : State) : Host.Outcome State Fault Refusal :=
  match i with
  | .identRead t p => Sys2Proof.Machine.execIdentRead t p s
  | .attestQuote t p => Sys2Proof.Machine.execAttestQuote t p s
  | .certRead t p => Sys2Proof.Machine.execCertRead t p s
  | .optionsRead t p => Sys2Proof.Machine.execOptionsRead t p s
  | .configRecordLoad t p => Sys2Proof.Machine.execConfigRecordLoad t p s
  | .tenantQuery t p => Sys2Proof.Machine.execTenantQuery t p s
  | .quotaSet t p => Sys2Proof.Machine.execQuotaSet t p s
  | .sessionOpen port frame => Sys2Proof.Machine.execSessionOpen port frame s
  | .hello port frame => Sys2Proof.Machine.execHello port frame s
  | .sessionClose t p => Sys2Proof.Machine.execSessionClose t p s
  | .closeFrame port frame => Sys2Proof.Machine.execCloseFrame port frame s
  | .dataFrame port frame => Sys2Proof.Machine.execDataFrame port frame s
  | .ackOnly port frame => Sys2Proof.Machine.execAckOnly port frame s
  | .transportRetransmit session at' => Sys2Proof.Machine.execTransportRetransmit session at' s
  | .sessionTimeout session at' => Sys2Proof.Machine.execSessionTimeout session at' s
  | .submissionTurn t => Sys2Proof.Machine.execSubmissionTurn t s
  | .unlistedOpcode t => Sys2Proof.Machine.execUnlistedOpcode t s
  | .hostPortServiceFrame port frame => Sys2Proof.Machine.execHostPortServiceFrame port frame s
  | .hostFrameDropped port => Sys2Proof.Machine.execHostFrameDropped port s
  | .regionAlloc t p => Sys2Proof.Machine.execRegionAlloc t p s
  | .regionAllocExpert t p => Sys2Proof.Machine.execRegionAllocExpert t p s
  | .regionFree t p => Sys2Proof.Machine.execRegionFree t p s
  | .regionWrite t p => Sys2Proof.Machine.execRegionWrite t p s
  | .regionRead t p => Sys2Proof.Machine.execRegionRead t p s
  | .programLoad t p => Sys2Proof.Machine.execProgramLoad t p s
  | .programLoadExpert t p => Sys2Proof.Machine.execProgramLoadExpert t p s
  | .optimizerSet t p => Sys2Proof.Machine.execOptimizerSet t p s
  | .optimizerSetExpert t p => Sys2Proof.Machine.execOptimizerSetExpert t p s
  | .programVerify t p => Sys2Proof.Machine.execProgramVerify t p s
  | .frameSet t p => Sys2Proof.Machine.execFrameSet t p s
  | .frameSetExpert t p => Sys2Proof.Machine.execFrameSetExpert t p s
  | .scheduleLoad t p => Sys2Proof.Machine.execScheduleLoad t p s
  | .frameStatus t p => Sys2Proof.Machine.execFrameStatus t p s
  | .sliceJoin t p => Sys2Proof.Machine.execSliceJoin t p s
  | .routeTableLoad t p => Sys2Proof.Machine.execRouteTableLoad t p s
  | .axisSet t p => Sys2Proof.Machine.execAxisSet t p s
  | .cablingCheck t p => Sys2Proof.Machine.execCablingCheck t p s
  | .cablingCheckExpert t p => Sys2Proof.Machine.execCablingCheckExpert t p s
  | .sliceLeave t p => Sys2Proof.Machine.execSliceLeave t p s
  | .stepFeed t p => Sys2Proof.Machine.execStepFeed t p s
  | .runArm t p => Sys2Proof.Machine.execRunArm t p s
  | .runStart t p => Sys2Proof.Machine.execRunStart t p s
  | .runHold t p => Sys2Proof.Machine.execRunHold t p s
  | .sealPolicySet t p => Sys2Proof.Machine.execSealPolicySet t p s
  | .replay t p => Sys2Proof.Machine.execReplay t p s
  | .stepStatus t p => Sys2Proof.Machine.execStepStatus t p s
  | .numericsPolicySet t p => Sys2Proof.Machine.execNumericsPolicySet t p s
  | .numericsPolicySetExpert t p => Sys2Proof.Machine.execNumericsPolicySetExpert t p s
  | .scaleStateRead t p => Sys2Proof.Machine.execScaleStateRead t p s
  | .layerWatchSet t p => Sys2Proof.Machine.execLayerWatchSet t p s
  | .emulationModeSet t p => Sys2Proof.Machine.execEmulationModeSet t p s
  | .mirrorPairSet t p => Sys2Proof.Machine.execMirrorPairSet t p s
  | .spareEnrol t p => Sys2Proof.Machine.execSpareEnrol t p s
  | .takeover t p => Sys2Proof.Machine.execTakeover t p s
  | .fence t p => Sys2Proof.Machine.execFence t p s
  | .fenceExpert t p => Sys2Proof.Machine.execFenceExpert t p s
  | .dieSwap t p => Sys2Proof.Machine.execDieSwap t p s
  | .healthRead t p => Sys2Proof.Machine.execHealthRead t p s
  | .probationSet t p => Sys2Proof.Machine.execProbationSet t p s
  | .checkpointPolicySet t p => Sys2Proof.Machine.execCheckpointPolicySet t p s
  | .checkpointPolicySetExpert t p => Sys2Proof.Machine.execCheckpointPolicySetExpert t p s
  | .checkpointNow t p => Sys2Proof.Machine.execCheckpointNow t p s
  | .checkpointStatus t p => Sys2Proof.Machine.execCheckpointStatus t p s
  | .restore t p => Sys2Proof.Machine.execRestore t p s
  | .manifestRead t p => Sys2Proof.Machine.execManifestRead t p s
  | .telemetryRead t p => Sys2Proof.Machine.execTelemetryRead t p s
  | .telemetryStream t p => Sys2Proof.Machine.execTelemetryStream t p s
  | .telemetryStreamInterval session stream at' => Sys2Proof.Machine.execTelemetryStreamInterval session stream at' s
  | .ledgerRead t p => Sys2Proof.Machine.execLedgerRead t p s
  | .countersAuditRead t p => Sys2Proof.Machine.execCountersAuditRead t p s
  | .reset t p => Sys2Proof.Machine.execReset t p s
  | .serviceStateSet t p => Sys2Proof.Machine.execServiceStateSet t p s
  | .escalationRead t p => Sys2Proof.Machine.execEscalationRead t p s
  | .syncInspect t p => Sys2Proof.Machine.execSyncInspect t p s
  | .nutshellRead t p => Sys2Proof.Machine.execNutshellRead t p s
  | .eventLogRead t p => Sys2Proof.Machine.execEventLogRead t p s
  | .coreHaltInspect t p => Sys2Proof.Machine.execCoreHaltInspect t p s
  | .coreHaltInspectExpert t p => Sys2Proof.Machine.execCoreHaltInspectExpert t p s
  | .powerCapSet t p => Sys2Proof.Machine.execPowerCapSet t p s
  | .powerStatus t p => Sys2Proof.Machine.execPowerStatus t p s
  | .rampPolicySet t p => Sys2Proof.Machine.execRampPolicySet t p s
  | .rampPolicySetExpert t p => Sys2Proof.Machine.execRampPolicySetExpert t p s
  | .evalSubmit t p => Sys2Proof.Machine.execEvalSubmit t p s
  | .evalResultRead t p => Sys2Proof.Machine.execEvalResultRead t p s
  | .tickEpochMarker at' w => Sys2Proof.Machine.execTickEpochMarker at' w s
  | .markerMissing => Sys2Proof.Machine.execMarkerMissing s
  | .refclkLost => Sys2Proof.Machine.execRefclkLost s
  | .comma => Sys2Proof.Machine.execComma s
  | .period => Sys2Proof.Machine.execPeriod s
  | .ackMissed die err => Sys2Proof.Machine.execAckMissed die err s
  | .tickCheck port at' payload => Sys2Proof.Machine.execTickCheck port at' payload s
  | .coreSegment idx at' => Sys2Proof.Machine.execCoreSegment idx at' s
  | .evaluationSlot idx core at' => Sys2Proof.Machine.execEvaluationSlot idx core at' s
  | .optimizerJobPhase idx mdie at' => Sys2Proof.Machine.execOptimizerJobPhase idx mdie at' s
  | .mirrorJobPhase idx mdie at' => Sys2Proof.Machine.execMirrorJobPhase idx mdie at' s
  | .checkpointChunk idx mdie at' => Sys2Proof.Machine.execCheckpointChunk idx mdie at' s
  | .collective idx at' => Sys2Proof.Machine.execCollective idx at' s
  | .contributorRead idx contributor => Sys2Proof.Machine.execContributorRead idx contributor s
  | .collectiveDone idx stats at' => Sys2Proof.Machine.execCollectiveDone idx stats at' s
  | .verdictEntryStart at' => Sys2Proof.Machine.execVerdictEntryStart at' s
  | .numericsExchange others => Sys2Proof.Machine.execNumericsExchange others s
  | .verdictRecordReceived rec => Sys2Proof.Machine.execVerdictRecordReceived rec s
  | .verdictCutoff child => Sys2Proof.Machine.execVerdictCutoff child s
  | .verdictMissed rec => Sys2Proof.Machine.execVerdictMissed rec s
  | .entryEnd core at' => Sys2Proof.Machine.execEntryEnd core at' s
  | .entryAborted core at' => Sys2Proof.Machine.execEntryAborted core at' s
  | .validBitsClear core => Sys2Proof.Machine.execValidBitsClear core s
  | .stagingValidBitsClear => Sys2Proof.Machine.execStagingValidBitsClear s
  | .objectsReturnToZero scope unit => Sys2Proof.Machine.execObjectsReturnToZero scope unit s
  | .addOnWriteDrain => Sys2Proof.Machine.execAddOnWriteDrain s
  | .add core x => Sys2Proof.Machine.execAdd core x s
  | .sub core x => Sys2Proof.Machine.execSub core x s
  | .mul core x => Sys2Proof.Machine.execMul core x s
  | .andOp core x => Sys2Proof.Machine.execAndOp core x s
  | .orOp core x => Sys2Proof.Machine.execOrOp core x s
  | .xor core x => Sys2Proof.Machine.execXor core x s
  | .shl core x => Sys2Proof.Machine.execShl core x s
  | .shr core x => Sys2Proof.Machine.execShr core x s
  | .sra core x => Sys2Proof.Machine.execSra core x s
  | .minOp core x => Sys2Proof.Machine.execMinOp core x s
  | .maxOp core x => Sys2Proof.Machine.execMaxOp core x s
  | .seq core x => Sys2Proof.Machine.execSeq core x s
  | .slt core x => Sys2Proof.Machine.execSlt core x s
  | .sltu core x => Sys2Proof.Machine.execSltu core x s
  | .lui core x => Sys2Proof.Machine.execLui core x s
  | .adda core x => Sys2Proof.Machine.execAdda core x s
  | .mova core x => Sys2Proof.Machine.execMova core x s
  | .movs core x => Sys2Proof.Machine.execMovs core x s
  | .loopStart core x => Sys2Proof.Machine.execLoopStart core x s
  | .breakLoop core => Sys2Proof.Machine.execBreakLoop core s
  | .br core x => Sys2Proof.Machine.execBr core x s
  | .jmp core off => Sys2Proof.Machine.execJmp core off s
  | .callSub core target => Sys2Proof.Machine.execCallSub core target s
  | .retSub core => Sys2Proof.Machine.execRetSub core s
  | .lidx core d level => Sys2Proof.Machine.execLidx core d level s
  | .ld core x => Sys2Proof.Machine.execLd core x s
  | .ldadd core x => Sys2Proof.Machine.execLdadd core x s
  | .ldzero core x => Sys2Proof.Machine.execLdzero core x s
  | .loadTransferComplete core => Sys2Proof.Machine.execLoadTransferComplete core s
  | .dset core desc fld src => Sys2Proof.Machine.execDset core desc fld src s
  | .drst core desc => Sys2Proof.Machine.execDrst core desc s
  | .mm core x => Sys2Proof.Machine.execMm core x s
  | .matrixOutputConversion core => Sys2Proof.Machine.execMatrixOutputConversion core s
  | .vadd core x => Sys2Proof.Machine.execVadd core x s
  | .vsub core x => Sys2Proof.Machine.execVsub core x s
  | .vmul core x => Sys2Proof.Machine.execVmul core x s
  | .vfma core x => Sys2Proof.Machine.execVfma core x s
  | .vmin core x => Sys2Proof.Machine.execVmin core x s
  | .vmax core x => Sys2Proof.Machine.execVmax core x s
  | .vabs core x => Sys2Proof.Machine.execVabs core x s
  | .vneg core x => Sys2Proof.Machine.execVneg core x s
  | .vcmpeq core x => Sys2Proof.Machine.execVcmpeq core x s
  | .vcmplt core x => Sys2Proof.Machine.execVcmplt core x s
  | .vcmple core x => Sys2Proof.Machine.execVcmple core x s
  | .vsel core x => Sys2Proof.Machine.execVsel core x s
  | .vrcp core x => Sys2Proof.Machine.execVrcp core x s
  | .vrsq core x => Sys2Proof.Machine.execVrsq core x s
  | .vexp2 core x => Sys2Proof.Machine.execVexp2 core x s
  | .vlog2 core x => Sys2Proof.Machine.execVlog2 core x s
  | .vexp core x => Sys2Proof.Machine.execVexp core x s
  | .vlog core x => Sys2Proof.Machine.execVlog core x s
  | .vsexp core x => Sys2Proof.Machine.execVsexp core x s
  | .vbcast core x => Sys2Proof.Machine.execVbcast core x s
  | .vextr core x => Sys2Proof.Machine.execVextr core x s
  | .vu2f core x => Sys2Proof.Machine.execVu2f core x s
  | .vrand core x => Sys2Proof.Machine.execVrand core x s
  | .vld core x => Sys2Proof.Machine.execVld core x s
  | .vst core x => Sys2Proof.Machine.execVst core x s
  | .tapr core x => Sys2Proof.Machine.execTapr core x s
  | .tapa core x => Sys2Proof.Machine.execTapa core x s
  | .tapw core x => Sys2Proof.Machine.execTapw core x s
  | .vred core x => Sys2Proof.Machine.execVred core x s
  | .vkern core x => Sys2Proof.Machine.execVkern core x s
  | .sig core x => Sys2Proof.Machine.execSig core x s
  | .signalApplied core => Sys2Proof.Machine.execSignalApplied core s
  | .remoteSignal => Sys2Proof.Machine.execRemoteSignal s
  | .wait core x => Sys2Proof.Machine.execWait core x s
  | .waitSatisfied core => Sys2Proof.Machine.execWaitSatisfied core s
  | .waitTimeout core at' => Sys2Proof.Machine.execWaitTimeout core at' s
  | .endEntry core => Sys2Proof.Machine.execEndEntry core s
  | .clauseFence core => Sys2Proof.Machine.execClauseFence core s
  | .info core d sel => Sys2Proof.Machine.execInfo core d sel s
  | .ovl core x => Sys2Proof.Machine.execOvl core x s
  | .statRd core d => Sys2Proof.Machine.execStatRd core d s
  | .statClr core mask => Sys2Proof.Machine.execStatClr core mask s
  | .statCap core v => Sys2Proof.Machine.execStatCap core v s
  | .feRd core d w => Sys2Proof.Machine.execFeRd core d w s
  | .mark core v code => Sys2Proof.Machine.execMark core v code s
  | .raise core code => Sys2Proof.Machine.execRaise core code s
  | .gradientDelivery d => Sys2Proof.Machine.execGradientDelivery d s
  | .deliveryRelease mdie pair seg => Sys2Proof.Machine.execDeliveryRelease mdie pair seg s
  | .segmentBegin idx mdie seg stream => Sys2Proof.Machine.execSegmentBegin idx mdie seg stream s
  | .jobPhaseEnd idx mdie at' => Sys2Proof.Machine.execJobPhaseEnd idx mdie at' s
  | .wcRebuildDone mdie pair => Sys2Proof.Machine.execWcRebuildDone mdie pair s
  | .mirrorDigestRecord rec => Sys2Proof.Machine.execMirrorDigestRecord rec s
  | .mirrorRefresh pair version planes fold => Sys2Proof.Machine.execMirrorRefresh pair version planes fold s
  | .guardUnitRead mdie pair => Sys2Proof.Machine.execGuardUnitRead mdie pair s
  | .readbackChunk stream data => Sys2Proof.Machine.execReadbackChunk stream data s
  | .readbackTimeout => Sys2Proof.Machine.execReadbackTimeout s
  | .restoreStreamChunk stream off data => Sys2Proof.Machine.execRestoreStreamChunk stream off data s
  | .sequencedFrame port f => Sys2Proof.Machine.execSequencedFrame port f s
  | .linkControl port nak hdr => Sys2Proof.Machine.execLinkControl port nak hdr s
  | .linkIdleAck port => Sys2Proof.Machine.execLinkIdleAck port s
  | .fabricRetrain port at' => Sys2Proof.Machine.execFabricRetrain port at' s
  | .fabricPortDown port at' => Sys2Proof.Machine.execFabricPortDown port at' s
  | .fabricPortUp port delay peer => Sys2Proof.Machine.execFabricPortUp port delay peer s
  | .neighbour port payload => Sys2Proof.Machine.execNeighbour port payload s
  | .neighbourAnnounce port => Sys2Proof.Machine.execNeighbourAnnounce port s
  | .e2eAck tag nak => Sys2Proof.Machine.execE2eAck tag nak s
  | .operationResend ndie slot at' => Sys2Proof.Machine.execOperationResend ndie slot at' s
  | .epochApplied slice => Sys2Proof.Machine.execEpochApplied slice s
  | .linkFlitReplay link again at' => Sys2Proof.Machine.execLinkFlitReplay link again at' s
  | .edcRetry mdie write fails ok ma => Sys2Proof.Machine.execEdcRetry mdie write fails ok ma s
  | .scrubAtom mdie errs => Sys2Proof.Machine.execScrubAtom mdie errs s
  | .refresh mdie => Sys2Proof.Machine.execRefresh mdie s
  | .periodicRetrain mdie => Sys2Proof.Machine.execPeriodicRetrain mdie s
  | .dieSwapDone => Sys2Proof.Machine.execDieSwapDone s
  | .takeoverReady ok runState => Sys2Proof.Machine.execTakeoverReady ok runState s
  | .resetNLow at' => Sys2Proof.Machine.execResetNLow at' s
  | .resetNLong => Sys2Proof.Machine.execResetNLong s
  | .resetStage found at' => Sys2Proof.Machine.execResetStage found at' s
  | .resetStageFailed die => Sys2Proof.Machine.execResetStageFailed die s
  | .coreWatchdog core err => Sys2Proof.Machine.execCoreWatchdog core err s
  | .dieWatchdog die err => Sys2Proof.Machine.execDieWatchdog die err s
  | .managementWatchdog => Sys2Proof.Machine.execManagementWatchdog s
  | .safetyWatchdog => Sys2Proof.Machine.execSafetyWatchdog s
  | .brownOut mv => Sys2Proof.Machine.execBrownOut mv s
  | .inputLow mv => Sys2Proof.Machine.execInputLow mv s
  | .inputHigh mv => Sys2Proof.Machine.execInputHigh mv s
  | .overVoltage mv => Sys2Proof.Machine.execOverVoltage mv s
  | .inputRecovered mv => Sys2Proof.Machine.execInputRecovered mv s
  | .pwrEnAsserted slot => Sys2Proof.Machine.execPwrEnAsserted slot s
  | .powerDown => Sys2Proof.Machine.execPowerDown s
  | .governorSample x => Sys2Proof.Machine.execGovernorSample x s
  | .thermalTrip die => Sys2Proof.Machine.execThermalTrip die s
  | .reverseBlock => Sys2Proof.Machine.execReverseBlock s
  | .safetyRequest => Sys2Proof.Machine.execSafetyRequest s
  | .safetyRegisterWrite item value => Sys2Proof.Machine.execSafetyRegisterWrite item value s
  | .archiveDone => Sys2Proof.Machine.execArchiveDone s
  | .alertCausesRead => Sys2Proof.Machine.execAlertCausesRead s
  | .smbusWrite code => Sys2Proof.Machine.execSmbusWrite code s
  | .bypass code => Sys2Proof.Machine.execBypass code s
  | .idcode => Sys2Proof.Machine.execIdcode s
  | .samplePreload => Sys2Proof.Machine.execSamplePreload s
  | .extest => Sys2Proof.Machine.execExtest s
  | .resetNReleased => Sys2Proof.Machine.execResetNReleased s
  | .refclkReturned => Sys2Proof.Machine.execRefclkReturned s
  | .oscillatorPeriod => Sys2Proof.Machine.execOscillatorPeriod s
  | .resetResponseTimeout => Sys2Proof.Machine.execResetResponseTimeout s
  | .mirrorUnpaired => Sys2Proof.Machine.execMirrorUnpaired s
  | .matrixInstructionComplete core => Sys2Proof.Machine.execMatrixInstructionComplete core s
  | .standbySupplyLost => Sys2Proof.Machine.execStandbySupplyLost s
  | .standbySupplyUp => Sys2Proof.Machine.execStandbySupplyUp s
  | .macControlFrame port control => Sys2Proof.Machine.execMacControlFrame port control s

end Sys2Proof.Machine
end

