-- ==== Sys2Proof/Machine/Step.lean ====
section
/-!
DEFINITION. One step of the block: the command at the front of the queue is taken and its meaning is run on the state with the queue's rest. With an
empty queue the block idles (log entry 4).
-/

namespace Sys2Proof.Machine

def step (s : State) : Host.Outcome State Fault Refusal :=
  match s.pending with
  | [] => .next s
  | c :: rest => exec c (s.withPending rest)

/-- Put a command at the front of the queue. -/
def State.push (s : State) (c : Instr) : State := s.withPending (c :: s.pending)

/-- The table gives its rows no bits, so no word spells a command and the state is unchanged (log entry 12). -/
def State.withFetchWord (s : State) (nbits w : Nat) : State :=
  match decodeTableWord nbits w with
  | some c => s.push c
  | none => s

end Sys2Proof.Machine
end

