-- ==== Sys2Proof/Safety.lean ====
section
/-!
DEFINITION. What the claims about this machine are stated in: when a step is safe, when a command completes, when a host command or a core instruction is
at its turn, and the invariants.
-/

namespace Sys2Proof.Machine

/-- A command completes in a state: it answers a next state. -/
def Completes (i : Instr) (s : State) : Prop := ∃ u, exec i s = .next u

/-- A step is safe: the machine does not stop with a fault. -/
def SafeStep (s : State) : Prop := ∀ f, step s ≠ .fault f

/-- A host command is at its turn in a state that allows it: the tenant's running submission has this opcode and this payload and has not started (R367,
R378, R380). -/
def State.ready (s : State) (op t : Nat) (p : Bytes) : Prop := s.runs op t p = true ∧ s.stateOk op = true

/-- The module is outside a run. -/
def State.outside (s : State) : Prop := s.inRun = false

/-- An effective period that a staged change may carry in a run: not passed, not zero, with room among the changes staged (R383). -/
def State.mayStage {α : Type} (s : State) (m : SMap α) (eff : Nat) : Prop := s.inRun = true ∧ s.run.period < eff ∧ (stageFull m eff).1 = false

/-- A structure can be read from the start of a region: the region is the tenant's, and none of the bytes read is uncorrectable (R194, R473). -/
def State.holdsAt (s : State) (t i off head : Nat) (need : Bytes → Nat) (b : Bytes) : Prop :=
  ∃ g, s.ownRegion t i = some g ∧
    let n := min (max head (need (s.readMem (g.base + off) (min head (g.size - off))))) (g.size - off)
    s.badIn (g.base + off) n = none ∧ s.readMem (g.base + off) n = b

/-- A host frame reaches a port that takes it, and parses (R357, R359). -/
def State.hears (s : State) (port : Nat) (frame : Bytes) (f : HostFrame) : Prop :=
  s.hostPortUp port = true ∧ s.firmwareDown = false ∧ hostFrame (frame.drop 24) = some f

/-- A session has heard its host at an address (R361). -/
def State.heardFrom (s : State) (x : Session) (port : Nat) (addr : Bytes) : State :=
  s.setSession x.id (fun y => { y with addr := SMap.insert y.addr port addr, seen := SMap.insert y.seen port s.clk.elapsed, lastRx := s.clk.elapsed })

/-- A tenant's turn has taken a submission (R367). -/
def State.turnTaken (s : State) (t : Nat) (q : Submission) : State :=
  let s1 := s.setTenant t (fun x => { x with next := (x.next + 1) % 2 ^ 32, waiting := x.waiting.erase q, running := some q })
  s1.withHost { s1.host with turn := (t + 1) % 4 }

/-- A schedule entry of a class is ready on a unit and may begin there (R31, R32). -/
def State.mayBegin (s : State) (idx unit cls k : Nat) (e : EntrySt) : Prop :=
  s.readyKey idx cls unit = some k ∧ s.entryAt k = some e ∧ s.mayStart = true ∧ s.blocked k unit cls = false

/-- A core's sequencer offers an instruction (R119, R122): its entry is neither stopped nor ended, no WAIT is outstanding, the entry's limit is not
reached, and the word at its program counter spells the instruction. -/
def State.offers (s : State) (c : Nat) (i : Instr) (e : EntryRun) (w : Word) : Prop :=
  c < 512 ∧ (s.core c).entry = some e ∧ e.stopped = false ∧ e.ended = false ∧ (s.core c).wait = none ∧ (e.limit = 0 ∨ e.issued < e.limit)
    ∧ (s.core c).word e.pc = some w ∧ decodeWord c w = some i

/-- The state after an instruction of a core: it is counted, and the sequential successor is next (R122, R124). -/
def State.retired (s : State) (c : Nat) : State := s.setCore c ((s.core c).retire none)

/-- The state after an instruction that leaves its core as `k` (R122). -/
def State.leaves (s : State) (c : Nat) (k : Core) : State := (s.setCore c k).retired c

/-- The same with a chosen successor. -/
def State.jumps (s : State) (c : Nat) (k : Core) (pc : Nat) : State :=
  let u := s.setCore c k
  u.setCore c ((u.core c).retire (some pc))

/-- Every lane of a vector instruction takes its new word and raises its kinds (R92). -/
def State.laneDone (s : State) (c : Nat) (e : EntryRun) (vd : BitVec 5) (mask : BitVec 2) (f : Core → Nat → W32 × List Nat) : State :=
  (laneWrite c e vd mask f s).retired c

/-- The memory of the module is in canonical form. -/
def State.memWf (s : State) : Bool := Memory.wf s.mem.cells

/-- Every logical C-die is carried by a physical C-die of its own (01_module_overview R13). -/
def State.dieMapLegal (s : State) : Bool := decide (s.dieMap.length = 8) && decide s.dieMap.Nodup && s.dieMap.all (fun p => decide (p ≤ 8))

end Sys2Proof.Machine
end

