-- ==== Sys2Proof/Certificates/Slice0/Obligations.lean ====
section
/-!
DEFINITION. The statements for the provers.
-/

open Sys2Proof Sys2Proof.Machine

/-! ## The block -/

/-- A step with a command at the front of the queue is that command's meaning on the state with the queue's rest, and a step on an empty queue changes
nothing (log entry 4). -/
def Obligations.StepRunsFront : Prop :=
  (∀ (c : Instr) (rest : List Instr) (s : State), s.pending = c :: rest → Machine.step s = exec c (s.withPending rest))
  ∧ (∀ s : State, s.pending = [] → Machine.step s = .next s)

/-! ## Host commands -/

/-- IDENT_READ, ATTEST_QUOTE, CERT_READ, OPTIONS_READ and CONFIG_RECORD_LOAD (R386 to R390): each answers, and only CONFIG_RECORD_LOAD changes anything. -/
def Obligations.IdentityCommands : Prop :=
  (∀ (t : Nat) (p : Bytes) (s : State), s.ready 0x0101 t p → field p 0 1 = 0 → allZero p 1 7 = true →
    exec (.identRead t p) s = .next (s.respond t (okWith s.identPage0)))
  ∧ (∀ (t : Nat) (p : Bytes) (s : State) (k : Nat), s.ready 0x0101 t p → field p 0 1 = k + 1 → k < 2 → allZero p 1 7 = true →
    exec (.identRead t p) s = .next (s.respond t (okWith ((List.range 256).flatMap (fun i => leBytes 8 (s.programTag (256 * k + i)))))))
  ∧ (∀ (t : Nat) (p : Bytes) (s : State), s.ready 0x0102 t p →
    exec (.attestQuote t p) s = .next (s.respond t (okWith (s.quoteBody (p.take 32) ++ fitTo 384 (Config.sign (sha256 (s.quoteBody (p.take 32))))))))
  ∧ (∀ (t : Nat) (p : Bytes) (s : State) (k : Nat), s.ready 0x0103 t p → field p 0 1 = k → k ≤ 2 → allZero p 1 3 = true → k ∉ s.sup.certBad →
    field p 4 4 < (certificateOf k).length →
    exec (.certRead t p) s = .next (s.respond t (okWith (leBytes 4 (certificateOf k).length ++ zeros 4 ++ slice (certificateOf k) (field p 4 4) 4088))))
  ∧ (∀ (t : Nat) (p : Bytes) (s : State), s.ready 0x0201 t p → exec (.optionsRead t p) s = .next (s.respond t (okWith s.optionsView)))
  ∧ (∀ (t : Nat) (p : Bytes) (s : State), s.ready 0x0202 t p → firstFail (configChecks p) = none →
    exec (.configRecordLoad t p) s = .next ((s.withSup { s.sup with flashCfg := some (p.take 128) }).respond t okReply))

/-- TENANT_QUERY, QUOTA_SET and SESSION_CLOSE (R364, R370, R374, R375): every quota that QUOTA_SET selects takes its new value, and the tenant's other
quotas stand. -/
def Obligations.TenantCommands : Prop :=
  (∀ (t : Nat) (p : Bytes) (s : State), s.ready 0x0301 t p →
    exec (.tenantQuery t p) s = .next (s.respond t (okWith ((List.range 4).flatMap s.tenantRecord))))
  ∧ (∀ (t : Nat) (p : Bytes) (s : State) (u i : Nat), s.ready 0x0302 t p → field p 0 1 = u → 1 ≤ u → u ≤ 3 → s.host.tenants.length = 4 →
    firstFail (quotaChecks p 0 u) = none → i < 4 →
    ∃ v, exec (.quotaSet t p) s = .next v ∧ (v.tenant u).quotaAt i = (if bit (field p 1 1) i then [field p 2 1, field p 4 4, field p 8 4, field p 12 4].getD i 0
      else (s.tenant u).quotaAt i))
  ∧ (∀ (t : Nat) (p : Bytes) (s : State) (q : Submission), s.ready 0x0304 t p → (s.tenant t).running = some q →
    exec (.sessionClose t p) s = .next ((s.closeSession q.session closedByCommand).respond t okReply))

/-- REGION_ALLOC, REGION_FREE, REGION_WRITE and REGION_READ (R391 to R393): a region of the lowest free range, zeroed; a region gone; bytes written and
bytes read. -/
def Obligations.RegionCommands : Prop :=
  (∀ (t i kind spill size base : Nat) (p : Bytes) (s : State), s.ready 0x0401 t p → field p 0 2 = i → field p 2 1 = kind → field p 3 1 = spill →
    field p 8 8 = size → s.freeRange size = some base → (kind = 0 ∨ s.run.mode = .idle ∨ s.run.mode = .armed ∨ s.run.mode = .standby) → 1 ≤ i → i ≤ 4095 →
    s.region i = none → kind ≤ 3 → spill ≤ 1 → (t = 1 → kind = 0 ∧ spill = 0 ∧ (s.uses 1).getD 1 0 + size / 1048576 ≤ (s.tenant 1).quotaAt 1) →
    allZero p 4 4 = true → mib2 ≤ size → size % mib2 = 0 →
    exec (.regionAlloc t p) s = .next ((s.addRegion t i kind spill size base).respond t (okWith (leBytes 2 i ++ zeros 6 ++ leBytes 8 base ++ leBytes 8 size))))
  ∧ (∀ (t i kind size base : Nat) (p : Bytes) (s : State), s.ready 0x8401 t p → field p 0 2 = i → field p 2 1 = kind → field p 3 1 = 2 →
    field p 8 8 = size → s.freeRange size = some base → (kind = 0 ∨ s.run.mode = .idle ∨ s.run.mode = .armed ∨ s.run.mode = .standby) → 1 ≤ i → i ≤ 4095 →
    s.region i = none → kind ≤ 3 → t ≠ 1 → allZero p 4 4 = true → mib2 ≤ size → size % mib2 = 0 →
    exec (.regionAllocExpert t p) s = .next ((s.addRegion t i kind 2 size base).respond t (okWith (leBytes 2 i ++ zeros 6 ++ leBytes 8 base ++ leBytes 8 size))))
  ∧ (∀ (t i : Nat) (p : Bytes) (s : State) (g : Region), s.ready 0x0402 t p → field p 0 2 = i → s.ownRegion t i = some g → allZero p 2 6 = true →
    i ∉ s.armedRegions → i ∉ s.stagedRegions → i ∉ s.restoreRegions → s.regionBusy i = false →
    exec (.regionFree t p) s = .next (((s.dropRegion i).refreshQuota t).respond t okReply))
  ∧ (∀ (t i n : Nat) (p : Bytes) (s : State) (g : Region), s.ready 0x0403 t p → field p 0 2 = i → s.ownRegion t i = some g → field p 2 2 = 0 →
    field p 0x10 8 = n → n ≤ 4072 → p.length = 24 + n → field p 8 8 + n ≤ g.size → (s.armedState = false ∨ i ∉ s.armedRegions) → s.regionChanging i = false →
    exec (.regionWrite t p) s = .next ((s.hostWrite (g.base + field p 8 8) (p.drop 24)).respond t okReply))
  ∧ (∀ (t i n : Nat) (p : Bytes) (s : State) (g : Region), s.ready 0x0403 t p → field p 0 2 = i → s.ownRegion t i = some g → field p 2 2 = 1 →
    field p 0x10 8 = n → field p 8 8 + n ≤ g.size → (s.armedState = false ∨ i ∉ s.armedRegions) → s.regionChanging i = false →
    s.numberOpen (s.runningSession t) (field p 4 4) = false → (s.transfersOf (s.runningSession t)).length < 64 →
    exec (.regionWrite t p) s = .next ((s.openTransfer (s.runningSession t)
      { number := field p 4 4, use := .region, region := i, base := g.base + field p 8 8, len := n, got := [] }).respond t accepted))
  ∧ (∀ (t i n : Nat) (p : Bytes) (s : State) (g : Region), s.ready 0x0404 t p → field p 0 2 = i → s.ownRegion t i = some g → g.spill ≠ 2 → field p 2 2 = 0 →
    field p 0x10 8 = n → field p 8 8 + min 4096 n ≤ g.size → s.badIn (g.base + field p 8 8) (min 4096 n) = none →
    exec (.regionRead t p) s = .next (s.respond t (okWith (s.readMem (g.base + field p 8 8) (min 4096 n)))))
  ∧ (∀ (t i n : Nat) (p : Bytes) (s : State) (g : Region), s.ready 0x0404 t p → field p 0 2 = i → s.ownRegion t i = some g → g.spill ≠ 2 → field p 2 2 = 1 →
    field p 0x10 8 = n → field p 8 8 + n ≤ g.size → s.badIn (g.base + field p 8 8) n = none →
    exec (.regionRead t p) s = .next (s.respond t { status := 1, bulk := bulkOut (field p 4 4) (s.readMem (g.base + field p 8 8) n) }))

/-- PROGRAM_LOAD, PROGRAM_VERIFY and OPTIMIZER_SET (R142, R216, R394 to R396): an image that reads without a fault is placed on every core of the mask, a
job or micro-program without a fault is placed under its index, and PROGRAM_VERIFY only answers. -/
def Obligations.ProgramCommands : Prop :=
  (∀ (t : Nat) (p b : Bytes) (s : State) (i : Image), s.ready 0x0501 t p → s.holdsAt t (field p 0 2) 0 0x30 imageEnd b → readImage b = .ok i →
    maskCores p ≠ [] → (∀ c ∈ maskCores p, s.coreBusy c = false) → allZero p 2 6 = true → s.overlayFull (maskCores p) i = false →
    (∀ f ∈ i.verify, f.code ≠ fOverlap) →
    exec (.programLoad t p) s = .next ((s.placeProgram (maskCores p) i).respond t (okWith (leBytes 2 (sat16 i.verify.length) ++ zeros 6))))
  ∧ (∀ (t : Nat) (p b : Bytes) (s : State) (i : Image), s.ready 0x8501 t p → s.holdsAt t (field p 0 2) 0 0x30 imageEnd b → readImage b = .ok i →
    maskCores p ≠ [] → (∀ c ∈ maskCores p, s.coreBusy c = false) → allZero p 2 6 = true → s.overlayFull (maskCores p) i = false →
    exec (.programLoadExpert t p) s = .next ((s.placeProgram (maskCores p) i).respond t (okWith (leBytes 2 (sat16 i.verify.length) ++ zeros 6))))
  ∧ (∀ (t : Nat) (p b : Bytes) (s : State) (i : Image), s.ready 0x0503 t p → s.holdsAt t (field p 2 2) 0 0x30 imageEnd b → readImage b = .ok i →
    field p 0 1 = 0 → allZero p 1 1 = true → allZero p 4 4 = true → exec (.programVerify t p) s = .next (s.respond t (verifyReply i)))
  ∧ (∀ (t : Nat) (p : Bytes) (s : State) (i : Image), s.ready 0x0503 t p → (s.core (field p 2 2)).prog = some i → field p 0 1 = 1 → field p 2 2 ≤ 511 →
    allZero p 1 1 = true → allZero p 4 4 = true → exec (.programVerify t p) s = .next (s.respond t (verifyReply i)))
  ∧ (∀ (t j : Nat) (p b : Bytes) (s : State) (expert : Bool), s.ready (if expert then 0x8502 else 0x0502) t p → field p 2 1 = 0 → allZero p 3 1 = true →
    field p 4 2 = j → j ≤ 255 → allZero p 6 2 = true → (∀ g, s.ownRegion t (field p 0 2) = some g → field p 8 8 < g.size) →
    s.holdsAt t (field p 0 2) (field p 8 8) 0x40 jobBytes b → firstFault (s.jobFaults expert b) = none →
    exec (if expert then .optimizerSetExpert t p else .optimizerSet t p) s
      = .next ((s.placeJob j (jobOf b (SMap.get [] s.mem.micros (field b 0x23 1)))).respond t okReply))
  ∧ (∀ (t j : Nat) (p b : Bytes) (s : State), s.ready 0x8502 t p → field p 2 1 = 1 → allZero p 3 1 = true → field p 4 2 = j → 1 ≤ j → j ≤ 16 →
    allZero p 6 2 = true → (∀ g, s.ownRegion t (field p 0 2) = some g → field p 8 8 < g.size) →
    s.holdsAt t (field p 0 2) (field p 8 8) 8 microBytes b → firstFault (microFaults b) = none →
    exec (.optimizerSetExpert t p) s
      = .next ((s.withMem { s.mem with micros := SMap.insert s.mem.micros j (b.take (microBytes b)) }).respond t okReply))

/-- FRAME_SET, SCHEDULE_LOAD and FRAME_STATUS (R26, R29, R46, R397): outside a run the frame and the table take effect at once; in a run they are staged for
their effective period. -/
def Obligations.FrameCommands : Prop :=
  (∀ (t i per skew : Nat) (p : Bytes) (s : State) (expert : Bool), s.ready (if expert then 0x8601 else 0x0601) t p → field p 0 4 = i → field p 4 2 = per →
    field p 8 4 = skew → 1000 ≤ i → i ≤ 50000 → 1 ≤ per → allZero p 6 2 = true → (skew = 0 ∨ 40 ≤ skew ∧ skew ≤ 10000) → allZero p 0xC 4 = true →
    s.outside → field p 0x10 8 = 0 → (stageFull s.frame.staged 0).1 = false →
    exec (if expert then .frameSetExpert t p else .frameSet t p) s
      = .next ((s.withFrame { s.frame with interval := i, configured := i, period := per, skewLimit := if skew = 0 then s.frame.skewLimit else skew,
                                           expert := expert, loaded := true, quietSeals := 0 }).respond t okReply))
  ∧ (∀ (t i per skew eff : Nat) (p : Bytes) (s : State) (expert : Bool), s.ready (if expert then 0x8601 else 0x0601) t p → field p 0 4 = i →
    field p 4 2 = per → field p 8 4 = skew → 1000 ≤ i → i ≤ 50000 → 1 ≤ per → allZero p 6 2 = true → (skew = 0 ∨ 40 ≤ skew ∧ skew ≤ 10000) →
    allZero p 0xC 4 = true → field p 0x10 8 = eff → s.mayStage s.frame.staged eff →
    exec (if expert then .frameSetExpert t p else .frameSet t p) s
      = .next ((s.withFrame { s.frame with staged := SMap.insert s.frame.staged eff (i, per, skew, expert) }).respond t okReply))
  ∧ (∀ (t : Nat) (p b : Bytes) (s : State), s.ready 0x0602 t p → s.outside → allZero p 2 6 = true → field p 8 8 = 0 →
    s.holdsAt t (field p 0 2) 0 0x20 (fun h => 0x20 + 16 * min (field h 8 4) 16384) b →
    firstFault (tableFaults b s.frame.period ++ ((s.loadTable (tableOf b)).tableRefs (tableOf b)).map badFieldAt) = none →
    (s.loadTable (tableOf b)).runChecks (tableOf b) = true →
    exec (.scheduleLoad t p) s = .next ((s.loadTable (tableOf b)).respond t okReply))
  ∧ (∀ (t eff : Nat) (p b : Bytes) (s : State), s.ready 0x0602 t p → allZero p 2 6 = true → field p 8 8 = eff → s.mayStage s.frame.stagedTables eff →
    s.holdsAt t (field p 0 2) 0 0x20 (fun h => 0x20 + 16 * min (field h 8 4) 16384) b →
    firstFault (tableFaults b (s.periodAt eff) ++ (((s.stageTable eff (tableOf b)).viewAt eff).tableRefs (tableOf b)).map badFieldAt) = none →
    ((s.stageTable eff (tableOf b)).viewAt eff).runChecks (tableOf b) = true →
    exec (.scheduleLoad t p) s = .next ((s.stageTable eff (tableOf b)).respond t okReply))
  ∧ (∀ (t : Nat) (p : Bytes) (s : State), s.ready 0x0603 t p → exec (.frameStatus t p) s = .next (s.respond t (okWith s.frameStatus)))

/-- SLICE_JOIN, SLICE_LEAVE, ROUTE_TABLE_LOAD, AXIS_SET and CABLING_CHECK (R265, R271, R280, R398): the membership, the pending table, the axis set in
force or staged, and the quarantine of ports. -/
def Obligations.SliceCommands : Prop :=
  (∀ (t sl r : Nat) (p : Bytes) (s : State) (x : RouteTable), s.ready 0x0701 t p → field p 0 2 = sl → allZero p 2 6 = true → s.member = none →
    (s.sliceTables sl).current = some x → x.members.findIdx? (· == s.modId) = some r →
    exec (.sliceJoin t p) s
      = .next ((s.withMember (some (sl, r))).respond t (okWith (leBytes 2 r ++ leBytes 2 x.members.length ++ leBytes 4 x.epoch))))
  ∧ (∀ (t : Nat) (p : Bytes) (s : State), s.ready 0x0705 t p → exec (.sliceLeave t p) s = .next (s.leaveSlice.respond t okReply))
  ∧ (∀ (t : Nat) (p b : Bytes) (s : State) (tb : RouteTable) (x : SliceTables), s.ready 0x0702 t p → allZero p 2 6 = true →
    s.holdsAt t (field p 0 2) 0 0x20 routeBytes b → tb = routeOf b → x = s.sliceTables tb.slice → s.clk.ref ≤ tb.effective →
    (x.current = none ∨ x.since + cyclesS ≤ tb.effective) →
    firstFault (routeFaults b (x.current.map (fun c => c.epoch)) (s.membersNeeded tb.slice tb.effective)) = none → s.routesFull tb = false →
    exec (.routeTableLoad t p) s = .next ((s.withRoutes (SMap.insert s.routes tb.slice { x with pending := some tb })).respond t okReply))
  ∧ (∀ (t : Nat) (p b : Bytes) (s : State), s.ready 0x0703 t p → s.outside → allZero p 2 6 = true → field p 8 8 = 0 →
    s.holdsAt t (field p 0 2) 0 0x50 axisBytes b → firstFault (axisSetFaults b (s.membersAt 0)) = none →
    exec (.axisSet t p) s = .next ((s.withFab { s.fab with axis := some (axisSetOf b) }).respond t okReply))
  ∧ (∀ (t eff : Nat) (p b : Bytes) (s : State), s.ready 0x0703 t p → allZero p 2 6 = true → field p 8 8 = eff → s.mayStage s.fab.staged eff →
    s.holdsAt t (field p 0 2) 0 0x50 axisBytes b → firstFault (axisSetFaults b (s.membersAt eff)) = none →
    ((s.withFab { s.fab with staged := SMap.insert s.fab.staged eff (axisSetOf b) }).viewAt eff).armHolds = true →
    exec (.axisSet t p) s = .next ((s.withFab { s.fab with staged := SMap.insert s.fab.staged eff (axisSetOf b) }).respond t okReply))
  ∧ (∀ (t n : Nat) (p : Bytes) (s : State), s.ready 0x0704 t p → p.length = 8 * n → n ≤ 16 → (∀ i, i < n → firstFail (cableChecks p i) = none) →
    exec (.cablingCheck t p) s = .next ((((List.range n).map (cableAt p)).foldl State.cable s).respond t (okWith (((List.range n).map (cableAt p)).flatMap
      (fun c => cableAnswer c.port (s.port c.port) (cableResult (s.port c.port) c.none_ c.peer c.at_))))))
  ∧ (∀ (t n : Nat) (p : Bytes) (s : State), s.ready 0x8704 t p → p.length = 8 * n → n ≤ 16 → (∀ i, i < n → firstFail (cableChecks p i) = none) →
    exec (.cablingCheckExpert t p) s = .next (s.respond t (okWith (((List.range n).map (cableAt p)).flatMap
      (fun c => cableAnswer c.port (s.port c.port) (cableResult (s.port c.port) c.none_ c.peer c.at_))))))

/-- STEP_FEED (R285, R286): the first feed of a step takes a slot and writes the header, bytes land inline, a bulk form opens its transfer, and a whole
entry closes. -/
def Obligations.StepFeedCommand : Prop :=
  (∀ (t n : Nat) (p : Bytes) (s : State), s.ready 0x0801 t p → s.accepts (field p 0 8) = true → s.huskSlot (field p 0 8) = none → field p 8 4 = 4 →
    field p 0xC 4 = 0 → field p 0x18 8 = n → n ≤ 4032 → p.length = 0x40 + n → (feedHead p).takes (field p 0x10 8) n = true →
    firstFail (headChecks (feedHead p) none (reserved p 0x2C 4)) = none → (feedHead p).dataEnd ≤ s.huskEntrySize →
    exec (.stepFeed t p) s
      = .next (((s.takeSlot s.freeSlot (field p 0 8) (feedHead p)).feedBytes s.freeSlot (field p 0x10 8) (p.drop 0x40)).respond t okReply))
  ∧ (∀ (t i n : Nat) (p : Bytes) (s : State), s.ready 0x0801 t p → s.accepts (field p 0 8) = true → s.huskSlot (field p 0 8) = some i → field p 8 4 = 0 →
    field p 0xC 4 = 0 → field p 0x18 8 = n → n ≤ 4032 → p.length = 0x40 + n → (s.fedHead i).takes (field p 0x10 8) n = true →
    firstFail (noHeadChecks p) = none →
    exec (.stepFeed t p) s = .next ((s.feedBytes i (field p 0x10 8) (p.drop 0x40)).respond t okReply))
  ∧ (∀ (t i n : Nat) (p : Bytes) (s : State), s.ready 0x0801 t p → s.accepts (field p 0 8) = true → s.huskSlot (field p 0 8) = some i → field p 8 4 = 2 →
    field p 0x18 8 = n → s.numberOpen (s.runningSession t) (field p 0xC 4) = false → (s.transfersOf (s.runningSession t)).length < 64 →
    (s.fedHead i).takes (field p 0x10 8) n = true → firstFail (noHeadChecks p) = none →
    exec (.stepFeed t p) s = .next ((s.openTransfer (s.runningSession t)
      { number := field p 0xC 4, use := .husk (field p 0 8), region := 0, base := field p 0x10 8, len := n, got := [] }).respond t accepted))
  ∧ (∀ (t i : Nat) (p : Bytes) (s : State), s.ready 0x0801 t p → s.accepts (field p 0 8) = true → s.huskSlot (field p 0 8) = some i → field p 8 4 = 1 →
    field p 0xC 4 = 0 → field p 0x18 8 = 0 → p.length = 0x40 → firstFail (noHeadChecks p) = none → s.entryWhole i (s.fedHead i) [] = true →
    exec (.stepFeed t p) s = .next ((s.closeHusk i (s.fedHead i)).respond t okReply))

/-- RUN_ARM, RUN_START and RUN_HOLD (R355, R399 to R401): the run is armed at V0, starts two or more epochs ahead once its waits have ended, and is asked to
hold at a period. -/
def Obligations.RunCommands : Prop :=
  (∀ (t : Nat) (p : Bytes) (s : State) (tb : Table), s.ready 0x0802 t p → s.frame.table = some tb → s.member ≠ none → s.frame.loaded = true →
    s.ckpt.restore = none → field p 0 16 ≠ 0 → s.run.lastArmed ≠ some (field p 0 16) → s.huskOk (field p 0x28 2) = true → field p 0x2A 2 = 0 →
    allZero p 0x2C 4 = true → tb.period = s.frame.period → s.tableRefs tb = [] → s.runChecks tb = true → (s.num.emu = false ∨ s.memberCount ≤ 256) →
    s.huskSmall (field p 0x28 2) = false → s.badMaster = none →
    exec (.runArm t p) s = .next ((s.armRun (armedOf p 0) []).respond t (okWith (leBytes 8 0))))
  ∧ (∀ (t : Nat) (p : Bytes) (s : State) (tb : Table) (r : StagedRestore), s.ready 0x0802 t p → s.frame.table = some tb → s.member ≠ none →
    s.frame.loaded = true → s.ckpt.restore = none → s.ckpt.staged = some r → field p 0 16 = r.runId → r.runId ≠ 0 → field p 0x18 8 = r.keyLo.toNat →
    field p 0x20 8 = r.keyHi.toNat → s.huskOk (field p 0x28 2) = true → field p 0x2A 2 = 1 → allZero p 0x2C 4 = true → tb.period = s.frame.period →
    s.tableRefs tb = [] → s.runChecks tb = true → (s.num.emu = false ∨ s.memberCount ≤ 256) → s.huskSmall (field p 0x28 2) = false → s.badMaster = none →
    exec (.runArm t p) s = .next ((s.armRun (armedOf p r.version) r.stag).respond t (okWith (leBytes 8 r.version))))
  ∧ (∀ (t epoch last : Nat) (p : Bytes) (s : State), s.ready 0x0803 t p → s.waits 0x0803 t p = false → field p 0 8 = epoch → field p 8 8 = last →
    epoch ≤ epochMax → (last = 0 ∨ s.run.sealed < last) → s.recov.partner = none → s.memberCount = 1 → s.rank = 0 → s.run.v0s = [] →
    s.clk.adopted = true → s.clk.ref / epochCycles + 2 ≤ epoch → s.clk.present = true → s.clk.stopped = false → s.sup.noRun = false →
    ∃ v, exec (.runStart t p) s = .next v ∧ v.run.mode = .running ∧ v.run.nextComma = some (epoch * epochCycles) ∧ v.run.sealed = s.run.sealed
      ∧ v.run.started = true)
  ∧ (∀ (t epoch last : Nat) (p : Bytes) (s : State), s.waits 0x0803 t p = true → field p 0 8 = epoch → field p 8 8 = last → s.run.mode = .armed →
    s.run.startSent = true → s.pairAgrees = true → s.startReady = true → s.mixedRank = none → s.clk.adopted = true →
    s.clk.ref / epochCycles + 2 ≤ epoch → s.clk.present = true → s.clk.stopped = false → s.sup.noRun = false →
    ∃ v, exec (.runStart t p) s = .next v ∧ v.run.mode = .running ∧ v.run.nextComma = some (epoch * epochCycles) ∧ v.run.sealed = s.run.sealed
      ∧ v.run.started = true)
  ∧ (∀ (t : Nat) (p : Bytes) (s : State), s.ready 0x0804 t p → s.inRun = true → (field p 0 8 = 0 ∨ s.run.period < field p 0 8) → s.run.holdAt = none →
    exec (.runHold t p) s
      = .next ((s.withRun { s.run with holdAt := some (if field p 0 8 = 0 then s.run.period + 1 else field p 0 8) }).respond t accepted))

/-- SEAL_POLICY_SET, REPLAY and STEP_STATUS (R301, R303, R402): the replay limit and the resolution, a step failed on the host's behalf, and a step's
record. -/
def Obligations.StepCommands : Prop :=
  (∀ (t limit : Nat) (p : Bytes) (s : State), s.ready 0x0805 t p → field p 0 1 = limit → limit ≤ 15 → field p 1 1 = 0 → allZero p 2 6 = true →
    field p 8 8 = 0 →
    exec (.sealPolicySet t p) s = .next ((s.withRun { s.run with resolution :=
      { limit := if limit = 0 then s.run.resolution.limit else limit, code := 0, step := 0, period := 0 } }).respond t okReply))
  ∧ (∀ (t limit code step eff : Nat) (p : Bytes) (s : State), s.ready 0x0805 t p → field p 0 1 = limit → limit ≤ 15 → field p 1 1 = code → 1 ≤ code →
    code ≤ 3 → allZero p 2 6 = true → field p 8 8 = step → field p 0x10 8 = eff → s.run.period < eff → s.run.mode = .held → s.run.heldStep = some step →
    (code = 1 → s.sealBarred step = false) →
    exec (.sealPolicySet t p) s = .next ((s.withRun { s.run with resolution :=
      { limit := if limit = 0 then s.run.resolution.limit else limit, code := code, step := step, period := eff } }).respond t okReply))
  ∧ (∀ (t : Nat) (p : Bytes) (s : State), s.ready 0x0806 t p → s.replayable (field p 0 8) = true →
    exec (.replay t p) s = .next ((s.failStep (field p 0 8) fHost).respond t okReply))
  ∧ (∀ (t : Nat) (p : Bytes) (s : State), s.ready 0x0807 t p → allZero p 0xC 4 = true →
    exec (.stepStatus t p) s
      = .next (s.respond t (okWith (s.stepStatus (if field p 0 8 = 0 then s.run.lastVerdict else field p 0 8) (field p 8 4)))))

/-- NUMERICS_POLICY_SET, SCALE_STATE_READ, LAYER_WATCH_SET and EMULATION_MODE_SET (R148, R149, R168, R170): outside a run at once, in a run staged. -/
def Obligations.NumericsCommands : Prop :=
  (∀ (t : Nat) (p b : Bytes) (s : State) (expert : Bool), s.ready (if expert then 0x8901 else 0x0901) t p → s.outside →
    allZero p 2 6 = true → field p 8 8 = 0 → s.holdsAt t (field p 0 2) 0 0x40 policyBytes b → firstFault (policyFaults expert b) = none →
    (s.run.mode = .armed → s.jobsManaged (policyOfBytes b) = true) →
    exec (if expert then .numericsPolicySetExpert t p else .numericsPolicySet t p) s
      = .next ((s.withNum { s.num with policy := policyOfBytes b }).respond t okReply))
  ∧ (∀ (t eff : Nat) (p b : Bytes) (s : State) (expert : Bool), s.ready (if expert then 0x8901 else 0x0901) t p → allZero p 2 6 = true → field p 8 8 = eff →
    s.mayStage s.num.staged eff → s.holdsAt t (field p 0 2) 0 0x40 policyBytes b → firstFault (policyFaults expert b) = none →
    (s.masterModeIn t (field p 0 2)).getD s.num.policy.masterMode = s.num.policy.masterMode →
    ((s.withNum { s.num with staged := SMap.insert s.num.staged eff (policyOfBytes b) }).viewAt eff).armHolds = true →
    exec (if expert then .numericsPolicySetExpert t p else .numericsPolicySet t p) s
      = .next ((s.withNum { s.num with staged := SMap.insert s.num.staged eff (policyOfBytes b) }).respond t okReply))
  ∧ (∀ (t step : Nat) (p : Bytes) (s : State), s.ready 0x0902 t p → step = (if field p 0 8 = 0 then s.run.sealed else field p 0 8) → step ≠ 0 →
    ((s.huskSlot step).isSome = true ∨ step = s.run.sealed) → field p 8 4 ≤ 0xFFFFFF → allZero p 0xC 4 = true →
    exec (.scaleStateRead t p) s = .next (s.respond t (okWith (leBytes 8 step
      ++ leBytes 4 (((s.stepRec step).scale.filter (fun e => decide (field p 8 4 ≤ e.1))).take 255).length ++ zeros 4
      ++ scaleRecords (((s.stepRec step).scale.filter (fun e => decide (field p 8 4 ≤ e.1))).take 255)))))
  ∧ (∀ (t n : Nat) (p : Bytes) (s : State), s.ready 0x0903 t p → s.outside → field p 0 1 = n → 1 ≤ n → 16 + 16 * n ≤ p.length → allZero p 1 7 = true →
    field p 8 8 = 0 → (∀ i, i < n → firstFail (watchChecks p i) = none) →
    (s.watchUnion (SMap.insert s.num.stagedWatch 0 ((List.range n).map (watchAt p)))).length ≤ 1024 →
    exec (.layerWatchSet t p) s = .next ((s.withNum { s.num with watch := addWatches s.num.watch ((List.range n).map (watchAt p)) }).respond t okReply))
  ∧ (∀ (t n eff : Nat) (p : Bytes) (s : State), s.ready 0x0903 t p → field p 8 8 = eff → s.mayStage s.num.stagedWatch eff → field p 0 1 = n → 1 ≤ n →
    16 + 16 * n ≤ p.length → allZero p 1 7 = true → (∀ i, i < n → firstFail (watchChecks p i) = none) →
    (s.watchUnion (SMap.insert s.num.stagedWatch eff ((List.range n).map (watchAt p)))).length ≤ 1024 →
    exec (.layerWatchSet t p) s
      = .next ((s.withNum { s.num with stagedWatch := SMap.insert s.num.stagedWatch eff ((List.range n).map (watchAt p)) }).respond t okReply))
  ∧ (∀ (t : Nat) (p : Bytes) (s : State) (on : Bool), s.ready 0x0904 t p → field p 0 1 = bitNat on → allZero p 1 7 = true →
    exec (.emulationModeSet t p) s = .next ((s.withNum { s.num with emu := on }).respond t okReply))

/-- MIRROR_PAIR_SET, SPARE_ENROL, TAKEOVER, FENCE, DIE_SWAP, HEALTH_READ and PROBATION_SET (R311, R320, R326, R328, R329, R334, R335). -/
def Obligations.RecoveryCommands : Prop :=
  (∀ (t r : Nat) (p : Bytes) (s : State), s.ready 0x0A01 t p → field p 0 2 = r → r ≤ 16383 → field p 2 2 = 0 → r ≠ s.rank → s.rankKnown r = true →
    allZero p 4 4 = true →
    exec (.mirrorPairSet t p) s = .next ((s.withRecov { s.recov with partner := some r, pairRec := none }).respond t okReply))
  ∧ (∀ (t : Nat) (p : Bytes) (s : State), s.ready 0x0A01 t p → field p 0 2 = 0 → field p 2 2 = 1 → allZero p 4 4 = true →
    exec (.mirrorPairSet t p) s = .next ((s.withRecov { s.recov with partner := none, pairRec := none }).respond t okReply))
  ∧ (∀ (t : Nat) (p : Bytes) (s : State), s.ready 0x0A02 t p → s.member = none → field p 0 2 ≤ 4095 → allZero p 2 6 = true →
    exec (.spareEnrol t p) s
      = .next (((s.withRun { s.run with mode := .standby }).withRecov { s.recov with standby := some (field p 0 2) }).respond t okReply))
  ∧ (∀ (t sl : Nat) (p : Bytes) (s : State), s.ready 0x0A03 t p → s.sup.noRun = false → s.recov.takeover = none → s.recov.standby = some sl →
    field p 0 2 ≤ 16383 → field p 2 2 ≤ 16383 → field p 0x28 2 ≤ 16383 → s.partnerOk sl (field p 4 4) (field p 0 2) (field p 0x28 2) = true →
    allZero p 0x2A 6 = true →
    exec (.takeover t p) s = .next ((s.beginTakeover sl (takeoverOf p)).respond t accepted))
  ∧ (∀ (t : Nat) (p : Bytes) (s : State), s.ready 0x0A04 t p → s.run.mode ≠ .fenced →
    exec (.fence t p) s = .next ((s.log { code := 0x800C, alert := true }).fenceModule.respond t okReply))
  ∧ (∀ (t : Nat) (p : Bytes) (s u : State), s.ready 0x8A04 t p → s.run.mode ≠ .fenced → u = (s.log { code := 0x800C, alert := true }).fenceModule →
    exec (.fenceExpert t p) s = .next ((u.withRecov { u.recov with noTransit := true }).respond t okReply))
  ∧ (∀ (t d : Nat) (p : Bytes) (s : State), s.ready 0x0A05 t p → field p 0 1 = d → d ≤ 7 → allZero p 1 7 = true → s.spareDie ≠ none → s.recov.swap = none →
    (∀ c ∈ dieCores d, s.coreBusy c = false) →
    exec (.dieSwap t p) s = .next ((s.failDie d).respond t okReply))
  ∧ (∀ (t : Nat) (p : Bytes) (s : State), s.ready 0x0A06 t p → field p 0 2 ≤ 16383 → allZero p 2 6 = true →
    exec (.healthRead t p) s = .next (s.respond t (okWith (s.healthHeader ((s.healthRanks (field p 0 2)).take 252).length
      ++ ((s.healthRanks (field p 0 2)).take 252).flatMap s.healthRecord))))
  ∧ (∀ (t n what : Nat) (p : Bytes) (s : State), s.ready 0x0A07 t p → field p 0 1 = n → n ≤ 64 → field p 1 1 = what → what ≤ 2 → allZero p 2 6 = true →
    s.outside → field p 8 8 = 0 →
    exec (.probationSet t p) s = .next (((s.setThreshold n).probationFor what 0).respond t okReply))
  ∧ (∀ (t n what eff : Nat) (p : Bytes) (s : State), s.ready 0x0A07 t p → field p 0 1 = n → n ≤ 64 → field p 1 1 = what → what ≤ 2 → allZero p 2 6 = true →
    field p 8 8 = eff → s.mayStage s.recov.stagedProb eff →
    exec (.probationSet t p) s = .next (((s.setThreshold n).probationFor what eff).respond t okReply))

/-- CHECKPOINT_POLICY_SET, CHECKPOINT_NOW, CHECKPOINT_STATUS, MANIFEST_READ and RESTORE (R339, R341, R351 to R354). -/
def Obligations.CheckpointCommands : Prop :=
  (∀ (t : Nat) (p : Bytes) (s : State) (expert : Bool), s.ready (if expert then 0x8B01 else 0x0B01) t p → (ckptPolicyOf p).flags ≤ (if expert then 7 else 3) →
    (ckptPolicyOf p).chunks ≤ 16 → allZero p 2 2 = true → s.ownerSession (ckptPolicyOf p).sink = true →
    (bit (ckptPolicyOf p).flags 0 = true → 1 ≤ (ckptPolicyOf p).steps ∧ (ckptPolicyOf p).steps ≤ 1000000) →
    (bit (ckptPolicyOf p).flags 1 = true → 60 ≤ (ckptPolicyOf p).timer ∧ (ckptPolicyOf p).timer ≤ 86400) → allZero p 0x30 16 = true →
    exec (if expert then .checkpointPolicySetExpert t p else .checkpointPolicySet t p) s
      = .next ((s.withCkpt (if s.inRun then { s.ckpt with stagedPol := some (ckptPolicyOf p) } else { s.ckpt with policy := ckptPolicyOf p })).respond t okReply))
  ∧ (∀ (t : Nat) (p : Bytes) (s : State), s.ready 0x0B02 t p → s.outside → s.ckpt.run = none → s.ckpt.restore = none → s.ckpt.now = none →
    s.pairsHold (if field p 0 8 = 0 then s.run.sealed else field p 0 8) = true →
    exec (.checkpointNow t p) s = .next ((s.startCheckpoint (if field p 0 8 = 0 then s.run.sealed else field p 0 8)).respond t okReply))
  ∧ (∀ (t : Nat) (p : Bytes) (s : State), s.ready 0x0B02 t p → s.inRun = true → s.ckpt.run = none → s.ckpt.restore = none → s.ckpt.now = none →
    ∃ v, exec (.checkpointNow t p) s = .next v ∧ v.ckpt = { s.ckpt with now := some (field p 0 8), nowFor := some t })
  ∧ (∀ (t : Nat) (p : Bytes) (s : State), s.ready 0x0B03 t p → exec (.checkpointStatus t p) s = .next (s.respond t (okWith s.ckptView)))
  ∧ (∀ (t : Nat) (p : Bytes) (s : State), s.ready 0x0B05 t p → s.ckpt.done ≠ none →
    exec (.manifestRead t p) s = .next (s.respond t (okWith (s.ckpt.manifest.take 4096))))
  ∧ (∀ (t n : Nat) (p m cert : Bytes) (s : State) (g : Region), s.ready 0x0B04 t p → field p 4 4 = n → s.ownRegion t (field p 0 2) = some g → n ≤ g.size →
    0x60 + 384 ≤ n → s.ckpt.run = none → (∀ i ∈ s.jobShards, s.transferInto i = false) → allZero p 2 2 = true → s.ownerSession (field p 0x30 4) = true →
    allZero p 0x34 4 = true → s.holdsAt t (field p 0 2) 0 n (fun _ => n) m → firstFail (manifestFaults m) = none →
    s.holdsAt t (field p 0 2) (roundUp 64 n) 4 derLength cert → s.restoreRefusal p m cert = none →
    exec (.restore t p) s = .next ((s.openRestore p m).respond t accepted))

/-- TELEMETRY_READ, TELEMETRY_STREAM, TELEMETRY_STREAM_INTERVAL, LEDGER_READ and COUNTERS_AUDIT_READ (R403 to R406). -/
def Obligations.ObservationCommands : Prop :=
  (∀ (t sel i : Nat) (p : Bytes) (s : State), s.ready 0x0C01 t p → field p 0 2 = sel → field p 2 2 = i → i ∈ telIndices sel → allZero p 4 4 = true →
    exec (.telemetryRead t p) s = .next ((s.afterTel sel).respond t (okWith (s.telRecord sel i))))
  ∧ (∀ (t k mask ms rate : Nat) (p : Bytes) (s : State), s.ready 0x0C02 t p → field p 0 1 = 0 → field p 1 1 = k → k ≤ 3 → allZero p 2 2 = true →
    field p 4 4 = mask → mask ≤ 255 → field p 8 4 = ms → 1 ≤ ms → ms ≤ 60000 → allZero p 0xC 4 = true → rate = streamRate (s.telRecords mask).2.length ms →
    s.streamOf (s.runningSession t) k = none → (carries t 2 = true → (s.uses t).getD 2 0 + rate ≤ (s.tenant t).quotaAt 2) →
    exec (.telemetryStream t p) s
      = .next (((s.setSession (s.runningSession t)
          (fun y => { y with streams := SMap.insert y.streams k { mask := mask, interval := ms, rate := rate, next := s.clk.elapsed + ms * cyclesMs } })).refreshQuota
        t).respond t (okWith (leBytes 4 rate))))
  ∧ (∀ (t k : Nat) (p : Bytes) (s : State), s.ready 0x0C02 t p → field p 0 1 = 1 → field p 1 1 = k → k ≤ 3 → allZero p 2 2 = true → allZero p 0xC 4 = true →
    exec (.telemetryStream t p) s
      = .next (((s.setSession (s.runningSession t) (fun y => { y with streams := SMap.erase y.streams k })).refreshQuota t).respond t (okWith (leBytes 4 0))))
  ∧ (∀ (id k at' : Nat) (s : State) (x : TelStream), (s.advance at').streamOf id k = some x → x.next ≤ (s.advance at').clk.elapsed →
    ∃ v r, exec (.telemetryStreamInterval id k at') s = .next v
      ∧ r = ((s.advance at').setSession id (fun y => { y with streams := SMap.insert y.streams k { x with next := x.next + x.interval * cyclesMs } })).telRecords
        x.mask ∧ v = r.1.sendFrames id (telFrames k r.2))
  ∧ (∀ (t off : Nat) (p : Bytes) (s : State) (e : LedgerEntry) (rest : List LedgerEntry), s.ready 0x0C03 t p → field p 8 4 = off →
    s.ledger.entries.dropWhile (fun x => x.seq != field p 0 8) = e :: rest → off < e.bytes.length → s.ledger.oldest ≤ field p 0 8 → allZero p 0xC 4 = true →
    exec (.ledgerRead t p) s = .next (s.respond t
      { payload := leBytes 8 (field p 0 8) ++ leBytes 4 off ++ leBytes 4 (ledgerBytes 4064 (e :: rest) off).1.length ++ leBytes 8 s.ledger.headNow.1
          ++ leBytes 8 s.ledger.oldest ++ (ledgerBytes 4064 (e :: rest) off).1, ledger := (ledgerBytes 4064 (e :: rest) off).2 }))
  ∧ (∀ (t : Nat) (p : Bytes) (s : State), s.ready 0x0C04 t p → exec (.countersAuditRead t p) s = .next (s.respond t (okWith (fitTo 0x88 s.run.audit))))

/-- RESET, SERVICE_STATE_SET, ESCALATION_READ, SYNC_INSPECT, NUTSHELL_READ, EVENT_LOG_READ, CORE_HALT_INSPECT, POWER_CAP_SET, RAMP_POLICY_SET and POWER_STATUS
(R407 to R414, R437 to R439, R444). A reset at L0 or L1 waits for its response; one at L2 to L4 begins at once; a request to the safety partition
waits for its answer; and a power status read clears the peak. -/
def Obligations.ServiceAndPowerCommands : Prop :=
  (
    (∀ (t asked level : Nat) (p : Bytes) (s : State), s.ready 0x0D01 t p → firstFail (resetChecks t p) = none → field p 0 1 = asked →
      level = s.commandLevel asked → level ≤ 1 →
      exec (.reset t p) s = .next (((s.noteRaised asked level).askFor level).respond t { payload := leBytes 1 level, reset := true }))
    ∧ (∀ (t asked level : Nat) (p : Bytes) (s : State), s.ready 0x0D01 t p → firstFail (resetChecks t p) = none → field p 0 1 = asked →
      level = s.commandLevel asked → 2 ≤ level →
      exec (.reset t p) s
        = .next (((s.noteRaised asked level).beginReset fuCommand level (resetTarget p) []).respond t { status := 1, payload := leBytes 1 level }))
    ∧ (∀ (t : Nat) (p : Bytes) (s : State), s.ready 0x0D02 t p → field p 0 1 ≤ 1 → allZero p 1 7 = true →
      ∃ v, exec (.serviceStateSet t p) s = .next v ∧ v.sup = { s.sup with asks := s.sup.asks ++ [{ item := itemService, value := field p 0 1, tenant := some t }] })
    ∧ (∀ (t : Nat) (p : Bytes) (s : State), s.ready 0x0D03 t p → exec (.escalationRead t p) s = .next (s.respond t (okWith s.escalationView)))
    ∧ (∀ (t n : Nat) (p : Bytes) (s : State) (keys : List Nat), s.ready 0x0E01 t p → field p 0 2 = n → 1 ≤ n → n ≤ 63 → 4 + 4 * n ≤ p.length →
      allZero p 2 2 = true → (List.range n).map (fun i => namedObject (field p (4 + 4 * i) 4)) = keys.map some →
      exec (.syncInspect t p) s = .next (s.respond t (okWith (keys.flatMap s.objRecord))))
    ∧ (∀ (t first n : Nat) (p : Bytes) (s : State) (b : Nat × List NutEntry), s.ready 0x0E02 t p → s.nut.bank (field p 0 1) = some b → field p 0 1 ≤ 3 →
      allZero p 1 1 = true → field p 2 2 = first → first ≤ 8191 → field p 4 2 = n → 1 ≤ n → n ≤ 63 → allZero p 6 2 = true →
      exec (.nutshellRead t p) s = .next (s.respond t (okWith (leBytes 1 (field p 0 1) ++ zeros 1 ++ leBytes 2 b.2.length ++ leBytes 2 first
        ++ leBytes 2 ((b.2.drop first).take n).length ++ leBytes 8 b.1 ++ ((b.2.drop first).take n).flatMap NutEntry.record))))
    ∧ (∀ (t c first : Nat) (p : Bytes) (s : State), s.ready 0x0E03 t p → field p 0 2 = c → c ≤ 511 → field p 2 2 = first → first ≤ 255 → allZero p 4 4 = true →
      exec (.eventLogRead t p) s = .next (s.respond t (okWith (leBytes 2 c ++ leBytes 2 (s.core c).trace.length ++ leBytes 2 first
        ++ leBytes 2 (((s.core c).trace.drop first).take 170).length ++ (((s.core c).trace.drop first).take 170).flatMap MarkRecord.record))))
    ∧ (∀ (t c : Nat) (p : Bytes) (s : State), s.ready 0x0E04 t p → field p 0 2 = c → c ≤ 511 → allZero p 2 6 = true →
      exec (.coreHaltInspect t p) s = .next (s.respond t (okWith ((s.core c).inspection false))))
    ∧ (∀ (t c : Nat) (p : Bytes) (s : State), s.ready 0x8E04 t p → field p 0 2 = c → c ≤ 511 → allZero p 2 6 = true → s.coreBusy c = false →
      exec (.coreHaltInspectExpert t p) s = .next ((s.stopCore c).respond t (okWith ((s.core c).inspection true)))))
  ∧ (
    (∀ (t w : Nat) (p : Bytes) (s : State), s.ready 0x0F01 t p → field p 0 4 = w → 1200 ≤ w → w ≤ 3000 → allZero p 4 4 = true →
      ∃ v, exec (.powerCapSet t p) s = .next v ∧ v.sup = { s.sup with asks := s.sup.asks ++ [{ item := itemCap, value := w, tenant := some t }] })
    ∧ (∀ (t slew : Nat) (p : Bytes) (s : State), s.ready 0x0F03 t p → field p 0 2 = slew → 100 ≤ slew → slew ≤ 1200 → field p 2 2 = 0 → allZero p 4 4 = true →
      ∃ v, exec (.rampPolicySet t p) s = .next v ∧ v.sup = { s.sup with asks := s.sup.asks ++ [{ item := itemRamp, value := slew, tenant := some t }] })
    ∧ (∀ (t slew phase : Nat) (p : Bytes) (s : State), s.ready 0x8F03 t p → field p 0 2 = slew → 100 ≤ slew → slew ≤ 1200 → field p 2 2 = phase → 1 ≤ phase →
      phase ≤ 10000 → allZero p 4 4 = true →
      ∃ v, exec (.rampPolicySetExpert t p) s = .next v
        ∧ v.sup = { s.sup with asks := s.sup.asks ++ [{ item := itemRamp, value := slew + phase * 65536, tenant := some t }] })
    ∧ (∀ (t : Nat) (p : Bytes) (s : State), s.ready 0x0F02 t p →
      exec (.powerStatus t p) s = .next ((s.withSup { s.sup with peak := 0 }).respond t (okWith s.powerRecord))))

/-- EVAL_SUBMIT and EVAL_RESULT_READ (R415, R416): an accepted request joins the queue behind the unfinished ones, and a result is read back. -/
def Obligations.EvaluationCommands : Prop :=
  (∀ (t : Nat) (p : Bytes) (s : State) (v : Eval) (g : Image), s.ready 0x1001 t p → v = evalOf t p → v.imageOpen = none → v.inputOpen = none →
    s.evalIdTaken v.id = false → s.evalRegion t v.imageReg v.imageBytes = (true, true) → s.evalRegion t v.inputReg v.inputBytes = (true, true) →
    s.evalRegion t v.resultReg v.resultBytes = (true, true) → s.loadIndexOk v.loadIndex = true → allZero p 0x3C 4 = true →
    s.badIn (s.regionBase v.imageReg) v.imageBytes = none → s.evalImage v.loadIndex (s.readMem (s.regionBase v.imageReg) v.imageBytes) = .ok g →
    firstFail (s.evalLimits t (s.runningSession t) v) = none →
    exec (.evalSubmit t p) s = .next ((s.addEval { v with image := some g }).respond t accepted))
  ∧ (∀ (t n : Nat) (p : Bytes) (s : State) (v : Eval), s.ready 0x1001 t p → v = evalOf t p → v.imageOpen = some n → v.inputOpen = none →
    s.evalIdTaken v.id = false → s.evalRegion t v.imageReg v.imageBytes = (true, true) → s.evalRegion t v.inputReg v.inputBytes = (true, true) →
    s.evalRegion t v.resultReg v.resultBytes = (true, true) → s.loadIndexOk v.loadIndex = true → allZero p 0x3C 4 = true →
    s.regionChanging v.imageReg = false → s.numberOpen (s.runningSession t) n = false → firstFail (s.evalLimits t (s.runningSession t) v) = none →
    exec (.evalSubmit t p) s = .next (((s.addEval v).openEval (s.runningSession t) n v.imageReg v.imageBytes (.evalImage v.id)).respond t accepted))
  ∧ (∀ (t : Nat) (p : Bytes) (s : State) (v : Eval), s.ready 0x1002 t p → s.evals.find? (fun x => x.id == field p 0 8 && x.tenant == t) = some v →
    v.phase ≠ 2 → field p 8 8 ≤ v.resultBytes → field p 0x14 4 = 0 → (∀ g, s.ownRegion t v.resultReg = some g → s.badIn (g.base + field p 8 8) 0 = none) →
    exec (.evalResultRead t p) s = .next (s.respond t (okWith (evalRecord v 0))))
  ∧ (∀ (t n : Nat) (p : Bytes) (s : State) (v : Eval) (g : Region), s.ready 0x1002 t p →
    s.evals.find? (fun x => x.id == field p 0 8 && x.tenant == t) = some v → v.phase = 2 → s.ownRegion t v.resultReg = some g → field p 8 8 ≤ v.resultBytes →
    field p 0x14 4 = 0 → n = min (v.resultBytes - field p 8 8) (min 4000 (field p 0x10 4)) → s.badIn (g.base + field p 8 8) n = none →
    exec (.evalResultRead t p) s = .next (s.respond t (okWith (evalRecord v n ++ s.readMem (g.base + field p 8 8) n))))

/-! ## What arrives on the host ports -/

/-- HELLO, OPEN, DATA, ACK_ONLY and CLOSE frames (R361 to R363): a HELLO is challenged; an OPEN is answered; a frame of a session with the right tag inside
the window is held, acknowledges and is delivered in order; one outside the window is not; one with a wrong tag is dropped. -/
def Obligations.HostFrames : Prop :=
  (∀ (port : Nat) (frame : Bytes) (s : State) (f : HostFrame), s.hears port frame f → f.typ = 3 →
    exec (.sessionOpen port frame) s = .next (s.takeOpen port (fitTo 24 (frame.take 24)) f.body))
  ∧ (∀ (port : Nat) (frame : Bytes) (s : State) (f : HostFrame), s.hears port frame f → f.typ = 1 → f.body.length = 16 → field f.body 0 1 ≤ 3 →
    allZero f.body 1 15 = true → exec (.hello port frame) s = .next (s.challenge port (fitTo 24 (frame.take 24))))
  ∧ (∀ e ∈ [(0x10, Instr.dataFrame), (0x11, Instr.ackOnly), (0x12, Instr.closeFrame)], ∀ (port : Nat) (frame : Bytes) (s s1 s2 : State) (f : HostFrame)
    (x : Session), s.hears port frame f → f.typ = e.1 → s.session f.session = some x → frameTag x.keyIn f.hdr f.body = f.tag → x.rxNext ≤ f.seq →
    f.seq ≤ x.rxNext + 255 →
    s1 = ((s.heardFrom x port (fitTo 24 (frame.take 24))).countHost port 0x08).setSession x.id
      (fun y => { y with rxHeld := SMap.insert y.rxHeld f.seq (leBytes 1 f.typ ++ leBytes 1 f.chan ++ leBytes 1 f.kind ++ f.body) }) →
    s2 = State.deliverHeld 256 (s1.takeAck x.id f.ack) port x.id →
    exec (e.2 port frame) s = .next (if e.1 = 0x10 then s2.ackBack x.id x.txNext else s2))
  ∧ (∀ e ∈ [(0x10, Instr.dataFrame), (0x11, Instr.ackOnly), (0x12, Instr.closeFrame)], ∀ (port : Nat) (frame : Bytes) (s : State) (f : HostFrame)
    (x : Session), s.hears port frame f → f.typ = e.1 → s.session f.session = some x → frameTag x.keyIn f.hdr f.body = f.tag →
    (f.seq < x.rxNext ∨ x.rxNext + 255 < f.seq) →
    exec (e.2 port frame) s = .next (((s.heardFrom x port (fitTo 24 (frame.take 24))).countHost port 0x24).ackBack x.id x.txNext))
  ∧ (∀ e ∈ [(0x10, Instr.dataFrame), (0x11, Instr.ackOnly), (0x12, Instr.closeFrame)], ∀ (port : Nat) (frame : Bytes) (s : State) (f : HostFrame)
    (x : Session), s.hears port frame f → f.typ = e.1 → s.session f.session = some x → frameTag x.keyIn f.hdr f.body ≠ f.tag →
    exec (e.2 port frame) s = .next (s.dropTag port))

/-- Frames that no session takes, service frames, and pauses (R357, R359): a frame that no port accepts is dropped and counted, a resolution or echo for the
port's own address is answered, and a MAC control frame is dropped. -/
def Obligations.PortFrames : Prop :=
  (∀ (port : Nat) (s : State), s.hostPortUp port = true → exec (.hostFrameDropped port) s = .next (s.countHost port 0x18))
  ∧ (∀ (port : Nat) (frame : Bytes) (s : State), s.hostPortUp port = true → s.serviceKind port frame = none →
    exec (.hostPortServiceFrame port frame) s = .next (s.countHost port 0x18))
  ∧ (∀ (port : Nat) (frame : Bytes) (s : State), s.hostPortUp port = true → s.serviceKind port frame = some 0 →
    exec (.hostPortServiceFrame port frame) s = .next (s.emit (.host port (Config.serviceAnswer (s.hostMac port) frame))))
  ∧ (∀ (port : Nat) (frame : Bytes) (s : State) (recent : List Nat), s.hostPortUp port = true → s.serviceKind port frame = some 1 →
    recent = (s.hostPort port).echoes.filter (fun t => decide (s.clk.elapsed < t + cyclesS)) → recent.length < 100 →
    exec (.hostPortServiceFrame port frame) s = .next ((s.setHostPort port { s.hostPort port with echoes := s.clk.elapsed :: recent }).emit
      (.host port (Config.serviceAnswer (s.hostMac port) frame))))
  ∧ (∀ (port : Nat) (control : Bool) (s : State), port < 16 →
    exec (.macControlFrame port control) s = .next (s.countPort port (if control then 0x4C else 0x44)))
  ∧ (∀ (port : Nat) (control : Bool) (s : State), port < 2 → exec (.macControlFrame (16 + port) control) s = .next (s.countHost port 0x30))

/-- The transport's timers and the tenants' turns (R361, R367, R368, R378): a retransmission sends the oldest unacknowledged frame again and doubles the timer
up to 64 ms; a session that makes no progress for 30 s, or hears nothing for 300 s, closes; the tenant next in rotation takes the submission that
holds its next number, which runs unless its session is gone, its opcode is unlisted or a check of R367 rejects it; and an unlisted opcode is
rejected with BAD_OPCODE. -/
def Obligations.TransportTimersAndTurns : Prop :=
  (
    (∀ (id at' : Nat) (s0 s : State) (x : Session) (f : TxFrame) (rest : List TxFrame), s = s0.advance at' → s.session id = some x → x.unacked = f :: rest →
      x.sentAt + x.timer * cyclesMs ≤ s.clk.elapsed →
      exec (.transportRetransmit id at') s0
        = .next (((s.setSession id (fun y => { y with timer := min 64 (2 * y.timer), sentAt := s.clk.elapsed })).wireFrame x f).countHost
            (x.portFor s.clk.elapsed f.seq) 0x28))
    ∧ (∀ (id at' : Nat) (s0 s : State) (x : Session), s = s0.advance at' → s.session id = some x →
      ((x.unacked ≠ [] ∧ x.progress + 30 * cyclesS ≤ s.clk.elapsed) ∨ x.lastRx + 300 * cyclesS ≤ s.clk.elapsed) →
      exec (.sessionTimeout id at') s0 = .next (s.closeSession id closedByTimeout)))
  ∧ (
    (∀ (t : Nat) (s : State) (q : Submission) (r : CmdRow), s.nextTenant = some t →
      (s.tenant t).waiting.find? (fun w => w.seq == (s.tenant t).next) = some q → (s.turnTaken t q).session q.session ≠ none → cmdRow q.opcode = some r →
      (s.turnTaken t q).turnReject q r = none → exec (.submissionTurn t) s = .next (s.turnTaken t q))
    ∧ (∀ (t : Nat) (s : State) (q : Submission) (r : CmdRow) (e : Reply), s.nextTenant = some t →
      (s.tenant t).waiting.find? (fun w => w.seq == (s.tenant t).next) = some q → (s.turnTaken t q).session q.session ≠ none → cmdRow q.opcode = some r →
      (s.turnTaken t q).turnReject q r = some e → exec (.submissionTurn t) s = .next ((s.turnTaken t q).respond t e))
    ∧ (∀ (t : Nat) (s : State) (q : Submission), (s.tenant t).running = some q → cmdRow q.opcode = none →
      exec (.unlistedOpcode t) s = .next (s.respond t { status := 0x0101 })))

/-- A command at its turn in a module state that does not allow it is answered WRONG_STATE, with no effect of its own (R379, R380): for every opcode of
*Command summary* and the row that carries it. -/
def Obligations.WrongStateRejected : Prop :=
  ∀ e ∈ [(0x0101, Instr.identRead), (0x0102, Instr.attestQuote), (0x0103, Instr.certRead), (0x0201, Instr.optionsRead), (0x0202, Instr.configRecordLoad),
      (0x0301, Instr.tenantQuery), (0x0302, Instr.quotaSet), (0x0304, Instr.sessionClose), (0x0401, Instr.regionAlloc), (0x0402, Instr.regionFree),
      (0x0403, Instr.regionWrite), (0x0404, Instr.regionRead), (0x0501, Instr.programLoad), (0x0502, Instr.optimizerSet), (0x0503, Instr.programVerify),
      (0x0601, Instr.frameSet), (0x0602, Instr.scheduleLoad), (0x0603, Instr.frameStatus), (0x0701, Instr.sliceJoin), (0x0702, Instr.routeTableLoad),
      (0x0703, Instr.axisSet), (0x0704, Instr.cablingCheck), (0x0705, Instr.sliceLeave), (0x0801, Instr.stepFeed), (0x0802, Instr.runArm),
      (0x0803, Instr.runStart), (0x0804, Instr.runHold), (0x0805, Instr.sealPolicySet), (0x0806, Instr.replay), (0x0807, Instr.stepStatus),
      (0x0901, Instr.numericsPolicySet), (0x0902, Instr.scaleStateRead), (0x0903, Instr.layerWatchSet), (0x0904, Instr.emulationModeSet),
      (0x0A01, Instr.mirrorPairSet), (0x0A02, Instr.spareEnrol), (0x0A03, Instr.takeover), (0x0A04, Instr.fence), (0x0A05, Instr.dieSwap),
      (0x0A06, Instr.healthRead), (0x0A07, Instr.probationSet), (0x0B01, Instr.checkpointPolicySet), (0x0B02, Instr.checkpointNow),
      (0x0B03, Instr.checkpointStatus), (0x0B04, Instr.restore), (0x0B05, Instr.manifestRead), (0x0C01, Instr.telemetryRead),
      (0x0C02, Instr.telemetryStream), (0x0C03, Instr.ledgerRead), (0x0C04, Instr.countersAuditRead), (0x0D01, Instr.reset), (0x0D02, Instr.serviceStateSet),
      (0x0D03, Instr.escalationRead), (0x0E01, Instr.syncInspect), (0x0E02, Instr.nutshellRead), (0x0E03, Instr.eventLogRead),
      (0x0E04, Instr.coreHaltInspect), (0x0F01, Instr.powerCapSet), (0x0F02, Instr.powerStatus), (0x0F03, Instr.rampPolicySet), (0x1001, Instr.evalSubmit),
      (0x1002, Instr.evalResultRead), (0x8401, Instr.regionAllocExpert), (0x8501, Instr.programLoadExpert), (0x8502, Instr.optimizerSetExpert),
      (0x8601, Instr.frameSetExpert), (0x8704, Instr.cablingCheckExpert), (0x8901, Instr.numericsPolicySetExpert), (0x8A04, Instr.fenceExpert),
      (0x8B01, Instr.checkpointPolicySetExpert), (0x8E04, Instr.coreHaltInspectExpert), (0x8F03, Instr.rampPolicySetExpert)],
    ∀ (t : Nat) (p : Bytes) (s : State), s.runs e.1 t p = true → s.stateOk e.1 = false → exec (e.2 t p) s = .next (s.respond t wrongState)

/-! ## Time: the tick unit, the windows and the verdict -/

/-- Markers, REFCLK and commas (R24, R25, R27, R31, R297, R324): outside a run the second consistent marker sets the count from its epoch; in a run a marker
is only compared, and an inconsistent or missing one is a slip; the loss of REFCLK stops the commas and leaves the count; a comma inside a window
closes its clause and opens the next; one that ends a window closes it, applies the combined record where it has come, and stalls the run where
it has not. -/
def Obligations.TickUnitAndCommas : Prop :=
  (
    (∀ (at' t e : Nat) (w : Word) (s0 s : State), s0.clk.present = true → s = s0.advance at' → s.outside → s.clk.lastMarker = some (t, e) →
      markerOk at' w (t + epochCycles) (e + 1) = true → 1 ≤ s.clk.consistent →
      ∃ v, exec (.tickEpochMarker at' w) s0 = .next v ∧ v.clk.ref = markerEpoch w * epochCycles ∧ v.clk.adopted = true ∧ v.clk.elapsed = s.clk.elapsed)
    ∧ (∀ (at' : Nat) (w : Word) (s0 s : State), s0.clk.present = true → s = s0.advance at' → s.inRun = true →
      markerOk at' w s.clk.expect (s.clk.expect / epochCycles) = true →
      ∃ v, exec (.tickEpochMarker at' w) s0 = .next v ∧ v.clk.ref = s.clk.ref ∧ v.clk.slipRun = 0 ∧ v.clk.expect = s.clk.expect + epochCycles)
    ∧ (∀ (at' : Nat) (w : Word) (s0 s : State), s0.clk.present = true → s = s0.advance at' → s.inRun = true →
      markerOk at' w s.clk.expect (s.clk.expect / epochCycles) = false →
      ∃ v, exec (.tickEpochMarker at' w) s0 = .next v ∧ v.clk.ref = s.clk.ref ∧ v.clk.slips = sat32 (s.clk.slips + 1) ∧ v.clk.slipRun = s.clk.slipRun + 1)
    ∧ (∀ s : State, s.clk.present = true → s.inRun = true →
      ∃ v, exec .markerMissing s = .next v ∧ v.clk.slips = sat32 (s.clk.slips + 1) ∧ v.clk.expect = s.clk.expect + epochCycles)
    ∧ (∀ (s : State) (t e : Nat), s.clk.present = true → s.outside → s.clk.lastMarker = some (t, e) →
      ∃ v, exec .markerMissing s = .next v ∧ v.clk.consistent = 0)
    ∧ (∀ s : State, s.clk.present = true →
      ∃ v, exec .refclkLost s = .next v ∧ v.clk.present = false ∧ v.clk.stopped = true ∧ v.clk.ref = s.clk.ref ∧ v.run = s.run)
    ∧ (∀ s : State, s.clk.present = false → exec .refclkReturned s = .next (s.withClk { s.clk with present := true }))
    ∧ (∀ s : State, s.clk.stopped = true → s.inRun = true →
      exec .oscillatorPeriod s = .next (s.withClk { s.clk with oscPeriods := s.clk.oscPeriods + 1 }).missPeriod))
  ∧ (
    (∀ (s s1 : State) (t : Nat), s.run.nextComma = some t → s.ticking = true → s.run.kind ≠ .none → s.run.clause + 1 < s.periodLength →
      s1 = (s.advance t).closeClause → s1.run.stalled = false →
      exec .comma s = .next ((s1.withRun { s1.run with comma := s1.run.comma + 1, nextComma := some (t + s1.frame.interval * 100) }).openClause
        ((s.advance t).run.clause + 1) t))
    ∧ (∀ (s u : State) (t : Nat), s.run.nextComma = some t → s.ticking = true → u = s.advance t → u.run.kind = .none →
      exec .period s = .next ((u.withRun { u.run with comma := 0, period := 0, startRef := t, periodRef := t }).turnPeriod none t))
    ∧ (∀ (s u u1 u2 : State) (t : Nat) (b : Bytes), s.run.nextComma = some t → s.ticking = true → u = s.advance t → u.run.kind ≠ .none →
      u.periodLength ≤ u.run.clause + 1 → u.run.stalled = false → u1 = u.closeClause.missLag0.closeLate →
      u2 = u1.withRun { u1.run with comma := u1.run.comma + 1, period := u1.run.period + 1, periodRef := t } → u2.run.record = some b →
      u2.run.stalled = false → exec .period s = .next (u2.turnPeriod (some b) t))
    ∧ (∀ (s u u1 u2 : State) (t : Nat), s.run.nextComma = some t → s.ticking = true → u = s.advance t → u.run.kind ≠ .none →
      u.periodLength ≤ u.run.clause + 1 → u.run.stalled = false → u1 = u.closeClause.missLag0.closeLate →
      u2 = u1.withRun { u1.run with comma := u1.run.comma + 1, period := u1.run.period + 1, periodRef := t } → u2.run.record = none →
      exec .period s = .next (u2.stall t)))

/-- The verdict (R152, R291, R296, R297, R323): the numerics exchange, the start of the verdict entry, the cut-off of a missing record, the combined record in
time, late, and too late. -/
def Obligations.VerdictEvents : Prop :=
  (∀ (others : List Bytes) (s : State) (x : Nat × EntrySt) (k : Nat), s.verdictEntry = some x → s.run.lag1 = some k → s.mayStart = true →
    s.clk.stopped = false → s.run.exchanged = false → others.length + 1 = s.memberCount → (∀ b ∈ others, b.length = (s.exchangeBytes k).length) →
    ∃ v, exec (.numericsExchange others) s = .next v ∧ v.run.exchanged = true
      ∧ v = (s.combineNumerics k (others.take s.rank ++ [s.exchangeBytes k] ++ others.drop s.rank)).withRun
          { (s.combineNumerics k (others.take s.rank ++ [s.exchangeBytes k] ++ others.drop s.rank)).run with exchanged := true })
  ∧ (∀ (at' key k : Nat) (s0 s s1 : State) (e : EntrySt) (r : State × Bytes), s = s0.advance at' → s.verdictEntry = some (key, e) → s.mayStart = true →
    s.clk.present = true → s.clk.stopped = false → s.run.lag1 = some k → s.run.exchanged = true → s1 = s.missShared k e.entry.clause (keyWindow key) →
    r = (s1.startUnit key e.entry.target).stepRecord k →
    exec (.verdictEntryStart at') s0 = .next (r.1.withRun { r.1.run with ownRec := some r.2 }).passUp)
  ∧ (∀ (at' key : Nat) (s0 s s1 : State) (e : EntrySt), s = s0.advance at' → s.verdictEntry = some (key, e) → s.mayStart = true → s.clk.present = true →
    s.clk.stopped = false → s.run.lag1 = none → s1 = s.startUnit key e.entry.target →
    exec (.verdictEntryStart at') s0 = .next (s1.withRun { s1.run with ownRec := some s1.plainRecord }).passUp)
  ∧ (∀ (child : Nat) (s0 s : State), s0.inRun = true → s0.clk.present = true → child ∈ s0.nodePlaces → s0.run.sentUp = false → child ∉ s0.run.cut → s0.nodePart child = none →
    s = s0.advance s0.cutoffRef →
    exec (.verdictCutoff child) s0 = .next ((s.withRun { s.run with cut := s.run.cut ++ [child] }).log
      { code := 0x800A, step := s.run.lag1.getD 0, detail := leBytes 2 child }).passUp)
  ∧ (∀ (rec : Bytes) (s : State), s.inRun = true → s.run.kind ≠ .none → (0, rec) ∈ s.fab.exch → rec.length = 64 → s.run.record = none →
    s.run.stalled = false →
    exec (.verdictRecordReceived rec) s = .next ((s.withRun { s.run with record := some rec }).endVerdict.noteVerdict rec))
  ∧ (∀ (rec : Bytes) (s s1 s2 s3 : State), s.inRun = true → s.run.kind ≠ .none → (0, rec) ∈ s.fab.exch → rec.length = 64 → s.run.record = none →
    s.run.stalled = true → s.run.missed < 2 → s1 = (s.endVerdict.noteVerdict rec).logStepOnce
      { code := 0x5014, step := (s.endVerdict.noteVerdict rec).verdictStep } →
    s2 = s1.withRun { s1.run with stalled := false, comma := s1.run.comma - s1.run.clause, clause := 0 } → s3 = s2.turnPeriod (some rec) s2.run.periodRef →
    exec (.verdictRecordReceived rec) s = .next (State.catchUp s3.frame.period s3))
  ∧ (∀ (rec : Bytes) (s : State), s.run.stalled = true → 2 ≤ s.run.missed → (0, rec) ∈ s.fab.exch →
    exec (.verdictMissed rec) s = .next ((s.withFab { s.fab with exch := s.fab.exch.erase (0, rec) }).logStepOnce { code := 0x5015, step := s.verdictStep }))

/-! ## Schedule entries -/

/-- Core segments, evaluation slots and their ends (R33, R119, R137, R145, R415): the entry starts on its core at its record's first instruction, and an END
or an exception takes it off again. -/
def Obligations.CoreEntries : Prop :=
  (∀ (idx at' k : Nat) (s0 s : State) (e : EntrySt) (p : Image) (r : Nat × Nat), s = s0.advance at' →
    s.run.entries.find? (fun e => keyPlace e.1 == idx && e.2.entry.cls == clsCore && e.2.state == .ready) = some (k, e) → s.mayStart = true →
    s.blocked k e.entry.target clsCore = false → s.coreFree e.entry.target e.window = true → (e.window, e.step) ∉ (s.core e.entry.target).banned →
    s.dieOff e.entry.target e.window = false → (s.core e.entry.target).prog = some p → p.entries[e.entry.object]? = some r →
    exec (.coreSegment idx at') s0 = .next ((s.startUnit k e.entry.target).startCore e.entry.target
      (entryRun s k e e.entry.target (.training e.entry.lag) s.seed p r.1 r.2)))
  ∧ (∀ (idx core at' k : Nat) (s0 s s1 : State) (e : EntrySt) (v : Eval) (p : Image) (r : Nat × Nat), s = s0.advance at' →
    s.readyKey idx clsEval core = some k → s.entryAt k = some e → s.mayStart = true → s.blocked k core clsCore = false →
    s.coreFree core e.window = true → s.dieOff core e.window = false → s.evalOf e.window = some v → v.image = some p → p.entries[e.entry.object]? = some r →
    s1 = (s.setCore core { s.core core with overlay := placeImage (s.core core).overlay v.loadIndex p.resident }).setEval v.id
      (fun y => { y with version := e.step }) →
    exec (.evaluationSlot idx core at') s0 = .next ((s1.startUnit k core).startCore core
      (entryRun s k e core (.evaluation v.id) v.seed p (v.loadIndex + r.1) r.2)))
  ∧ (∀ (core at' : Nat) (s0 s s1 : State) (e : EntryRun), s = s0.advance at' → (s.core core).entry = some e → e.ended = true →
    s1 = ((s.compareShadow core e).clearEntry core).finishUnit e.tableKey core →
    exec (.entryEnd core at') s0 = .next (if e.isEval then s1.closeEval e.window else s1))
  ∧ (∀ (core at' lag : Nat) (s0 s s1 : State) (e : EntryRun), s = s0.advance at' → (s.core core).entry = some e → e.stopped = true →
    (s.core core).drained = true → e.kind = .training lag →
    s1 = (((s.compareShadow core e).clearEntry core).poisonOwned core).finishUnit e.tableKey core →
    exec (.entryAborted core at') s0
      = .next (((s1.setCore core { s1.core core with banned := (e.window, e.step) :: (s1.core core).banned }).failStep e.step fEntry).failWornCore core))
  ∧ (∀ (core at' i : Nat) (s0 s s1 : State) (e : EntryRun) (x : ExcRecord), s = s0.advance at' → (s.core core).entry = some e → e.stopped = true →
    (s.core core).drained = true → e.kind = .evaluation i → (s.core core).exc = some x →
    s1 = (((s.compareShadow core e).clearEntry core).poisonOwned core).finishUnit e.tableKey core →
    exec (.entryAborted core at') s0 = .next (((s1.failEval i 3 x.code).closeEval e.window).failWornCore core))

/-- What is cleared at the ends of windows (R115, R185, R186, R244, R245): valid bits, staging valid bits, objects, and the drain of pending contributions. -/
def Obligations.WindowEnds : Prop :=
  (∀ (s : State) (q : Pending) (rest : List Pending) (k : Nat), s.mem.adds = q :: rest →
    k = s.mem.adds.foldl (fun a q => min a (q.window * 65536 + q.clause)) (q.window * 65536 + q.clause) → s.segmentsOpen (k / 65536) (k % 65536) = false →
    ∃ v, exec .addOnWriteDrain s = .next v ∧ v.mem.adds = s.mem.adds.filter (fun q => q.window * 65536 + q.clause != k) ∧ v.mem.drained = k + 1
      ∧ v.mem.cells = s.mem.cells ∧ v.cores = s.cores)
  ∧ (∀ s : State, s.inRun = true → s.mem.stagingCleared < s.run.period → s.segmentsOpen s.run.period 65535 = false →
    (∀ q ∈ s.mem.adds, s.run.period < q.window) →
    exec .stagingValidBitsClear s = .next (s.withMem { s.mem with staging := s.mem.staging.clear, stagingCleared := s.run.period }))
  ∧ (∀ (c w : Nat) (s : State), c < 512 → s.inRun = true → w = s.run.period → (s.core c).cleared < w → s.coreDone c w = true →
    exec (.validBitsClear c) s
      = .next ((s.setCore c { s.core c with store := (s.core c).store.clear, overlay := [], cleared := w }).unitToZero w 0 c))
  ∧ (∀ (scope unit w : Nat) (s : State), (scope = 1 ∧ unit < 64 ∨ scope = 2 ∧ unit < 8) → s.inRun = true → w = s.run.period →
    SMap.get 0 s.syncWin (scope * 65536 + unit) < w → (unitCores scope unit).all (fun c => s.coreDone c w) = true → s.fab.signals = [] →
    exec (.objectsReturnToZero scope unit) s = .next ((s.unitToZero w scope unit).withSyncWin (SMap.insert s.syncWin (scope * 65536 + unit) w)))

/-- Optimizer, mirror and checkpoint entries start on their M-dies (R208, R223, R313, R345). -/
def Obligations.JobEntries : Prop :=
  (∀ (idx mdie at' k : Nat) (s0 s s1 : State) (e : EntrySt) (j : Job) (b : Nat) (sums : SMap (List (BitVec 48))), s = s0.advance at' →
    s.mayBegin idx mdie clsOpt k e → SMap.find? s.jobs e.entry.object = some j → (s.pairDie j.pair mdie).holds (e.step - 1) = some b → s.phaseOf k e = 1 →
    sums = s.mem.sums.filter (fun x => ¬ (x.1 / 16 / 1024 = e.entry.object ∧ x.1 % 16 = mdie)) →
    s1 = s.setPairDie j.pair mdie { (s.pairDie j.pair mdie).setBuf (bufOf (s.v0 j.pair) e.step) (.writing e.step) with
      wc := .writing e.step, done := 0, rebuild := none } →
    exec (.optimizerJobPhase idx mdie at') s0 = .next (((s1.withMem { s1.mem with sums := sums }).startUnit k mdie).addRun (newRun k e mdie 1 false)))
  ∧ (∀ (idx mdie at' k : Nat) (s0 s : State) (e : EntrySt) (j : Job), s = s0.advance at' → s.mayBegin idx mdie clsOpt k e →
    SMap.find? s.jobs e.entry.object = some j → (s.pairDie j.pair mdie).holds (e.step - 1) = none →
    exec (.optimizerJobPhase idx mdie at') s0 = .next (s.jobGone k mdie j.pair e.step))
  ∧ (∀ (idx mdie at' k : Nat) (s0 s : State) (e : EntrySt) (j : Job), s = s0.advance at' → s.mayBegin idx mdie clsMirror k e →
    SMap.find? s.jobs e.entry.object = some j → j.pair ∉ s.recov.refreshing →
    exec (.mirrorJobPhase idx mdie at') s0 = .next ((s.startUnit k mdie).addRun (newRun k e mdie (s.phaseOf k e) true)))
  ∧ (∀ (idx mdie at' k : Nat) (s0 s s1 : State) (e : EntrySt), s = s0.advance at' → s.mayBegin idx mdie clsCkpt k e →
    s1 = (s.startUnit k mdie).finishUnit k mdie → s1.ckpt.run = none → exec (.checkpointChunk idx mdie at') s0 = .next s1)
  ∧ (∀ (idx mdie at' k n m : Nat) (s0 s s1 : State) (e : EntrySt) (r : CkptRun), s = s0.advance at' → s.mayBegin idx mdie clsCkpt k e →
    s1 = (s.startUnit k mdie).finishUnit k mdie → s1.ckpt.run = some r → s1.ckpt.policy.limit e.entry.object = some n →
    SMap.find? r.allow mdie = some (some m) →
    exec (.checkpointChunk idx mdie at') s0 = .next (s1.setRun { r with allow := SMap.insert r.allow mdie (some (n + m)) }))

/-- The phases of jobs (R208, R214, R219, R227, R228): a segment whose contributions are complete is worked through; one whose guard unit is unread waits; the
last segment of the last phase leaves the version HELD. -/
def Obligations.JobSegments : Prop :=
  (∀ (idx mdie seg : Nat) (s : State) (r : JobRun) (j : Job) (env : JobEnv) (x : State × Word) (s1 : State),
    s.mem.jobRuns.find? (fun r => keyPlace r.tableKey == idx && r.mdie == mdie && !r.ended && r.stall.isNone) = some r →
    SMap.find? s.jobs r.job = some j → s.inRun = true → r.mirror = false → r.segs = seg → seg < segCount j.n →
    (s.segCounts r.step mdie j.pair seg).contribs = j.expected → env = s.jobEnv r j (((s.pairDie j.pair mdie).holds (r.step - 1)).getD 0) →
    env.last = false → s.guardHit env mdie (s.segElems j.pair j.n mdie seg) = none → s.badRead env (s.segElems j.pair j.n mdie seg) = none →
    x = s.runSegment env mdie ((s.segElems j.pair j.n mdie seg).map (fun i => (i, fFP32.decode (s.mem4 (env.grad + 4 * i))))) →
    s1 = x.1.setRunOf r (fun q => { q with segs := seg + 1, fold := q.fold + x.2 }) →
    exec (.segmentBegin idx mdie seg []) s = .next (s1.sendStream env mdie seg (s.segElems j.pair j.n mdie seg) (keyWindow r.tableKey)))
  ∧ (∀ (idx mdie seg u : Nat) (s : State) (r : JobRun) (j : Job) (env : JobEnv),
    s.mem.jobRuns.find? (fun r => keyPlace r.tableKey == idx && r.mdie == mdie && !r.ended && r.stall.isNone) = some r →
    SMap.find? s.jobs r.job = some j → s.inRun = true → r.mirror = false → r.segs = seg → seg < segCount j.n →
    (s.segCounts r.step mdie j.pair seg).contribs = j.expected → env = s.jobEnv r j (((s.pairDie j.pair mdie).holds (r.step - 1)).getD 0) →
    s.guardHit env mdie (s.segElems j.pair j.n mdie seg) = some u →
    ∃ v, exec (.segmentBegin idx mdie seg []) s = .next v ∧ v.mem.cells = s.mem.cells ∧ v.mem.pairs = s.mem.pairs)
  ∧ (∀ (idx mdie at' : Nat) (s0 s s1 s2 : State) (r : JobRun) (j : Job) (env : JobEnv), s = s0.advance at' →
    s.mem.jobRuns.find? (fun r => keyPlace r.tableKey == idx && r.mdie == mdie && !r.ended) = some r → SMap.find? s.jobs r.job = some j →
    r.segs = segCount j.n → env = s.jobEnv r j (((s.pairDie j.pair mdie).holds (r.step - 1)).getD 0) → env.last = true → r.mirror = false →
    s1 = (s.setRunOf r (fun q => { q with ended := true })).near mdie (fun n => { n with jobsDone := sat32 (n.jobsDone + 1) }) →
    s2 = (s1.setPairDie j.pair mdie { (s1.pairDie j.pair mdie).setBuf (bufOf (s.v0 j.pair) r.step) (.held r.step) with wc := .held r.step }).finishUnit
      r.tableKey mdie →
    exec (.jobPhaseEnd idx mdie at') s0 = .next (if (match s2.entryAt r.tableKey with
      | some e => e.state == .finished
      | none => true) = true then s2.closePhase r j env else s2))

/-- Gradient deliveries (R212 to R215): applied in turn, held while early, made to wait while the gradient before it is in use, discarded as stray; and the
release of one that waited. -/
def Obligations.Deliveries : Prop :=
  (∀ (d : Delivery) (s : State), d ∈ s.mem.outbox → s.inRun = true → s.run.lag0 = some d.step →
    d.ordinal ≤ (s.segCounts d.step d.mdie d.pair d.seg).deliveries → s.gradInUse d.pair d.mdie d.seg (d.step - 1) = false →
    exec (.gradientDelivery d) s = .next ((s.withMem { s.mem with outbox := s.mem.outbox.erase d }).takeDelivery d))
  ∧ (∀ (d : Delivery) (s : State), d ∈ s.mem.outbox → s.inRun = true → s.run.lag0 = some d.step →
    (s.segCounts d.step d.mdie d.pair d.seg).deliveries < d.ordinal → (s.mem.early.filter (fun x => x.mdie == d.mdie)).length < 16 →
    exec (.gradientDelivery d) s = .next (s.withMem { s.mem with outbox := s.mem.outbox.erase d, early := s.mem.early ++ [d] }))
  ∧ (∀ (d : Delivery) (s : State), d ∈ s.mem.outbox → s.inRun = true → s.run.lag0 = some d.step →
    d.ordinal ≤ (s.segCounts d.step d.mdie d.pair d.seg).deliveries → s.gradInUse d.pair d.mdie d.seg (d.step - 1) = true →
    exec (.gradientDelivery d) s
      = .next (s.withMem { s.mem with outbox := s.mem.outbox.erase d, waiting := s.mem.waiting ++ [(d, s.clk.ref)] }))
  ∧ (∀ (d : Delivery) (s : State) (k : Nat), d ∈ s.mem.outbox → s.run.lag0 = some k → k ≠ d.step →
    ∃ v, exec (.gradientDelivery d) s = .next v ∧ (v.stepRec k).strays = (s.stepRec k).strays + 1 ∧ v.mem.cells = s.mem.cells)
  ∧ (∀ (mdie pair seg since : Nat) (d : Delivery) (s : State),
    s.mem.waiting.find? (fun x => x.1.mdie == mdie && x.1.pair == pair && x.1.seg == seg) = some (d, since) →
    s.gradInUse pair mdie seg (d.step - 1) = false →
    exec (.deliveryRelease mdie pair seg) s = .next (((s.withMem { s.mem with waiting := s.mem.waiting.erase (d, since) }).near mdie
      (fun n => { n with holdUs := sat32 (n.holdUs + ceilDiv (s.clk.ref - since) 100) })).takeDelivery d))

/-- WC rebuilds, mirror records and refreshes (R211, R314, R315). -/
def Obligations.MirrorAndRebuild : Prop :=
  (∀ (mdie pair v b : Nat) (s : State) (j : Job), (s.pairDie pair mdie).rebuild = some v → s.pairJob pair = some j → (s.pairDie pair mdie).holds v = some b →
    s.mem.bad = [] →
    exec (.wcRebuildDone mdie pair) s
      = .next ((s.rebuildWc j mdie v b).setPairDie pair mdie { s.pairDie pair mdie with wc := .held v, rebuild := none }))
  ∧ (∀ (rec : Bytes) (s : State) (q : Nat), s.inRun = true → s.recov.partner = some q → rec.length = 32 → s.run.sealed < field rec 8 8 →
    exec (.mirrorDigestRecord rec) s = .next (s.mapStep (field rec 8 8) (fun r => { r with partner := r.partner ++ [rec] })))
  ∧ (∀ (pair version : Nat) (planes : Bytes) (fold : Word) (s s1 : State) (j : Job), s.pairJob pair = some j → pair ∈ s.recov.refreshing →
    planes.length = 14 * j.n + 4 * j.factorCount → s.mem.bad = [] → s1 = s.writeShard j (s.regionBase j.mirror) (s.regionBase j.factor + factorSec j 2) planes →
    s1.shardFold j version (s.regionBase j.mirror) (s.regionBase j.factor + factorSec j 2) = fold →
    ∃ v, exec (.mirrorRefresh pair version planes fold) s = .next v ∧ SMap.find? v.recov.mirror pair = some (.held version) ∧ v.mem.cells = s1.mem.cells)
  ∧ (∀ (pair version : Nat) (planes : Bytes) (fold : Word) (s s1 : State) (j : Job), s.pairJob pair = some j → pair ∈ s.recov.refreshing →
    planes.length = 14 * j.n + 4 * j.factorCount → s1 = s.writeShard j (s.regionBase j.mirror) (s.regionBase j.factor + factorSec j 2) planes →
    s1.shardFold j version (s.regionBase j.mirror) (s.regionBase j.factor + factorSec j 2) ≠ fold →
    ∃ v, exec (.mirrorRefresh pair version planes fold) s = .next v ∧ SMap.find? v.recov.mirror pair = some .stale ∧ v.mem.cells = s1.mem.cells)

/-- Collectives (R31, R273 to R276): the entry starts, each contributor whose ready object has reached its target is read, and the outputs are written and the
done object signalled once everything has arrived. -/
def Obligations.CollectiveEvents : Prop :=
  (∀ (idx at' k : Nat) (s0 s : State) (e : EntrySt) (d : CollDesc), s = s0.advance at' →
    s.run.entries.find? (fun e => keyPlace e.1 == idx && e.2.entry.cls == clsColl && e.2.state == .ready) = some (k, e) →
    s.fab.axis.bind (fun x => x.colls[e.entry.object]?) = some d → s.mayStart = true → s.blocked k e.entry.target clsColl = false → s.fab.early = [] →
    exec (.collective idx at') s0 = .next ((s.startUnit k e.entry.target).setColl k
      { desc := d, step := e.step, window := e.window, lag := e.entry.lag, reads := [], ins := [], parts := [], sent2 := false, dead := false, offs := [] }))
  ∧ (∀ (idx n k : Nat) (s : State) (r r1 : CollRun) (c : Contrib) (e : EntrySt) (tn : Desc), s.collAt idx = some (k, r) →
    s.fab.axis.bind (fun x => x.contribs[r.desc.first + n]?) = some c → s.entryAt k = some e → n < r.desc.count → SMap.find? r.reads n = none →
    r.desc.kind ≠ 4 → (s.obj (objKey 2 c.die c.ready)).poisoned = false → r.desc.target ≤ (s.obj (objKey 2 c.die c.ready)).value → s.mem.badStore = [] →
    tn = collTensor (s.collFormat r r.desc.inFmt).1 (s.collFormat r r.desc.inFmt).2 c.base r.desc.share 0 r.desc →
    r1 = { r with reads := SMap.insert r.reads n ((elems 0 r.desc.share).map (fun i => encA48 (s.elemValue (.cluster (c.die * 8 + c.cluster)) tn i))) } →
    exec (.contributorRead idx n) s = .next (if r1.reads.length < r.desc.count then s.setColl k r1 else s.spread k r1 e.entry.object r1.moduleValue))
  ∧ (∀ (idx at' k n p : Nat) (s0 s s1 s2 : State) (r : CollRun) (e : EntrySt) (out : List (BitVec 48)), s = s0.advance at' → s.collAt idx = some (k, r) →
    s.collOpen k = false → s.statsJobs k r = [] → n = (s.axisOf r.desc.axis).size → p = (s.axisOf r.desc.axis).pos s.rank → s.collOut r n p = some out →
    s.entryAt k = some e →
    s1 = (if r.desc.dest = 2 then s.withMem { s.mem with outbox := s.mem.outbox ++ s.deliveriesOf idx r n p out } else s.writeOutput r out) →
    s2 = (s1.signalDone r.step r.desc).countLast r →
    exec (.collectiveDone idx [] at') s0 = .next ((s2.withFab { s2.fab with colls := SMap.erase s2.fab.colls k }).finishUnit k e.entry.target))

/-! ## Core instructions -/

/-- The scalar instructions (R123): arithmetic modulo 2^64, shifts, comparisons, minima and maxima, LUI and the address-register instructions; each writes
its destination, and the sequential successor is next. -/
def Obligations.ScalarInstructions : Prop :=
  (
    ∀ (c : Nat) (x : ScalarOp) (e : EntryRun) (w : Word) (s : State) (k : Core) (a b : Word), k = s.core c → a = k.s x.a →
      b = (if x.imm then x.imm32.signExtend 64 else k.s x.b) →
      (s.offers c (.add c x) e w → exec (.add c x) s = .next (s.leaves c (k.setS x.d (a + b))))
      ∧ (s.offers c (.sub c x) e w → exec (.sub c x) s = .next (s.leaves c (k.setS x.d (a - b))))
      ∧ (s.offers c (.mul c x) e w → exec (.mul c x) s = .next (s.leaves c (k.setS x.d (a * b))))
      ∧ (s.offers c (.andOp c x) e w → exec (.andOp c x) s = .next (s.leaves c (k.setS x.d (a &&& b))))
      ∧ (s.offers c (.orOp c x) e w → exec (.orOp c x) s = .next (s.leaves c (k.setS x.d (a ||| b))))
      ∧ (s.offers c (.xor c x) e w → exec (.xor c x) s = .next (s.leaves c (k.setS x.d (a ^^^ b))))
      ∧ (s.offers c (.shl c x) e w → exec (.shl c x) s = .next (s.leaves c (k.setS x.d (a <<< (b.toNat % 64)))))
      ∧ (s.offers c (.shr c x) e w → exec (.shr c x) s = .next (s.leaves c (k.setS x.d (a >>> (b.toNat % 64)))))
      ∧ (s.offers c (.sra c x) e w → exec (.sra c x) s = .next (s.leaves c (k.setS x.d (a.sshiftRight (b.toNat % 64))))))
  ∧ (
    ∀ (c : Nat) (x : ScalarOp) (e : EntryRun) (w : Word) (s : State) (k : Core) (a b : Word), k = s.core c → a = k.s x.a →
      b = (if x.imm then x.imm32.signExtend 64 else k.s x.b) →
      (s.offers c (.minOp c x) e w → exec (.minOp c x) s = .next (s.leaves c (k.setS x.d (if a.toInt < b.toInt then a else b))))
      ∧ (s.offers c (.maxOp c x) e w → exec (.maxOp c x) s = .next (s.leaves c (k.setS x.d (if a.toInt < b.toInt then b else a))))
      ∧ (s.offers c (.seq c x) e w → exec (.seq c x) s = .next (s.leaves c (k.setS x.d (if a = b then 1 else 0))))
      ∧ (s.offers c (.slt c x) e w → exec (.slt c x) s = .next (s.leaves c (k.setS x.d (if a.toInt < b.toInt then 1 else 0))))
      ∧ (s.offers c (.sltu c x) e w → exec (.sltu c x) s = .next (s.leaves c (k.setS x.d (if a.toNat < b.toNat then 1 else 0))))
      ∧ (s.offers c (.lui c x) e w → exec (.lui c x) s = .next (s.leaves c (k.setS x.d (x.imm32 ++ a.setWidth 32))))
      ∧ (s.offers c (.adda c x) e w → exec (.adda c x) s = .next (s.leaves c (k.setA (x.d.setWidth 4) (k.a (x.a.setWidth 4) + b))))
      ∧ (s.offers c (.mova c x) e w → exec (.mova c x) s = .next (s.leaves c (k.setA (x.d.setWidth 4) a)))
      ∧ (s.offers c (.movs c x) e w → exec (.movs c x) s = .next (s.leaves c (k.setS x.d (k.a (x.a.setWidth 4))))))

/-- What a scalar instruction leaves unchanged (R119, R123), over all eighteen of them: in the next state s0 still reads zero; every scalar and address
register but the destination, the lane registers, masks, descriptors, accumulators, the numeric status word and the exception record of the core
are as they were; every other core, every byte of memory and every sync object is as it was. -/
def Obligations.ScalarFrame : Prop :=
  ∀ (i : Instr) (c : Nat) (x : ScalarOp) (e : EntryRun) (w : Word) (s t : State),
    i ∈ [.add c x, .sub c x, .mul c x, .andOp c x, .orOp c x, .xor c x, .shl c x, .shr c x, .sra c x, .minOp c x, .maxOp c x, .seq c x, .slt c x, .sltu c x,
         .lui c x, .adda c x, .mova c x, .movs c x] → s.offers c i e w → exec i s = .next t →
    (t.core c).s 0 = 0
    ∧ (∀ r, (r ≠ x.d ∨ i = .adda c x ∨ i = .mova c x) → (t.core c).s r = (s.core c).s r)
    ∧ (∀ r, (r ≠ x.d.setWidth 4 ∨ ¬ (i = .adda c x ∨ i = .mova c x)) → (t.core c).a r = (s.core c).a r)
    ∧ (t.core c).vregs = (s.core c).vregs ∧ (t.core c).masks = (s.core c).masks ∧ (t.core c).descs = (s.core c).descs ∧ (t.core c).acc = (s.core c).acc
    ∧ (t.core c).status = (s.core c).status ∧ (t.core c).first = (s.core c).first ∧ (t.core c).exc = (s.core c).exc ∧ (t.core c).store = (s.core c).store
    ∧ (∀ d, d ≠ c → t.core d = s.core d) ∧ t.mem = s.mem ∧ t.sync = s.sync ∧ t.pending = s.pending

/-- LOOP runs its body count times, LIDX writes the iteration index of a level, and BREAK leaves the innermost loop (R124): LOOP opens a level of that many
iterations over the body that follows it; reaching the end of the body starts the next iteration until all have run; a count of zero goes on after
the body; BREAK goes on after the body of the innermost loop, closing the iterations of outer loops that end there. -/
def Obligations.Loops : Prop :=
  (∀ (c n : Nat) (x : LoopOp) (e : EntryRun) (w : Word) (s : State) (k : Core), k = s.core c → s.offers c (.loopStart c x) e w →
    n = (if x.imm then x.count.toNat else (k.s x.cnt).toNat % 2 ^ 32) → k.loops.length < 4 → n ≠ 0 →
    exec (.loopStart c x) s = .next (s.jumps c { k with loops := { count := n, index := 0, start := e.pc + 1, stop := e.pc + 1 + x.len.toNat } :: k.loops }
      (e.pc + 1)))
  ∧ (∀ (c : Nat) (x : LoopOp) (e : EntryRun) (w : Word) (s : State) (k : Core), k = s.core c → s.offers c (.loopStart c x) e w →
    (if x.imm then x.count.toNat else (k.s x.cnt).toNat % 2 ^ 32) = 0 → k.loops.length < 4 →
    exec (.loopStart c x) s = .next (s.jumps c { k with loops := (settle k.loops (e.pc + 1 + x.len.toNat)).1 } (settle k.loops (e.pc + 1 + x.len.toNat)).2))
  ∧ (∀ (l : LoopLevel) (ls : List LoopLevel) (pc : Nat), pc ≠ l.stop → settle (l :: ls) pc = (l :: ls, pc))
  ∧ (∀ (l : LoopLevel) (ls : List LoopLevel), l.index + 1 < l.count → settle (l :: ls) l.stop = ({ l with index := l.index + 1 } :: ls, l.start))
  ∧ (∀ (l : LoopLevel) (ls : List LoopLevel), l.count ≤ l.index + 1 → settle (l :: ls) l.stop = settle ls l.stop)
  ∧ (∀ (c : Nat) (d : BitVec 5) (v : BitVec 2) (e : EntryRun) (w : Word) (s : State) (l : LoopLevel), s.offers c (.lidx c d v) e w →
    (s.core c).loops[v.toNat]? = some l → exec (.lidx c d v) s = .next (s.leaves c ((s.core c).setS d (BitVec.ofNat 64 l.index))))
  ∧ (∀ (c : Nat) (e : EntryRun) (w : Word) (s : State) (l : LoopLevel) (ls : List LoopLevel), s.offers c (.breakLoop c) e w → (s.core c).loops = l :: ls →
    exec (.breakLoop c) s = .next (s.jumps c { s.core c with loops := (settle ls l.stop).1 } (settle ls l.stop).2))

/-- BR, JMP, CALL and RET (R124, R125): a taken branch goes to its target inside the innermost loop's body, a branch not taken goes on, CALL stacks the
return and RET takes it. -/
def Obligations.Branches : Prop :=
  (∀ (c t : Nat) (x : BranchOp) (e : EntryRun) (w : Word) (s : State) (k : Core), k = s.core c → s.offers c (.br c x) e w →
    branchTaken x.cond (k.s x.a) (k.s x.b) = true → (t : Int) = e.pc + x.off.toInt → (∀ l, k.loops.head? = some l → l.start ≤ t ∧ t < l.stop) →
    ∃ u, exec (.br c x) s = .next u ∧ (u.core c).entry = some { e with issued := e.issued + 1, pc := t } ∧ (u.core c).loops = k.loops)
  ∧ (∀ (c : Nat) (x : BranchOp) (e : EntryRun) (w : Word) (s : State), s.offers c (.br c x) e w →
    branchTaken x.cond ((s.core c).s x.a) ((s.core c).s x.b) = false → exec (.br c x) s = .next (s.retired c))
  ∧ (∀ (cond : BitVec 3) (a b : Word), branchTaken cond a b = (if cond = 0 then decide (a = b) else if cond = 1 then decide (a ≠ b)
      else if cond = 2 then decide (a.toInt < b.toInt) else if cond = 3 then decide (b.toInt ≤ a.toInt) else if cond = 4 then decide (a.toNat < b.toNat)
      else decide (b.toNat ≤ a.toNat)))
  ∧ (∀ (c t : Nat) (off : BitVec 14) (e : EntryRun) (w : Word) (s : State), s.offers c (.jmp c off) e w → (t : Int) = e.pc + off.toInt →
    (∀ l, (s.core c).loops.head? = some l → l.start ≤ t ∧ t < l.stop) →
    ∃ u, exec (.jmp c off) s = .next u ∧ (u.core c).entry = some { e with issued := e.issued + 1, pc := t } ∧ (u.core c).loops = (s.core c).loops)
  ∧ (∀ (c : Nat) (target : BitVec 13) (e : EntryRun) (w : Word) (s : State) (k : Core), k = s.core c → s.offers c (.callSub c target) e w →
    k.calls.length < 8 → exec (.callSub c target) s
      = .next (s.jumps c { k with calls := { index := e.pc + 1, loops := k.loops.length } :: k.calls } target.toNat))
  ∧ (∀ (c : Nat) (e : EntryRun) (w : Word) (s : State) (k : Core) (r : Return) (rs : List Return), k = s.core c → s.offers c (.retSub c) e w →
    k.calls = r :: rs → k.loops.length ≤ r.loops →
    exec (.retSub c) s = .next (s.jumps c { k with calls := rs, loops := (settle k.loops r.index).1 } (settle k.loops r.index).2))

/-- Where the sequencer stops an entry (R125, R144 to R146): the instruction limit, an index with no instruction, a fifth loop, a loop or a branch out of
place, a ninth or a missing return, and a bad WAIT or SIG handle each raise their exception, which stops the entry. -/
def Obligations.SequencerExceptions : Prop :=
  (∀ (c : Nat) (e : EntryRun) (s : State) (d : BitVec 5), c < 512 → (s.core c).entry = some e → e.stopped = false → e.ended = false → (s.core c).wait = none →
    e.limit ≠ 0 → e.limit ≤ e.issued →
    exec (.statRd c d) s = .next (s.raiseExc c e 0x11 0 e.issued (((s.core c).word e.pc).getD 0)))
  ∧ (∀ (c : Nat) (e : EntryRun) (s : State) (d : BitVec 5), c < 512 → (s.core c).entry = some e → e.stopped = false → e.ended = false → (s.core c).wait = none →
    (e.limit = 0 ∨ e.issued < e.limit) → (s.core c).word e.pc = none → exec (.statRd c d) s = .next (s.raiseExc c e 0x0C 0 e.issued 0))
  ∧ (∀ (c : Nat) (x : LoopOp) (e : EntryRun) (w : Word) (s : State), s.offers c (.loopStart c x) e w → 4 ≤ (s.core c).loops.length →
    exec (.loopStart c x) s = .next (s.raiseExc c e 0x0D 0 e.issued w))
  ∧ (∀ (c : Nat) (d : BitVec 5) (v : BitVec 2) (e : EntryRun) (w : Word) (s : State), s.offers c (.lidx c d v) e w → (s.core c).loops.length ≤ v.toNat →
    exec (.lidx c d v) s = .next (s.raiseExc c e 0x0E 0 e.issued w))
  ∧ (∀ (c : Nat) (off : BitVec 14) (e : EntryRun) (w : Word) (s : State) (l : LoopLevel) (ls : List LoopLevel), s.offers c (.jmp c off) e w →
    (s.core c).loops = l :: ls → ¬ ((l.start : Int) ≤ e.pc + off.toInt ∧ (e.pc : Int) + off.toInt < l.stop) →
    exec (.jmp c off) s = .next (s.raiseExc c e 0x0E 0 e.issued w))
  ∧ (∀ (c : Nat) (target : BitVec 13) (e : EntryRun) (w : Word) (s : State), s.offers c (.callSub c target) e w → 8 ≤ (s.core c).calls.length →
    exec (.callSub c target) s = .next (s.raiseExc c e 0x0F 0 e.issued w))
  ∧ (∀ (c : Nat) (e : EntryRun) (w : Word) (s : State), s.offers c (.retSub c) e w → (s.core c).calls = [] →
    exec (.retSub c) s = .next (s.raiseExc c e 0x0F 0 e.issued w))
  ∧ (∀ (c : Nat) (e : EntryRun) (w : Word) (s : State) (r : Return) (rs : List Return), s.offers c (.retSub c) e w → (s.core c).calls = r :: rs →
    r.loops < (s.core c).loops.length → exec (.retSub c) s = .next (s.raiseExc c e 0x0E 0 e.issued w))
  ∧ (∀ (c : Nat) (x : WaitOp) (e : EntryRun) (w : Word) (s : State), s.offers c (.wait c x) e w → (x.sleep = false ∨ (s.core c).drained = true) →
    s.resolveHandle c (((s.core c).s x.reg).toNat % 2 ^ 32) = none →
    exec (.wait c x) s = .next (s.raiseExc c e 0x15 (((s.core c).s x.reg).toNat % 2 ^ 32) e.issued w))
  ∧ (∀ (c : Nat) (x : SigOp) (e : EntryRun) (w : Word) (s : State), s.offers c (.sig c x) e w → (s.core c).drained = true →
    s.resolveHandle c (if x.imm then x.handle.toNat else ((s.core c).s x.reg).toNat % 2 ^ 32) = none →
    exec (.sig c x) s = .next (s.raiseExc c e 0x15 (if x.imm then x.handle.toNat else ((s.core c).s x.reg).toNat % 2 ^ 32) e.issued w))

/-- An exception stops its entry and leaves a record (R145, R146): the entry is stopped at its instruction, a WAIT ends, the record of a core that held none
names the code, the class, the clause, the instruction's index and word, the step, the core, the entry and the detail; registers, descriptors and
memory stand. -/
def Obligations.ExceptionRecord : Prop :=
  ∀ (c : Nat) (e : EntryRun) (code detail index : Nat) (w : Word) (s t : State), code < 256 → (s.core c).exc = none → t = s.raiseExc c e code detail index w →
    (∃ e', (t.core c).entry = some e' ∧ e'.stopped = true ∧ e'.pc = e.pc ∧ e'.issued = e.issued) ∧ (t.core c).wait = none
    ∧ (∃ r, (t.core c).exc = some r ∧ r.code = code ∧ r.cls = w.toNat / 2 ^ 60 ∧ r.clause = e.clause ∧ r.index = index ∧ r.word = w ∧ r.step = e.step ∧ r.core = c
        ∧ r.entry = e.object ∧ r.detail = detail % 2 ^ 32 ∧ r.window = e.window ∧ r.sregs = (s.core c).sregs ∧ r.aregs = (s.core c).aregs
        ∧ r.loops = (s.core c).loops ∧ r.calls = (s.core c).calls)
    ∧ (t.core c).sregs = (s.core c).sregs ∧ (t.core c).aregs = (s.core c).aregs ∧ (t.core c).descs = (s.core c).descs ∧ t.mem.cells = s.mem.cells

/-- LD, LDADD, LDZERO, their completion, DSET and DRST (R128 to R130, R186): a transfer between like tensors copies codes, any other decodes and stores each
element; LDADD leaves one pending contribution for each element; LDZERO writes zeros; a completion frees the queue place. -/
def Obligations.LoadInstructions : Prop :=
  (∀ (c : Nat) (x : LoadOp) (e : EntryRun) (w : Word) (s : State) (k : Core) (d r : Desc) (pd ps : Place) (q : LoadRun) (key : Option Nat) (is : List Nat), k = s.core c →
    s.offers c (.ld c x) e w → d = Desc.parse (k.desc x.dst.toNat) → r = Desc.parse (k.desc x.src.toNat) →
    loadHeld k x.dst.toNat (some x.src.toNat) = false → d.e0 = r.e0 → d.e1 = r.e1 → d.e2 = r.e2 → d.e3 = r.e3 → is = elems 0 d.count →
    destCheck s c e x.dst.toNat d (k.a x.dstRow).toNat = .ok pd → srcCheck s c e x.src.toNat r (k.a x.srcRow).toNat = .ok ps →
    completionKey s c x.signal (k.s x.handle) = .ok key → pendingBefore s e ps (r.move (k.a x.srcRow).toNat) is = false → s.checkElems ps (r.move (k.a x.srcRow).toNat) is = .ok () →
    q = { dst := x.dst.toNat, src := some x.src.toNat, index := e.issued, space := pd.unit, lines := tensorLines (d.move (k.a x.dstRow).toNat) is,
          signal := key, word := w } →
    (sameCodes r d ps pd = true →
      exec (.ld c x) s = .next ((((is.foldl (copyElem s ps pd (r.move (k.a x.srcRow).toNat) (d.move (k.a x.dstRow).toNat))
        ((s.recastCharge ps (r.move (k.a x.srcRow).toNat) e is).countFallback ps (r.move (k.a x.srcRow).toNat) is)).pushLoad c q).digestLines
          c d.space pd q.lines).retired c))
    ∧ (∀ u : State, sameCodes r d ps pd = false →
      ((s.recastCharge ps (r.move (k.a x.srcRow).toNat) e is).countFallback ps (r.move (k.a x.srcRow).toNat) is).storeItems c e pd
        (d.move (k.a x.dstRow).toNat) 2 r.tid 0 e.issued
        (is.map (fun i => { i := i, v := s.elemValue ps (r.move (k.a x.srcRow).toNat) i, idx := (k.a x.dstRow).toNat * d.e0 + i })) = .ok u →
      ∃ v : State, exec (.ld c x) s = .next (v.retired c) ∧ v.mem.cells = u.mem.cells ∧ (v.core c).store = (u.core c).store))
  ∧ (∀ (c : Nat) (x : LoadOp) (e : EntryRun) (w : Word) (s : State) (k : Core) (d r : Desc) (pd ps : Place) (key : Option Nat) (is : List Nat), k = s.core c →
    s.offers c (.ldadd c x) e w → d = Desc.parse (k.desc x.dst.toNat) → r = Desc.parse (k.desc x.src.toNat) →
    loadHeld k x.dst.toNat (some x.src.toNat) = false → d.space = 3 → d.fmt = .a48 → d.e0 = r.e0 → d.e1 = r.e1 → d.e2 = r.e2 → d.e3 = r.e3 →
    is = elems 0 d.count → destCheck s c e x.dst.toNat d (k.a x.dstRow).toNat = .ok pd → srcCheck s c e x.src.toNat r (k.a x.srcRow).toNat = .ok ps →
    completionKey s c x.signal (k.s x.handle) = .ok key → pendingBefore s e ps (r.move (k.a x.srcRow).toNat) is = false →
    s.checkElems ps (r.move (k.a x.srcRow).toNat) is = .ok () → s.mem.adds = [] → is.length ≤ 17825792 →
    ∃ v, exec (.ldadd c x) s = .next v ∧ v.mem.cells = s.mem.cells ∧ v.mem.adds = is.map (fun i =>
      { window := e.window, clause := e.clause, core := c, place := e.place, ldadd := e.ldadds, index := i,
        sa := (d.move (k.a x.dstRow).toNat).addr i, value := encA48 (s.elemValue ps (r.move (k.a x.srcRow).toNat) i), step := e.step }))
  ∧ (∀ (c : Nat) (x : ZeroOp) (e : EntryRun) (w : Word) (s u v : State) (k : Core) (d : Desc) (pd : Place) (q : LoadRun) (key : Option Nat) (is : List Nat),
    k = s.core c → s.offers c (.ldzero c x) e w → d = Desc.parse (k.desc x.dst.toNat) → loadHeld k x.dst.toNat none = false → is = elems 0 d.count →
    completionKey s c x.signal (k.s x.handle) = .ok key → destCheck s c e x.dst.toNat d (k.a x.dstRow).toNat = .ok pd →
    v = (is.flatMap (d.move (k.a x.dstRow).toNat).spans).foldl (fun q sp => q.writePlace pd sp.1 (zeros sp.2)) s →
    u = (match pd with
      | .recast b _ => v.withMem { v.mem with recast := is.foldl (fun m i => SMap.insert m (b + (d.move (k.a x.dstRow).toNat).addr i) (0, 0)) v.mem.recast }
      | _ => v) →
    q = { dst := x.dst.toNat, src := none, index := e.issued, space := pd.unit, lines := tensorLines (d.move (k.a x.dstRow).toNat) is, signal := key, word := w } →
    exec (.ldzero c x) s = .next (((u.pushLoad c q).digestLines c d.space pd q.lines).retired c))
  ∧ (∀ (c : Nat) (s : State) (l : LoadRun) (rest : List LoadRun), (s.core c).loadQ = l :: rest → l.signal = none →
    exec (.loadTransferComplete c) s = .next (s.setCore c { s.core c with loadQ := rest }))
  ∧ (∀ (c key : Nat) (s : State) (e : EntryRun) (l : LoadRun) (rest : List LoadRun), (s.core c).loadQ = l :: rest → l.signal = some key →
    (s.core c).entry = some e → ∃ t, exec (.loadTransferComplete c) s = .next t ∧ (t.core c).loadQ = rest ∧ (t.core c).sigQ = (s.core c).sigQ
      ++ [{ key := key, remote := false, count := 1, index := l.index, handle := objHandle key, load := true, dyn := true, word := l.word }])
  ∧ (∀ (c : Nat) (desc : BitVec 6) (fld : BitVec 4) (src : BitVec 5) (e : EntryRun) (w : Word) (s : State) (k : Core) (b : Bytes), k = s.core c →
    s.offers c (.dset c desc fld src) e w → descBusy k desc.toNat = false →
    b = (k.desc desc.toNat).take (dsetField fld.toNat).1 ++ leBytes (dsetField fld.toNat).2 (k.s src).toNat
      ++ (k.desc desc.toNat).drop ((dsetField fld.toNat).1 + (dsetField fld.toNat).2) → descFault b = none →
    (fld.toNat = 7 → ((Desc.parse b).space = 4 ∨ (Desc.parse b).space = 5) → s.regionAllowed (Desc.parse b).space (Desc.parse b).region = true) →
    exec (.dset c desc fld src) s = .next (s.leaves c { k with descs := SMap.insert k.descs desc.toNat b }))
  ∧ (∀ (c : Nat) (desc : BitVec 6) (fld : BitVec 4) (src : BitVec 5) (e : EntryRun) (w : Word) (s : State) (k : Core), k = s.core c →
    s.offers c (.dset c desc fld src) e w → descBusy k desc.toNat = false →
    (descFault ((k.desc desc.toNat).take (dsetField fld.toNat).1 ++ leBytes (dsetField fld.toNat).2 (k.s src).toNat
      ++ (k.desc desc.toNat).drop ((dsetField fld.toNat).1 + (dsetField fld.toNat).2))).isSome = true →
    exec (.dset c desc fld src) s = .next (s.raiseExc c e 0x0B desc.toNat e.issued w))
  ∧ (∀ (c : Nat) (desc : BitVec 6) (e : EntryRun) (w : Word) (s : State) (k : Core), k = s.core c → s.offers c (.drst c desc) e w →
    descBusy k desc.toNat = false → exec (.drst c desc) s
      = .next (s.leaves c { k with descs := SMap.insert k.descs desc.toNat (s.managedDesc e (e.image.descs.getD desc.toNat (zeros 64))) }))

/-- MM, its completion and its output conversion (R73 to R78, R85): every element of the product is the reference value of its row and column, the half
closes when K is not a multiple of 32, and the completion writes the output tensor and keeps the half. A MM that continues a closed half
raises K_ALIGN. -/
def Obligations.MatrixInstructions : Prop :=
  (∀ (c : Nat) (x : MatOp) (e : EntryRun) (w : Word) (s : State) (k : Core) (q : MatShape), k = s.core c → s.offers c (.mm c x) e w → q = matShape x k →
    matHeld k x = false → matCheck s c x k q = none → s.checkElems (.own c) q.a (q.aAll x) = .ok () → s.checkElems (.own c) q.b (q.bAll x) = .ok () →
    (x.mode.extractLsb' 4 2 = 2 → s.checkElems (.own c) q.c (elems 0 q.c.count) = .ok ()) →
    ∃ t, exec (.mm c x) s = .next t
      ∧ (∀ m n, m < q.m → n < q.n → (t.core c).accAt (x.mode.getLsbD 7) m n = encA48 (matElem s c x q k m n).value)
      ∧ (∀ h m n, m < 256 → n < 64 → (h ≠ x.mode.getLsbD 7 ∨ q.m ≤ m ∨ q.n ≤ n) → (t.core c).accAt h m n = k.accAt h m n)
      ∧ (t.core c).closedRows (x.mode.getLsbD 7) = closedAfter (k.closedRows (x.mode.getLsbD 7)) (x.mode.extractLsb' 4 2).toNat q.k
      ∧ (t.core c).matQ.length = k.matQ.length + 1 ∧ (t.core c).sregs = k.sregs ∧ (t.core c).store = k.store ∧ t.mem.cells = s.mem.cells)
  ∧ (∀ (c : Nat) (x : MatOp) (e : EntryRun) (w : Word) (s : State) (k : Core) (q : MatShape), k = s.core c → s.offers c (.mm c x) e w → q = matShape x k →
    matHeld k x = false → matCheck s c x k q = some (0x04, 0) → exec (.mm c x) s = .next (s.raiseExc c e 0x04 0 e.issued w))
  ∧ (∀ (c : Nat) (e : EntryRun) (s u : State) (m : MatRun) (rest : List MatRun), (s.core c).matQ = m :: rest → (s.core c).entry = some e → m.converts = true →
    (s.setCore c { s.core c with matQ := rest }).storeItems c e (.own c) (Desc.parse m.outDesc) 0 m.aId m.bId m.index
      ((grid m.rows m.cols).map (fun p => { i := p.2 + (Desc.parse m.outDesc).e0 * p.1, v := decA48 ((s.core c).accAt m.half p.1 p.2).toNat,
                                            idx := p.2 + (Desc.parse m.outDesc).e0 * p.1 })) = .ok u →
    exec (.matrixOutputConversion c) s = .next u)
  ∧ (∀ (c : Nat) (s : State) (m : MatRun) (rest : List MatRun), (s.core c).matQ = m :: rest → m.converts = false →
    exec (.matrixInstructionComplete c) s = .next (s.setCore c { s.core c with matQ := rest }))

/-- The lane instructions (R92, R93, R95, R104, R132, R133): every lane that its mask leaves on takes the operation on its own operands, with the events it
raises; a compare writes its mask, VEXTR a scalar register, and VRAND a draw keyed by seed, step, tensor, stream, index and lane. -/
def Obligations.LaneInstructions : Prop :=
  (
    ∀ (c : Nat) (x : VecOp) (e : EntryRun) (w : Word) (s : State) (em : Bool) (a b d : Core → Nat → Val) (run : (Core → Nat → LaneOut) → Host.Outcome State Fault Refusal),
      em = s.num.emu → a = (fun k l => decFP32 (k.lane x.va l)) → b = (fun k l => decFP32 (k.lane x.vb l)) → d = (fun k l => decFP32 (k.lane x.vc l)) →
      run = (fun f => .next (s.laneDone c e x.vd x.mask (fun k l => (encFP32 (f k l).1, (f k l).2)))) →
      (s.offers c (.vadd c x) e w → exec (.vadd c x) s = run (fun k l => lAdd em (a k l) (b k l)))
      ∧ (s.offers c (.vsub c x) e w → exec (.vsub c x) s = run (fun k l => lSub em (a k l) (b k l)))
      ∧ (s.offers c (.vmul c x) e w → exec (.vmul c x) s = run (fun k l => lMul em (a k l) (b k l)))
      ∧ (s.offers c (.vfma c x) e w → exec (.vfma c x) s = run (fun k l => lFma em (a k l) (b k l) (d k l)))
      ∧ (s.offers c (.vmin c x) e w → exec (.vmin c x) s = run (fun k l => flushLane em (vMin (a k l) (b k l))))
      ∧ (s.offers c (.vmax c x) e w → exec (.vmax c x) s = run (fun k l => flushLane em (vMax (a k l) (b k l))))
      ∧ (s.offers c (.vabs c x) e w → exec (.vabs c x) s = run (fun k l => flushLane em (vAbs (a k l))))
      ∧ (s.offers c (.vneg c x) e w → exec (.vneg c x) s = run (fun k l => flushLane em (vNeg (a k l))))
      ∧ (s.offers c (.vrcp c x) e w → exec (.vrcp c x) s = run (fun k l => lRcp em (a k l)))
      ∧ (s.offers c (.vrsq c x) e w → exec (.vrsq c x) s = run (fun k l => lRsq em (a k l)))
      ∧ (s.offers c (.vexp2 c x) e w → exec (.vexp2 c x) s = run (fun k l => lExp2 em (a k l)))
      ∧ (s.offers c (.vlog2 c x) e w → exec (.vlog2 c x) s = run (fun k l => lLog2 em (a k l)))
      ∧ (s.offers c (.vexp c x) e w → exec (.vexp c x) s = run (fun k l => lExp em (a k l)))
      ∧ (s.offers c (.vlog c x) e w → exec (.vlog c x) s = run (fun k l => lLog em (a k l)))
      ∧ (s.offers c (.vsexp c x) e w → exec (.vsexp c x) s = run (fun k l => lSexp em (a k l) (b k l))))
  ∧ (
    (∀ (c : Nat) (x : VecOp) (e : EntryRun) (w : Word) (s : State) (k : Core), k = s.core c →
      (s.offers c (.vcmpeq c x) e w → exec (.vcmpeq c x) s = .next (s.leaves c (cmpMask k x vEq)))
      ∧ (s.offers c (.vcmplt c x) e w → exec (.vcmplt c x) s = .next (s.leaves c (cmpMask k x vLt)))
      ∧ (s.offers c (.vcmple c x) e w → exec (.vcmple c x) s = .next (s.leaves c (cmpMask k x (fun a b => vLt a b || vEq a b))))
      ∧ (s.offers c (.vsel c x) e w → exec (.vsel c x) s = .next (s.laneDone c e x.vd x.mask
          (fun k l => (if (k.mask (x.vc.setWidth 2)).getLsbD l then k.lane x.va l else k.lane x.vb l, []))))
      ∧ (s.offers c (.vbcast c x) e w → exec (.vbcast c x) s = .next (s.laneDone c e x.vd x.mask (fun k _ => ((k.s x.sr).setWidth 32, []))))
      ∧ (s.offers c (.vextr c x) e w → exec (.vextr c x) s = .next (s.leaves c (k.setS x.sr ((k.lane x.va x.lane.toNat).setWidth 64))))
      ∧ (s.offers c (.vu2f c x) e w → exec (.vu2f c x) s = .next (s.laneDone c e x.vd x.mask
          (fun k l => (encFP32 (.fin false ((k.lane x.va l).toNat / 256) (-24)), [])))))
    ∧ (∀ (k : Core) (x : VecOp) (f : Val → Val → Bool) (l : Nat), l < 128 →
      ((cmpMask k x f).mask (x.vd.setWidth 2)).getLsbD l
        = (if (k.mask x.mask).getLsbD l then f (decFP32 (k.lane x.va l)) (decFP32 (k.lane x.vb l)) else (k.mask (x.vd.setWidth 2)).getLsbD l)
          ∨ (x.vd.setWidth 2 : BitVec 2) = 0)
    ∧ (∀ (c st : Nat) (x : RandOp) (e : EntryRun) (w : Word) (s : State), s.offers c (.vrand c x) e w →
      st = (if s.num.emu then 0 else x.stream.toNat) + (if e.isEval then 128 else 0) →
      exec (.vrand c x) s = .next (s.laneDone c e x.vd 0 (fun k l => (laneRandom s.num.emu e.seed (BitVec.ofNat 64 e.step)
        (Desc.parse ((s.core c).desc x.desc.toNat)).tid st (k.s x.index + BitVec.ofNat 64 l) ((k.s x.draw).setWidth 32), [])))))

/-- VLD, VST, the taps, VRED and VKERN (R96 to R103, R110, R133): when nothing they name is held and their checks pass, they complete with the values their
rules give. -/
def Obligations.VectorMemoryAndTaps : Prop :=
  (∀ (c off : Nat) (x : VMemOp) (e : EntryRun) (w : Word) (s : State) (k : Core) (d : Desc), k = s.core c → s.offers c (.vld c x) e w →
    d = Desc.parse (k.desc x.desc.toNat) → off = (k.a x.off).toNat → off < d.count → vecHeld k x.desc.toNat false = false →
    s.inside (.own c) d ((activeLanes k x.mask off d.count).map (off + ·)) = true →
    s.checkElems (.own c) d ((activeLanes k x.mask off d.count).map (off + ·)) = .ok () →
    ∃ t, exec (.vld c x) s = .next t ∧ (∀ l, l < 128 → (t.core c).lane x.vd l = (if (k.mask x.mask).getLsbD l ∧ off + l < d.count
      then encFP32 (laneIn (s.elemValue (.own c) d (off + l))).1 else k.lane x.vd l)) ∧ (t.core c).store = k.store)
  ∧ (∀ (c off : Nat) (x : VMemOp) (e : EntryRun) (w : Word) (s u : State) (k : Core) (d : Desc), k = s.core c → s.offers c (.vst c x) e w →
    d = Desc.parse (k.desc x.desc.toNat) → off = (k.a x.off).toNat → off < d.count → vecHeld k x.desc.toNat true = false →
    s.inside (.own c) d ((activeLanes k x.mask off d.count).map (off + ·)) = true →
    s.storeItems c e (.own c) d 1 0 0 e.issued ((activeLanes k x.mask off d.count).map
      (fun l => { i := off + l, v := decFP32 (k.lane x.vd l), idx := off + l })) = .ok u → exec (.vst c x) s = .next (u.retired c))
  ∧ (∀ (c r : Nat) (x : TapOp) (e : EntryRun) (w : Word) (s : State) (k : Core), k = s.core c → (k.s x.row).toNat = r → r % 2 = 0 → r ≤ 254 →
    tapHeld k x.half = false →
    (s.offers c (.tapr c x) e w → ∃ t, exec (.tapr c x) s = .next t ∧ (t.core c).acc = k.acc ∧ (∀ l, l < 128 → (t.core c).lane x.vd l
      = (if (k.mask x.mask).getLsbD l then encFP32 (toFP32 s.num.emu (decA48 (k.accAt x.half (r + l / 64) (l % 64)).toNat)).1 else k.lane x.vd l)))
    ∧ (s.offers c (.tapa c x) e w → ∃ t, exec (.tapa c x) s = .next t ∧ (t.core c).acc = k.acc ∧ (∀ l, l < 128 → (t.core c).lane x.vd l
      = (if (k.mask x.mask).getLsbD l then encFP32 (lAdd s.num.emu (decA48 (k.accAt x.half (r + l / 64) (l % 64)).toNat) (decFP32 (k.lane x.vs l))).1
         else k.lane x.vd l)))
    ∧ (s.offers c (.tapw c x) e w → ∃ t, exec (.tapw c x) s = .next t ∧ (∀ l, l < 128 → (k.mask x.mask).getLsbD l = true →
        (t.core c).accAt x.half (r + l / 64) (l % 64) = encA48 (decFP32 (k.lane x.vs l)))
        ∧ ((t.core c).closedRows x.half).getLsbD r = false ∧ ((t.core c).closedRows x.half).getLsbD (r + 1) = false))
  ∧ (∀ (c r : Nat) (x : TapOp) (e : EntryRun) (w : Word) (s : State), ((s.core c).s x.row).toNat = r → (r % 2 = 1 ∨ 254 < r) →
    tapHeld (s.core c) x.half = false → s.offers c (.tapr c x) e w → exec (.tapr c x) s = .next (s.raiseExc c e 0x01 0 e.issued w))
  ∧ (∀ (c len off : Nat) (x : RedOp) (e : EntryRun) (w : Word) (s : State) (k : Core) (d y : Desc) (kind : RedKind) (ys : List (Val × List Nat)),
    k = s.core c → s.offers c (.vred c x) e w → (k.s x.len).toNat = len → (k.a x.off).toNat = off → d = Desc.parse (k.desc x.x.toNat) →
    y = Desc.parse (k.desc x.y.toNat) → kind = RedKind.ofCode x.kind.toNat → ys = (if kind = .productSum then redValues s c y off len else redValues s c d off len) →
    vecHeld k x.x.toNat false = false → 1 ≤ len → len ≤ 65536 → redCheck s c x.x.toNat d off len = .ok () →
    (kind = .productSum → vecHeld k x.y.toNat false = false ∧ redCheck s c x.y.toNat y off len = .ok ()) →
    ∃ t, exec (.vred c x) s = .next t ∧ (∀ l, l < 128 → (t.core c).lane x.vd l = encFP32 (reduce s.num.emu (x.a48 && !s.num.emu) kind
      (((redValues s c d off len).zip ys).map (fun p => (p.1.1, p.2.1)))).1))
  ∧ (∀ (c : Nat) (x : KernOp) (e : EntryRun) (w : Word) (s u : State) (q : KernSide) (qs : List KernSide) (a : KernAcc), s.offers c (.vkern c x) e w →
    q = kernSide s c x → kernCheck s q = .ok () → (kernGroup c x).map (atKernel s x) = qs.map some → (∀ p ∈ qs, kernCheck s p = .ok () ∧ p.rows = q.rows) →
    a = kernAll s qs q.code q.rows (kernPar s c x (q.cols * KernOp.spanCores x)) →
    qs.zipIdx.foldlM (fun (st : State) (p : KernSide × Nat) =>
      match (st.core p.1.c).entry with
      | some f => (kernStore st p.1 f p.2 a).map (fun (v : State) => if p.1.c = c then v else v.retired p.1.c)
      | none => .ok st) s.nextFree = .ok u →
    exec (.vkern c x) s = .next (u.retired c))
  ∧ (∀ (c : Nat) (x : KernOp) (e : EntryRun) (w : Word) (s : State), s.offers c (.vkern c x) e w → kernCheck s (kernSide s c x) = .ok () →
    (∃ d, d ∈ kernGroup c x ∧ atKernel s x d = none) → exec (.vkern c x) s = .next s)

/-- SIG, the application of a signal, and remote signals (R134, R235 to R238, R247): SIG queues its signal; applying it adds its count to the object's value
and makes its core the last signaller; a remote SIG is handed to the fabric; a remote signal of this window is applied, one of a later window is
held, and a late one is discarded. -/
def Obligations.SignalInstructions : Prop :=
  (∀ (c key h : Nat) (x : SigOp) (e : EntryRun) (w : Word) (s : State) (k : Core) (q : SigRun), k = s.core c → s.offers c (.sig c x) e w → k.drained = true →
    h = (if x.imm then x.handle.toNat else (k.s x.reg).toNat % 2 ^ 32) → s.resolveHandle c h = some (.obj key) →
    q = { key := key, remote := false, count := x.count.toNat, index := e.issued, handle := h, load := false, dyn := !x.imm && decide (keyScope key ≠ 0),
          word := w } →
    exec (.sig c x) s = .next (((s.setCore c { k with sigQ := k.sigQ ++ [q] }).signalled c e h x.count.toNat).retired c))
  ∧ (∀ (c h r die i : Nat) (x : SigOp) (e : EntryRun) (w : Word) (s : State) (k : Core) (q : SigRun), k = s.core c → s.offers c (.sig c x) e w → k.drained = true →
    h = (if x.imm then x.handle.toNat else (k.s x.reg).toNat % 2 ^ 32) → s.resolveHandle c h = some (.far r die i) →
    q = { key := 0, remote := true, count := x.count.toNat, index := e.issued, handle := h, load := false, dyn := false, word := w } →
    ∃ t, exec (.sig c x) s = .next t ∧ (t.core c).sigQ = k.sigQ ++ [q])
  ∧ (∀ (c : Nat) (s : State) (e : EntryRun) (q : SigRun) (rest : List SigRun) (o : SyncObj), (s.core c).sigQ = q :: rest → (s.core c).entry = some e →
    q.remote = false → o = s.obj q.key → o.poisoned = false → o.value + q.count ≤ 0xFFFFFFFF →
    ∃ t, exec (.signalApplied c) s = .next t ∧ (t.obj q.key).value = o.value + q.count ∧ (t.obj q.key).lastWho = c ∧ (t.obj q.key).lastCnt = q.count
      ∧ (∀ y, y ≠ q.key → t.obj y = s.obj y) ∧ (t.core c).sigQ = rest)
  ∧ (∀ (c : Nat) (s : State) (e : EntryRun) (q : SigRun) (rest : List SigRun) (o : SyncObj), (s.core c).sigQ = q :: rest → (s.core c).entry = some e →
    q.remote = false → o = s.obj q.key → o.poisoned = false → 0xFFFFFFFF < o.value + q.count →
    ∃ t e', exec (.signalApplied c) s = .next t ∧ (t.obj q.key).value = o.value ∧ (t.core c).entry = some e' ∧ e'.stopped = true)
  ∧ (∀ (c : Nat) (s : State) (e : EntryRun) (q : SigRun) (rest : List SigRun), (s.core c).sigQ = q :: rest → (s.core c).entry = some e →
    q.remote = true → exec (.signalApplied c) s = .next ((s.setCore c { s.core c with sigQ := rest }).sendSignal c e q))
  ∧ (∀ (s s0 : State) (x : SignalIn) (rest : List SignalIn) (unit : Nat), s.fab.signals = x :: rest → s.inRun = true → unit = bits (field x.data 0 4) 13 11 →
    s.inReset unit = false → s0 = s.withFab { s.fab with signals := rest } →
    (x.window = s.dieWindow unit % 2 ^ 32 → (s.obj (objKey 2 unit (bits (field x.data 0 4) 10 0))).poisoned = false →
      (s.obj (objKey 2 unit (bits (field x.data 0 4) 10 0))).value + field x.data 4 4 ≤ 0xFFFFFFFF →
      ∃ t, exec .remoteSignal s = .next t ∧ t.fab.signals = rest ∧ (t.obj (objKey 2 unit (bits (field x.data 0 4) 10 0))).value
        = (s.obj (objKey 2 unit (bits (field x.data 0 4) 10 0))).value + field x.data 4 4)
    ∧ (s.dieWindow unit % 2 ^ 32 < x.window → s.heldOn unit < 1024 →
      ∃ t, exec .remoteSignal s = .next t ∧ t.fab.signals = rest ∧ (t.obj (objKey 2 unit (bits (field x.data 0 4) 10 0))).value
          = (s.obj (objKey 2 unit (bits (field x.data 0 4) 10 0))).value
        ∧ (t.obj (objKey 2 unit (bits (field x.data 0 4) 10 0))).held.length = (s.obj (objKey 2 unit (bits (field x.data 0 4) 10 0))).held.length + 1)
    ∧ (x.window < s.dieWindow unit % 2 ^ 32 → ∃ t, exec .remoteSignal s = .next t ∧ t.fab.signals = rest ∧ t.sync = s.sync))

/-- A WAIT is satisfied when the object's value, compared as unsigned, has reached the target (R239): at issue it then completes, whatever the value is for
a target of 0; otherwise it stands until the value reaches the target. It never changes the value, and while it stands the core issues nothing. -/
def Obligations.WaitSatisfied : Prop :=
  (∀ (c key t : Nat) (x : WaitOp) (e : EntryRun) (w : Word) (s : State) (k : Core) (q : WaitRun), k = s.core c → s.offers c (.wait c x) e w →
    (x.sleep = false ∨ k.drained = true) → t = (k.s x.target).toNat % 2 ^ 32 → s.resolveHandle c ((k.s x.reg).toNat % 2 ^ 32) = some (.obj key) →
    mayWait c key = true → (s.obj key).poisoned = false →
    q = { key := key, target := t, sleep := x.sleep, issued := s.clk.ref, timeout := x.timeout.toNat } →
    (t ≤ (s.obj key).value → exec (.wait c x) s = .next (s.retired c))
    ∧ ((s.obj key).value < t → exec (.wait c x) s = .next (s.jumps c { k with wait := some q } e.pc)))
  ∧ (∀ (c : Nat) (s : State) (w : WaitRun) (e : EntryRun), (s.core c).wait = some w → (s.core c).entry = some e → (s.obj w.key).poisoned = false →
    w.target ≤ (s.obj w.key).value →
    ∃ t, exec (.waitSatisfied c) s = .next t ∧ (t.core c).wait = none ∧ t.sync = s.sync
      ∧ (t.core c).entry = some { e with pc := (settle (s.core c).loops (e.pc + 1)).2 })
  ∧ (∀ (c : Nat) (s : State) (w : WaitRun) (e : EntryRun), (s.core c).wait = some w → (s.core c).entry = some e → (s.obj w.key).value < w.target →
    exec (.waitSatisfied c) s = notNow "the wait is not satisfied")
  ∧ (∀ (c : Nat) (i : Instr) (f : Core → EntryRun → State → Issued) (s : State) (e : EntryRun), (s.core c).entry = some e → (s.core c).wait.isSome = true →
    issue c i f s = notNow "the core issues nothing now")
  ∧ (∀ (c : Nat) (x : WaitOp) (s t : State), exec (.wait c x) s = .next t → (∀ key, (t.obj key).value = (s.obj key).value))

/-- A wait ends in an exception when its object is poisoned or its timeout expires (R135, R240, R241). -/
def Obligations.WaitExceptions : Prop :=
  (∀ (c key : Nat) (x : WaitOp) (e : EntryRun) (w : Word) (s : State) (k : Core), k = s.core c → s.offers c (.wait c x) e w →
    (x.sleep = false ∨ k.drained = true) → s.resolveHandle c ((k.s x.reg).toNat % 2 ^ 32) = some (.obj key) → mayWait c key = true →
    (s.obj key).poisoned = true → exec (.wait c x) s = .next (s.raiseExc c e 0x13 (objHandle key) e.issued w))
  ∧ (∀ (c at' : Nat) (s0 s : State) (w : WaitRun) (e : EntryRun) (o : SyncObj), s = s0.advance at' → (s.core c).wait = some w → (s.core c).entry = some e →
    o = s.obj w.key → o.poisoned = false → o.value < w.target → waitExpired s w e = true →
    ∃ t e', exec (.waitTimeout c at') s0 = .next t ∧ (t.core c).entry = some e' ∧ e'.stopped = true ∧ (t.core c).wait = none
      ∧ (∀ r, (s.core c).exc = none → (t.core c).exc = some r → r.code = 0x12 ∧ r.detail = objHandle w.key % 2 ^ 32) ∧ t.sync = s.sync)

/-- END, FENCE, INFO, OVL, MARK and RAISE (R137, R138, R140). -/
def Obligations.ClauseControl : Prop :=
  (∀ (c : Nat) (e : EntryRun) (w : Word) (s : State) (k : Core), k = s.core c →
    (s.offers c (.endEntry c) e w → k.drained = true →
      exec (.endEntry c) s = .next (s.jumps c { k with entry := some { e with ended := true } } e.pc))
    ∧ (s.offers c (.clauseFence c) e w → k.drained = true → exec (.clauseFence c) s = .next (s.retired c))
    ∧ (s.offers c (.endEntry c) e w → k.drained = false → exec (.endEntry c) s = .next s)
    ∧ (s.offers c (.clauseFence c) e w → k.drained = false → exec (.clauseFence c) s = .next s)
    ∧ (∀ d sel, s.offers c (.info c d sel) e w → exec (.info c d sel) s = .next (s.leaves c (k.setS d (BitVec.ofNat 64 (
        if sel = 0 then e.step else if sel = 1 then e.lag else if sel = 2 then e.clause else if sel = 3 then c else if sel = 4 then s.frame.period
        else if sel = 5 then e.object else if sel = 6 then bitNat e.isEval else s.rank)))))
    ∧ (∀ x, s.offers c (.ovl c x) e w → ovlBad k e x = false → x.src.toNat + x.count.toNat ≤ overlayWords e.image →
      ∃ t, exec (.ovl c x) s = .next t ∧ (∀ j, j < x.count.toNat → x.src.toNat + j < e.image.overlay.length →
          SMap.find? (t.core c).overlay (x.dst.toNat + j) = e.image.overlay[x.src.toNat + j]?)
        ∧ (∀ i, (i < x.dst.toNat ∨ x.dst.toNat + x.count.toNat ≤ i) → SMap.find? (t.core c).overlay i = SMap.find? k.overlay i))
    ∧ (∀ x, s.offers c (.ovl c x) e w → ovlBad k e x = true → exec (.ovl c x) s = .next (s.raiseExc c e 0x10 0 e.issued w)))
  ∧ (∀ (c : Nat) (v : BitVec 5) (code : BitVec 16) (e : EntryRun) (w : Word) (s : State) (k : Core) (m : MarkRecord), k = s.core c →
    s.offers c (.mark c v code) e w → m = { code := code.toNat, value := k.s v, clause := e.clause, index := e.issued, ref := s.clk.ref } →
    exec (.mark c v code) s = .next (s.leaves c { k with trace := (k.trace ++ [m]).drop (k.trace.length + 1 - 256) }))
  ∧ (∀ (c : Nat) (code : BitVec 16) (e : EntryRun) (w : Word) (s : State), s.offers c (.raise c code) e w →
    exec (.raise c code) s = .next (s.raiseExc c e 0x16 code.toNat e.issued w))

/-- STAT_RD, STAT_CLR, STAT_CAP and FE_RD (R139): each waits until every issued instruction has completed, and only then reads or writes; FE_RD writes a
word of the record zero-extended, or zero while FE_VALID is 0; only the program's own word and record are reached. -/
def Obligations.StatusInstructions : Prop :=
  (∀ (c : Nat) (i : Instr) (d : BitVec 5) (w3 : BitVec 3) (m : BitVec 8) (v : BitVec 7) (e : EntryRun) (w : Word) (s : State),
    i ∈ [.statRd c d, .statClr c m, .statCap c v, .feRd c d w3] → s.offers c i e w →
    ((s.core c).matQ ≠ [] ∨ (s.core c).loadQ ≠ [] ∨ (s.core c).sigQ ≠ []) → exec i s = .next s)
  ∧ (∀ (c : Nat) (e : EntryRun) (w : Word) (s : State) (k : Core), k = s.core c → k.matQ = [] → k.loadQ = [] → k.sigQ = [] →
    (∀ d, s.offers c (.statRd c d) e w → exec (.statRd c d) s = .next (s.leaves c (k.setS d (k.status.setWidth 64))))
    ∧ (∀ m, s.offers c (.statClr c m) e w → exec (.statClr c m) s
        = .next (s.leaves c { k with status := k.status &&& ~~~(m.setWidth 32), first := if m.getLsbD 7 then none else k.first }))
    ∧ (∀ v, s.offers c (.statCap c v) e w → exec (.statCap c v) s
        = .next (s.leaves c { k with status := (k.status &&& 0xFF80FFFF) ||| (v.setWidth 32 <<< 16) }))
    ∧ (∀ d x f, s.offers c (.feRd c d x) e w → k.first = some f → k.status.getLsbD 7 = true →
        exec (.feRd c d x) s = .next (s.leaves c (k.setS d (BitVec.ofNat 64 (field f.bytes (4 * x.toNat) 4)))))
    ∧ (∀ d x, s.offers c (.feRd c d x) e w → k.status.getLsbD 7 = false → exec (.feRd c d x) s = .next (s.leaves c (k.setS d 0))))
  ∧ (∀ (c : Nat) (i : Instr) (d : BitVec 5) (w3 : BitVec 3) (m : BitVec 8) (v : BitVec 7) (e : EntryRun) (w : Word) (s t : State),
    i ∈ [.statRd c d, .statClr c m, .statCap c v, .feRd c d w3] → s.offers c i e w → exec i s = .next t → t.steps = s.steps ∧ t.mem = s.mem ∧ t.sync = s.sync
      ∧ (∀ q, q ≠ c → t.core q = s.core q))

/-! ## Checkpoints, takeovers and swaps -/

/-- The streams of a checkpoint and of a restore (R227, R345, R348, R353): the unit that a write waits at is read and sent whatever the allowance; a
returned digest that agrees passes its stream; ten seconds without a chunk fail the checkpoint; a restore chunk lands in its place. -/
def Obligations.CheckpointStreams : Prop :=
  (∀ (mdie pair i u : Nat) (s s1 : State) (r : CkptRun) (x : CkptStream) (g : Guard), s.ckpt.run = some r → r.reading = false →
    r.streams.zipIdx.find? (fun x => x.1.kind != 2 && x.1.region == pair && x.1.mdie == mdie && decide (x.1.units.length < x.1.units_)) = some (x, i) →
    x.kind = 0 → g = { version := r.version, buf := 0, units := x.units_, read := x.units.map (·.1) } → g.next (s.stallsAt pair mdie) = some u →
    u ∈ s.stallsAt pair mdie → s.mem.bad = [] → s1 = s.sendUnit r i u →
    exec (.guardUnitRead mdie pair) s = .next (s1.releaseStall pair mdie u).afterUnit)
  ∧ (∀ (mdie pair i u : Nat) (s : State) (r : CkptRun) (x : CkptStream) (g : Guard), s.ckpt.run = some r → r.reading = false → s.inRun = false →
    r.streams.zipIdx.find? (fun x => x.1.kind != 2 && x.1.region == pair && x.1.mdie == mdie && decide (x.1.units.length < x.1.units_)) = some (x, i) →
    r.streams.zipIdx.find? (fun y => y.1.mdie == mdie && decide (y.1.units.length < y.1.units_)) = some (x, i) → x.kind = 1 → r.allow = [] →
    g = { version := r.version, buf := 0, units := x.units_, read := x.units.map (·.1) } → g.next [] = some u → s.mem.bad = [] →
    exec (.guardUnitRead mdie pair) s = .next (s.sendUnit r i u).afterUnit)
  ∧ (∀ (stream : Nat) (data : Bytes) (s : State) (c : ChunkIn) (r : CkptRun) (x : CkptStream),
    s.ckpt.inbox.find? (fun c => c.kind == 2 && c.stream == stream && c.data == data) = some c → s.ckpt.run = some r → r.reading = true → r.pos = stream →
    r.streams[stream]? = some x → r.byDigest = true →
    exec (.readbackChunk stream data) s = .next ((s.withCkpt { s.ckpt with inbox := s.ckpt.inbox.erase c }).judgeStream
      { r with lastBack := s.clk.elapsed, verified := r.verified + data.length } x (data == x.digest)))
  ∧ (∀ (stream : Nat) (data : Bytes) (s : State) (c : ChunkIn) (r : CkptRun),
    s.ckpt.inbox.find? (fun c => c.kind == 2 && c.stream == stream && c.data == data) = some c → s.ckpt.run = some r → (r.reading = false ∨ stream ≠ r.pos) →
    exec (.readbackChunk stream data) s = .next (s.withCkpt { s.ckpt with inbox := s.ckpt.inbox.erase c }))
  ∧ (∀ (s : State) (r : CkptRun), s.ckpt.run = some r → r.reading = true →
    exec .readbackTimeout s = .next ((s.advanceTo (r.lastBack + 1000000000)).failCheckpoint 0x0701))
  ∧ (∀ (stream off : Nat) (data : Bytes) (s s1 s2 : State) (c : ChunkIn) (r r1 : RestoreRun) (x : CkptStream) (xs : List CkptStream),
    s.ckpt.inbox.find? (fun c => c.kind == 3 && c.stream == stream && c.off == off && c.data == data) = some c → s.ckpt.restore = some r →
    s1 = s.withCkpt { s.ckpt with inbox := s.ckpt.inbox.erase c } → xs = (s1.restoreStreams r.manifest).filterMap id → xs[stream]? = some x →
    off + data.length ≤ x.len → x.kind ≠ 2 → s2 = s1.writeStream x off data →
    (xs.zipIdx).all (fun y => covered ((SMap.find? (SMap.insert r.got stream ((off, data.length) :: (SMap.find? r.got stream).getD [])) y.2).getD []) y.1.len) = false →
    r1 = { r with got := SMap.insert r.got stream ((off, data.length) :: (SMap.find? r.got stream).getD []), received := r.received + data.length } →
    exec (.restoreStreamChunk stream off data) s = .next (s2.withCkpt { s2.ckpt with restore := some r1 }))

/-- The effective point of a table, a takeover, the pairing of mirrors and a die swap (R265, R312, R321, R328 to R331). -/
def Obligations.EpochsTakeoversSwaps : Prop :=
  (∀ (slice : Nat) (s0 s : State) (t : RouteTable) (x y : SliceTables), x = s0.sliceTables slice → x.pending = some t → s0.ownSlice slice = false →
    s = s0.advance t.effective → s.recov.takeover = none → t.effective ≤ s.clk.ref →
    y = { current := some t, previous := x.current, pending := none, since := s.clk.ref } →
    exec (.epochApplied slice) s0 = .next ((s.withRoutes (SMap.insert s.routes slice y)).log { code := 0x3009, source := srcN 0, detail := leBytes 2 slice ++ leBytes 4 t.epoch }))
  ∧ (∀ (runState : Bytes) (s : State) (k : Takeover), s.recov.takeover = some k → k.started = true →
    exec (.takeoverReady false runState) s = .next ((s.withRecov { s.recov with takeover := none }).log { code := 0x800F, detail := leBytes 2 0x0504 }))
  ∧ (∀ (runState : Bytes) (s s1 : State) (k : Takeover) (a b : State × Bool), s.recov.takeover = some k → k.started = true →
    s.tagsAgree (s.parsePull runState) = true →
    ((s.parsePull runState).own ++ (s.parsePull runState).partner).all entryTrue = true → (s.parsePull runState).own.length ≤ 3 →
    (s.parsePull runState).partner.length ≤ 3 → s1 = s.joinRun k (s.parsePull runState) →
    a = s1.placeShards (s.parsePull runState).sealed false (s.parsePull runState).shards →
    b = a.1.placeShards (s.parsePull runState).sealed true (s.parsePull runState).mirrors → a.2 = true → b.2 = true →
    ∃ v, exec (.takeoverReady true runState) s = .next v ∧ v.recov.takeover = none)
  ∧ (∀ (s s1 : State) (at' : Nat), s.unpairedAt = some at' → s.recov.partner.isSome = true → s.run.startSent = false → s.pairAgrees = false →
    s.recov.pairRec.isSome = true → s1 = s.endStart →
    exec .mirrorUnpaired s = .next (((s1.withRecov { s1.recov with pairRec := none }).log { code := 0x8001, detail := leBytes 2 (s1.recov.partner.getD 0) }).respond 0
      { status := 0x0301 }))
  ∧ (∀ (s : State) (w : Swap), s.recov.swap = some w →
    ∃ v, exec .dieSwapDone s = .next v ∧ v.dieMap = s.dieMap.set w.logical w.spare ∧ v.recov.swap = none ∧ v.recov.swaps = sat32 (s.recov.swaps + 1))

/-! ## The fabric -/

/-- Frames at a fabric port and its link layer (R251 to R261, R279): a frame in sequence is acknowledged, counted and received or forwarded; one out of
sequence or with a bad check is discarded, with a NAK; a link control frame acknowledges and returns credit; an idle port sends one; a retrain,
a bring-up and its end; neighbour frames. -/
def Obligations.LinkEvents : Prop :=
  (∀ (port : Nat) (f : FabricFrame) (s : State), port < 16 → (s.port port).state = 2 → f.fcsOk = false →
    exec (.sequencedFrame port f) s = .next ((s.countPort port 0x24).discard port (!f.stomp)))
  ∧ (∀ (port : Nat) (f : FabricFrame) (s : State) (h : Bytes), port < 16 → (s.port port).state = 2 → f.fcsOk = true → h = slice f.bytes 14 56 →
    hSeq h ≠ (s.port port).rxSeq → exec (.sequencedFrame port f) s = .next (s.discard port (!seqBefore (hSeq h) (s.port port).rxSeq)))
  ∧ (∀ (port cost : Nat) (f : FabricFrame) (s s1 : State) (h h' : Bytes) (x : Port) (t : RouteTable), port < 16 → x = s.port port → x.state = 2 →
    f.fcsOk = true → h = slice f.bytes 14 56 → hSeq h = x.rxSeq → cost = ceilDiv (14 + 56 + 18 * hWords ((fixHeader h).getD h) + 4) 64 →
    s1 = (s.setPort port (((({ x with rxSeq := (x.rxSeq + 1) % 2 ^ 32, nakSent := false, accepted := addAt x.accepted (hVc h) cost,
                                      owed := addAt x.owed (hVc h) cost } : Port).credit h).acknowledge (hAck h) s.clk.elapsed).count 0x10 1)).flushPort port →
    s1.dropReason port (f.bytes.take 14) h = .ok (h', t) →
    exec (.sequencedFrame port f) s
      = .next (if hDst h' = s1.modId then s1.receive port x h' (f.bytes.drop 70) f.checks else s1.forward port t h' (f.bytes.drop 70)))
  ∧ (∀ (port : Nat) (hdr : Bytes) (s : State), port < 16 → (s.port port).state = 2 →
    exec (.linkControl port false hdr) s
      = .next ((s.setPort port (((s.port port).credit hdr).acknowledge (hAck hdr) s.clk.elapsed)).flushPort port))
  ∧ (∀ (port : Nat) (hdr : Bytes) (s : State), port < 16 → (s.port port).state = 2 → ∃ v, exec (.linkControl port true hdr) s = .next v)
  ∧ (∀ (port : Nat) (s : State), port < 16 → (s.port port).state = 2 → exec (.linkIdleAck port) s = .next (s.linkControl port))
  ∧ (∀ (port at' n k : Nat) (s0 s : State) (x : Port), s = s0.advance at' → port < 16 → x = s.port port → x.state = 2 → x.nakAt = some (n, k) → 16 ≤ k →
    (∀ t, x.retrain = some t → t + 100000000 ≤ s.clk.elapsed) →
    ∃ v, exec (.fabricRetrain port at') s0 = .next v ∧ (v.port port).retrain = some s.clk.elapsed ∧ (v.port port).nakAt = none
      ∧ (v.port port).rxSeq = x.rxSeq ∧ (v.port port).retry = x.retry ∧ (v.port port).state = 2)
  ∧ (∀ (port at' : Nat) (s0 s : State), s = s0.advance at' → port < 16 → (s.port port).state = 2 →
    (∃ t, (s.port port).retrain = some t ∧ s.clk.elapsed < t + 100000000) → exec (.fabricPortDown port at') s0 = .next (s.bringUp port))
  ∧ (∀ (port at' : Nat) (s0 s : State), s = s0.advance at' → port < 16 → (s.port port).state = 1 →
    ∃ v, exec (.fabricPortDown port at') s0 = .next v ∧ (v.port port).state = 4)
  ∧ (∀ (port delay : Nat) (peer : Bytes) (s : State), port < 16 → ((s.port port).state = 0 ∨ (s.port port).state = 1) → s.nDieUp (port / 8) = true →
    ∃ v, exec (.fabricPortUp port delay peer) s = .next v ∧ (v.port port).state = 2 ∧ (v.port port).delay = delay ∧ (v.port port).peer = some (peerOf peer)
      ∧ (v.port port).rxSeq = Port.blank.rxSeq ∧ (v.port port).retry = [])
  ∧ (∀ (port : Nat) (payload : Bytes) (s : State), port < 16 → ((s.port port).state = 1 ∨ (s.port port).state = 2) → field payload 3 1 ≠ 1 →
    exec (.neighbour port payload) s = .next (s.setPort port { s.port port with peer := some (peerOf payload) }))
  ∧ (∀ (port : Nat) (payload : Bytes) (s s1 : State), port < 16 → ((s.port port).state = 1 ∨ (s.port port).state = 2) → field payload 3 1 = 1 →
    s1 = s.setPort port { s.port port with peer := some (peerOf payload) } → exec (.neighbour port payload) s
      = .next (s1.sendNeighbour port (neighbourPayload s1 port 2 (field payload 0x18 8) (s1.clk.ref * 8) (s1.clk.ref * 8))))
  ∧ (∀ (port : Nat) (s : State), port < 16 → ((s.port port).state = 1 ∨ (s.port port).state = 2) →
    exec (.neighbourAnnounce port) s = .next (s.sendNeighbour port (neighbourPayload s port 0 0 0 0)))

/-- End-to-end operations and tick checks (R43, R261 to R264): an acknowledgement completes its operation and frees its slot, a NAK has the fragment sent
again, an operation unacknowledged for 1 ms is sent again, and a tick check measures the skew and audits the credits. -/
def Obligations.OperationsAndTickChecks : Prop :=
  (∀ (tag : Nat) (s s1 : State) (o : OpSlot), (tag, (none : Option Nat)) ∈ s.fab.acks → s1 = s.withFab { s.fab with acks := s.fab.acks.erase (tag, none) } →
    SMap.find? (s1.ndie (bits tag 13 13)).slots (bits tag 12 0) = some o → o.tag = tag →
    exec (.e2eAck tag none) s = .next (s1.finishOp (bits tag 13 13) (bits tag 12 0)))
  ∧ (∀ (tag f : Nat) (s s1 : State) (o : OpSlot), (tag, some f) ∈ s.fab.acks → s1 = s.withFab { s.fab with acks := s.fab.acks.erase (tag, some f) } →
    SMap.find? (s1.ndie (bits tag 13 13)).slots (bits tag 12 0) = some o → o.tag = tag →
    exec (.e2eAck tag (some f)) s = .next (s1.resend (bits tag 13 13) (bits tag 12 0) f true))
  ∧ (∀ (tag : Nat) (nak : Option Nat) (s s1 : State), (tag, nak) ∈ s.fab.acks → s1 = s.withFab { s.fab with acks := s.fab.acks.erase (tag, nak) } →
    (∀ o, SMap.find? (s1.ndie (bits tag 13 13)).slots (bits tag 12 0) = some o → o.tag ≠ tag) → exec (.e2eAck tag nak) s = .next s1)
  ∧ (∀ (ndie slot at' : Nat) (s0 s : State) (o : OpSlot), s = s0.advance at' → SMap.find? (s.ndie ndie).slots slot = some o →
    o.lastSent + 100000 ≤ s.clk.elapsed →
    exec (.operationResend ndie slot at') s0 = .next ((List.range o.frags.length).foldl (fun st f => st.resend ndie slot f false) s))
  ∧ (∀ (port at' off : Nat) (payload : Bytes) (s : State) (t : TickIn) (x : Port), s.fab.ticks.find? (fun t => t.port == port && t.data == payload) = some t →
    x = s.port port → off = absDiff at' (field payload 8 8 + x.delay) →
    (∀ v, v < 4 → t.accepted.getD v 0 = field payload (0x10 + 8 * v) 8 ∧ t.back.getD v 0 = field payload (0x30 + 8 * v) 8
      ∧ x.accepted.getD v 0 - x.returned.getD v 0 ≤ vcGrant v) → off * 5 ≤ s.frame.skewLimit * 40 →
    exec (.tickCheck port at' payload) s = .next ((s.withFab { s.fab with ticks := s.fab.ticks.erase t }).withFrame { s.frame with
      skews := if s.frame.skewLimit * 4 < off * 5 then sat32 (s.frame.skews + 1) else s.frame.skews, skewRuns := SMap.insert s.frame.skewRuns port 0 }))
  ∧ (∀ (port at' v : Nat) (payload : Bytes) (s : State) (t : TickIn), s.fab.ticks.find? (fun t => t.port == port && t.data == payload) = some t → v < 4 →
    t.accepted.getD v 0 ≠ field payload (0x10 + 8 * v) 8 →
    ∃ u, exec (.tickCheck port at' payload) s = .next u ∧ (u.port port).auditBad = some s.clk.ref
      ∧ ((u.port port).state = 1 ∨ (u.port port).state = 4))

/-! ## Memory hardware -/

/-- The memory hardware (R193 to R202): a flit replay counts, retries on EDC count and leave the data, a scrub of an atom without an error changes no
stored byte, an atom that a read cannot correct is marked, and refresh and the periodic retrain change only timing. -/
def Obligations.MemoryHardware : Prop :=
  (∀ (link : LinkId) (again : Bool) (at' : Nat) (s0 s : State), s = s0.advance at' → linkExists link = true → (s.link (linkKey link)).failed = false →
    (if again then (s.link (linkKey link)).failRun + 1 else 1) < 8 →
    exec (.linkFlitReplay link again at') s0 = .next (s.setLink (linkKey link) { s.link (linkKey link) with
      replays := sat32 ((s.link (linkKey link)).replays + 1), failRun := if again then (s.link (linkKey link)).failRun + 1 else 1 }))
  ∧ (∀ (link : LinkId) (at' : Nat) (s0 s : State), s = s0.advance at' → linkExists link = true → (s.link (linkKey link)).failed = false →
    (s.link (linkKey link)).failRun = 8 → ∃ v, exec (.linkFlitReplay link true at') s0 = .next v)
  ∧ (∀ (mdie fails ma : Nat) (write ok : Bool) (s : State), mdie < 8 → 1 ≤ fails → fails ≤ 4 →
    exec (.edcRetry mdie write fails ok ma) s = .next (s.mdie mdie (fun d => { d with edcRetry := sat32 (d.edcRetry + fails) })))
  ∧ (∀ (mdie fails ma : Nat) (write ok : Bool) (s : State), mdie < 8 → 5 ≤ fails → fails ≤ 8 →
    ∃ v, exec (.edcRetry mdie write fails ok ma) s = .next v ∧ (SMap.get MDie.blank v.mem.mdies mdie).retrain = sat32 ((SMap.get MDie.blank s.mem.mdies mdie).retrain + 1)
      ∧ v.mem.cells = s.mem.cells ∧ v.mem.bad = s.mem.bad)
  ∧ (∀ (mdie ma : Nat) (s : State), mdie < 8 → ∃ v, exec (.edcRetry mdie false 9 false ma) s = .next v ∧ SMap.get false v.mem.bad (ma / 256) = true
      ∧ v.mem.cells = s.mem.cells)
  ∧ (∀ (mdie ma : Nat) (s : State), mdie < 8 → ∃ v, exec (.edcRetry mdie true 9 false ma) s = .next v)
  ∧ (∀ (mdie : Nat) (s : State) (d : MDie), mdie < 8 → d = SMap.get MDie.blank s.mem.mdies mdie → d.corrQueue = [] →
    SMap.get false s.mem.bad (maOf mdie (d.scrubNext * 256) / 256) = false → (d.scrubNext + 1) % (s.memBytes / 2048) ≠ 0 →
    exec (.scrubAtom mdie []) s = .next (s.mdie mdie (fun x => { x with scrubNext := (d.scrubNext + 1) % (s.memBytes / 2048) })))
  ∧ (∀ (mdie : Nat) (errs : List (Nat × BitVec 4)) (s : State), mdie < 8 → (∀ e ∈ errs, e.1 < 576) →
    ∃ v, exec (.scrubAtom mdie errs) s = .next v ∧ v.mem.cells = s.mem.cells)
  ∧ (∀ (mdie : Nat) (s : State), mdie < 8 → exec (.refresh mdie) s = .next s ∧ exec (.periodicRetrain mdie) s = .next s)

/-! ## Resets, power and the sideband -/

/-- Resets (R407, R417 to R421, R428, R429): RESET_N low starts or joins a reset at no more than L1; long low raises it to L0 as the map says; its release
lets stage 0 pass; a RESET that is not acknowledged begins after 100 ms; a stage opens the next; a stage that fails retires its die. -/
def Obligations.ResetEvents : Prop :=
  (∀ (at' : Nat) (s0 s : State), s = s0.advance at' → s.sup.resetNLow = none → s.sup.pwrEn = true →
    exec (.resetNLow at') s0 = .next ((s.withSup { s.sup with resetNLow := some s.clk.elapsed }).resetWhole fuResetN))
  ∧ (∀ (s s1 : State) (at' : Nat) (r : ResetRun), s.sup.resetNLow = some at' → s.sup.reset = some r → s1 = s.advanceTo (at' + 200000000) →
    exec .resetNLong s = .next (if s1.mapLevel fuResetLong < r.level then s1.resetWhole fuResetLong else s1))
  ∧ (∀ (s : State), s.sup.resetNLow.isSome = true → exec .resetNReleased s = .next (s.withSup { s.sup with resetNLow := none }))
  ∧ (∀ (s : State) (a : Nat × Nat), s.sup.askReset = some a → exec .resetResponseTimeout s = .next ((s.advanceTo (a.2 + 10000000)).beginAsked a.1))
  ∧ (∀ (at' k : Nat) (s0 s s2 : State) (r : ResetRun), s0.sup.reset = some r → s = s0.advance at' → s.sup.reset = some r → s.sup.stopped = false →
    s.sup.pwrEn = true → s.sup.standby = true → (r.stage = 0 → s.resetHeld = false) → (r.stage = 2 → s.clk.present = true) → (3 ≤ r.stage → r.opens ≤ s.clk.elapsed) →
    s2 = s.stageEffect r → r.next = some k → exec (.resetStage [] at') s0 = .next (s2.withSup { s2.sup with
      reset := some { r with stage := k, opens := s2.clk.elapsed + s2.sup.opts.gap }, stage := if r.level ≤ 1 then k else s2.sup.stage }))
  ∧ (∀ (at' : Nat) (s0 s : State) (r : ResetRun), s0.sup.reset = some r → s = s0.advance at' → s.sup.reset = some r → s.sup.stopped = false →
    s.sup.pwrEn = true → s.sup.standby = true → r.stage = 8 → r.level ≤ 1 → r.opens ≤ s.clk.elapsed →
    exec (.resetStage [] at') s0 = .next (s.finishReset r))
  ∧ (∀ (die : Nat) (s : State) (r : ResetRun), s.sup.reset = some r → s.sup.stopped = false → s.resetHeld = false → die < 8 → 5 ≤ r.stage → r.stage ≤ 7 →
    r.level ≤ 1 → exec (.resetStageFailed die) s
      = .next ((s.logFreeze { code := 0x100B, source := s.targetSource 2 { die := die, cluster := 0, core := 0 }, detail := leBytes 1 r.stage ++ leBytes 1 die }).failDie die))
  ∧ (∀ (die : Nat) (s : State) (r : ResetRun), s.sup.reset = some r → s.sup.stopped = false → s.resetHeld = false → (r.stage = 1 ∨ r.stage = 2) →
    ∃ v, exec (.resetStageFailed die) s = .next v ∧ v.sup.stopped = true)
  ∧ (∀ (s : State) (f level : Nat) (t : ResetTarget) (hung : List Nat), s.sup.reset = none → level ≤ 1 →
    ∃ q, (s.beginReset f level t hung).sup.reset = some q ∧ q.level = level ∧ q.stage = 0 ∧ (s.beginReset f level t hung).cores = []
      ∧ (s.beginReset f level t hung).steps = [] ∧ (s.beginReset f level t hung).pending = s.pending)

/-- Hangs and watchdogs (R34, R319, R419, R422, R445): a die that misses its acknowledgement or its heartbeats is logged and reset; a core whose sequencer
stands is reset, or has failed where it did so within 600 s before; the firmware's watchdog resets the module and the safety core's trips it. -/
def Obligations.HangsAndWatchdogs : Prop :=
  (∀ (die code : Nat) (err : BitVec 32) (s s1 s2 : State), s.targetOf die = some code → s.commasFall = true → s.inReset code = false → s.swapping code = false →
    s1 = (s.advance (s.run.clauseRef + 2000)).log { code := 0x5009, source := die, detail := leBytes 4 (s.run.comma % 2 ^ 32) } →
    s2 = (s1.advance (s.run.clauseRef + 2200)).logHang die err (dieLevel (s1.mapLevel fuTick)) →
    exec (.ackMissed die err) s = .next (s2.resetDie fuTick code true))
  ∧ (∀ (die code : Nat) (err : BitVec 32) (s s1 : State), s.targetOf die = some code → s.inReset code = false →
    s1 = s.logFreeze { code := 0x1005, source := die } →
    exec (.dieWatchdog die err) s = .next ((s1.logHang die err (dieLevel (s1.mapLevel fuDieWatch))).resetDie fuDieWatch code true))
  ∧ (∀ (core : Nat) (err : BitVec 32) (e : EntryRun) (s s2 s3 : State), core < 512 → (s.core core).entry = some e → e.stopped = false → (s.core core).wait = none →
    s2 = (s.logFreeze { code := 0x1005, source := s.coreSource core, detail := leBytes 2 core }).logHang (s.coreSource core) err
      ((s.logFreeze { code := 0x1005, source := s.coreSource core, detail := leBytes 2 core }).mapLevel fuCoreWatch) →
    s3 = s2.withRecov { s2.recov with expiries := SMap.insert s2.recov.expiries core (twice s2.clk.elapsed (SMap.get [] s2.recov.expiries core)) } →
    exec (.coreWatchdog core err) s
      = .next (if 2 ≤ (twice s2.clk.elapsed (SMap.get [] s2.recov.expiries core)).length then s3.failCore core else s3.resetCore core))
  ∧ (∀ (s : State), s.sup.pwrEn = true → s.sup.stopped = false → exec .managementWatchdog s = .next ((s.logFreeze { code := 0x1005 }).resetWhole fuManage))
  ∧ (∀ (s : State), s.sup.pwrEn = true → s.sup.standby = true → exec .safetyWatchdog s = .next ((s.logFreeze { code := 0x1005 }).safetyTrip 0x1005))

/-- The 52 V input, power-on and power-down, the standby supply (R433 to R436, R456, R463). -/
def Obligations.PowerEvents : Prop :=
  (∀ (mv : Nat) (s : State), s.sup.pwrEn = true → s.sup.input ≠ 3 → mv < 42000 → exec (.brownOut mv) s
    = .next (((((s.setInput 3 mv).setGood false).logFreeze { code := 0x7001, alert := true, detail := leBytes 4 mv }).alert 0).resetWhole fuBrownOut))
  ∧ (∀ (mv : Nat) (s : State), s.sup.pwrEn = true → (s.sup.input = 0 ∨ s.sup.input = 2) → 42000 ≤ mv → mv < 46000 →
    exec (.inputLow mv) s = .next (((s.setInput 1 mv).log { code := 0x7002, alert := true, detail := leBytes 4 mv }).alert 0))
  ∧ (∀ (mv : Nat) (s : State), s.sup.pwrEn = true → s.sup.input ≤ 1 → 56000 < mv → mv ≤ 58000 →
    exec (.inputHigh mv) s = .next (((s.setInput 2 mv).log { code := 0x7003, alert := true, detail := leBytes 4 mv }).alert 0))
  ∧ (∀ (mv : Nat) (s : State), s.sup.pwrEn = true → s.sup.input ≠ 4 → 58000 < mv → exec (.overVoltage mv) s
    = .next (((((s.setInput 4 mv).setGood false).log { code := 0x7004, alert := true, detail := leBytes 4 mv }).alert 0).safetyTrip 0x7004))
  ∧ (∀ (mv : Nat) (s : State), s.sup.input ≠ 0 → 46500 ≤ mv → mv ≤ 55500 → exec (.inputRecovered mv) s
    = .next (if s.sup.pwrEn && s.sup.standby then (s.setInput 0 mv).setGood true else s.setInput 0 mv))
  ∧ (∀ (slot : Nat) (s : State), s.sup.pwrEn = false → s.sup.standby = true → s.sup.input < 3 → exec (.pwrEnAsserted slot) s
    = .next (((s.withSup { s.sup with pwrEn := true, straps := slot % 64, reverse := false, reset := none, resetNLow := none }).setGood true).resetWhole fuPowerOn))
  ∧ (∀ (s : State), s.sup.pwrEn = true → ∃ v, exec .powerDown s = .next v ∧ v.sup.pwrEn = false ∧ v.sup.pwrGood = false ∧ v.sup.reset = none)
  ∧ (∀ (s : State), s.sup.reverse = false → exec .reverseBlock s = .next ((s.withSup { s.sup with reverse := true }).log { code := 0x700B }))
  ∧ (∀ (s : State), s.sup.standby = true → ∃ v, exec .standbySupplyLost s = .next v ∧ v.sup.standby = false ∧ v.sup.pwrGood = false ∧ v.nut.live = []
      ∧ v.nut.frozen = [] ∧ v.nut.lost = true ∧ v.alerts = 0)
  ∧ (∀ (s : State), s.sup.standby = false → s.sup.pwrEn = false → ∃ v, exec .standbySupplyUp s = .next v ∧ v.sup.standby = true ∧ v.nut.next = 0
      ∧ v.sup.loadStarts = 0 ∧ v.sup.input = 0)
  ∧ (∀ (s : State), s.sup.standby = false → s.sup.pwrEn = true → s.sup.reset = none → ∃ v q, exec .standbySupplyUp s = .next v ∧ v.sup.standby = true ∧ v.sup.input = 3
      ∧ v.sup.reset = some q ∧ q.stage = 0)

/-- The governor, the safety partition and the archive (R437 to R444, R456). -/
def Obligations.GovernorAndSafety : Prop :=
  (∀ (x : PowerSample) (s : State), s.sup.pwrEn = true → x.watts.length = 8 → x.temps.length = 20 → x.mems.length = 8 → x.ma ≤ 75000 →
    ∃ v, exec (.governorSample x) s = .next v ∧ v.sup.ceiling = s.nextCeiling x (x.mv * x.ma / 10000) ∧ v.sup.floor = v.sup.ceiling - 5000
      ∧ v.sup.mv = x.mv ∧ v.sup.ma = x.ma ∧ v.sup.watts = x.watts ∧ v.run.mode = s.run.mode)
  ∧ (∀ (x : PowerSample) (s : State), s.sup.ceiling ≤ s.ceilingMax x.mv →
    s.sup.ceiling - s.sup.slew ≤ s.nextCeiling x (x.mv * x.ma / 10000) ∧ s.nextCeiling x (x.mv * x.ma / 10000) ≤ s.sup.ceiling + s.sup.slew)
  ∧ (∀ (x : PowerSample) (s : State), s.sup.pwrEn = true → x.watts.length = 8 → x.temps.length = 20 → x.mems.length = 8 → 75000 < x.ma →
    ∃ v, exec (.governorSample x) s = .next v)
  ∧ (∀ (die : Nat) (s : State), s.sup.pwrEn = true → (isCDie die = true ∨ isMDie die = true ∨ isNDie die = true ∨ die = srcS) → exec (.thermalTrip die) s
    = .next ((((s.withSup { s.sup with hot := true }).log { code := 0x700A, source := die, alert := true }).alert 2).safetyTrip 0x700A))
  ∧ (∀ (s : State) (a : SafetyAsk) (rest : List SafetyAsk), s.sup.asks = a :: rest → a.item = 0 → 1200 ≤ a.value → a.value ≤ 3000 →
    exec .safetyRequest s = .next ((s.withSup { s.sup with asks := rest, cap := a.value }).answerAsk a { status := 0 }))
  ∧ (∀ (s s1 : State) (a : SafetyAsk) (rest : List SafetyAsk), s.sup.asks = a :: rest → s1 = s.withSup { s.sup with asks := rest } → s1.allows a = true →
    exec .safetyRequest s = .next ((s1.applyAsk a).answerAsk a { status := 0 }))
  ∧ (∀ (s s1 : State) (a : SafetyAsk) (rest : List SafetyAsk), s.sup.asks = a :: rest → s1 = s.withSup { s.sup with asks := rest } → s1.allows a = false →
    exec .safetyRequest s = .next ((s1.log { code := 0x700C, tenant := a.tenant.getD 0xFF, detail := leBytes 1 a.item ++ leBytes 4 a.value }).answerAsk a
      { status := 0x0203 }))
  ∧ (∀ (item : Nat) (value : BitVec 32) (s : State), exec (.safetyRegisterWrite item value) s
    = .next ((s.withSup { s.sup with refused := s.sup.refused + 1 }).log { code := 0x700C, detail := leBytes 1 item ++ leBytes 4 value.toNat }))
  ∧ (∀ (s : State) (e : NutEntry), s.nut.archiving = some e → exec .archiveDone s = .next ((s.withNut
      { s.nut with archiving := none, archives := ((e, s.nut.frozen) :: s.nut.archives).take 3, slot := (s.nut.slot + 1) % 3 }).log { code := 0x1012, detail := leBytes 1 s.nut.slot }))

/-- SMBus and JTAG (R466 to R468): reading the alert causes clears those that have ended, a write and an unlisted code change nothing, IDCODE and the
boundary scan shift out, and EXTEST is refused while PWR_EN is high. -/
def Obligations.Sideband : Prop :=
  (∀ (s : State), s.sup.standby = true → ∃ v, exec .alertCausesRead s = .next v ∧ v.alerts = s.alertsHeld ∧ v.sup = s.sup ∧ v.mem = s.mem ∧ v.run = s.run
    ∧ v.cores = s.cores)
  ∧ (∀ (code : Byte) (s : State), exec (.smbusWrite code) s = .next s)
  ∧ (∀ (code : Nat) (s : State), exec (.bypass code) s = .next s)
  ∧ (∀ (s : State), exec .idcode s = .next (s.emit (.jtag (leBytes 4 Config.jtagIdcode.toNat))))
  ∧ (∀ (s : State), exec .samplePreload s = .next (s.emit (.jtag (leBytes 2 s.pins))))
  ∧ (∀ (s : State), s.sup.pwrEn = true → exec .extest s = .next s)
  ∧ (∀ (s : State), s.sup.pwrEn = false → exec .extest s = .next (s.emit (.jtag (leBytes 2 s.pins))))

/-! ## Single rules, and the whole machine -/

/-- The frame parameters (R26): I is 10,000 and P is 1 at reset; FRAME_SET sets both; a value of I outside 1,000 to 50,000, or a P of 0, is rejected with
BAD_FIELD and leaves the parameters in force unchanged. -/
def Obligations.FrameRanges : Prop :=
  (State.reset.frame.interval = 10000 ∧ State.reset.frame.period = 1)
  ∧ (∀ (t : Nat) (p : Bytes) (s : State) (expert : Bool), s.ready (if expert then 0x8601 else 0x0601) t p → (s.passed (field p 0x10 8)).1 = false →
    (field p 0 4 < 1000 ∨ 50000 < field p 0 4 ∨ field p 4 2 = 0) →
    ∃ off, exec (if expert then .frameSetExpert t p else .frameSet t p) s = .next (s.respond t { status := 0x0103, detail := off })
      ∧ (s.respond t { status := 0x0103, detail := off }).frame = s.frame)
  ∧ (∀ (t : Nat) (p : Bytes) (s : State) (expert : Bool), s.ready (if expert then 0x8601 else 0x0601) t p → s.inRun = false → 1000 ≤ field p 0 4 →
    field p 0 4 ≤ 50000 → 1 ≤ field p 4 2 → p.drop 6 = zeros 18 → (stageFull s.frame.staged 0).1 = false →
    ∃ v, exec (if expert then .frameSetExpert t p else .frameSet t p) s = .next v ∧ v.frame.interval = field p 0 4 ∧ v.frame.period = field p 4 2)
  ∧ (∀ p : Bytes, field p 4 2 ≤ 65535)

/-- Words and core instructions correspond (R121 to R140): the word of every core instruction that PROGRAM_LOAD accepts decodes to it on its core, and a word
that decodes at all is the word of what it decodes to, so that no bit of an accepted word is without meaning. -/
def Obligations.CoreWordsRoundTrip : Prop :=
  (∀ (i : Instr) (w : Word), encodeWord i = some w → i.wellFormed = true → ∃ c, decodeWord c w = some i)
  ∧ (∀ (c : Nat) (i : Instr) (w : Word), decodeWord c w = some i → encodeWord i = some w ∧ i.wellFormed = true)
  ∧ (∀ (c : Nat) (i : Instr) (v w : Word), decodeWord c v = some i → decodeWord c w = some i → v = w)

/-- Commands run in the order they wait in, and a step neither drops nor adds one: a step that answers a next state leaves the queue without its front. -/
def Obligations.QueueInOrder : Prop := ∀ s t : State, Machine.step s = .next t → t.pending = s.pending.tail

/-- Every step keeps the memory of the module in canonical form: addresses rising, and no cell listed that holds what an unlisted address reads as. -/
def Obligations.MemoryFormKept : Prop := ∀ s t : State, s.memWf = true → Machine.step s = .next t → t.memWf = true

/-- No command stops the block: a step never answers a fault. -/
def Obligations.NoFaults : Prop := ∀ s : State, SafeStep s

/-- The state after reset (R13, R24, R87, R231, R379): nothing waits, memory lists nothing, the mode is IDLE, every core's status word has its capture mask
0x63 with no entry and no program, every object is at zero, no region, session or membership exists, and the eight active C-dies are those of the
die map. That the scalar, address and lane registers are zero is the model's choice (log entry 64). -/
def Obligations.ResetState : Prop :=
  State.reset.pending = [] ∧ State.reset.memWf = true ∧ State.reset.mem.cells = [] ∧ State.reset.dieMapLegal = true ∧ State.reset.run.mode = .idle
  ∧ (∀ c, (State.reset.core c).status = 0x00630000 ∧ (State.reset.core c).entry = none ∧ (State.reset.core c).prog = none ∧ (State.reset.core c).exc = none
      ∧ (∀ r, (State.reset.core c).s r = 0) ∧ (∀ r, (State.reset.core c).a r = 0) ∧ (∀ r l, (State.reset.core c).lane r l = 0))
  ∧ (∀ key, (State.reset.obj key).value = 0 ∧ (State.reset.obj key).poisoned = false)
  ∧ State.reset.mem.regions = [] ∧ State.reset.host.sessions = [] ∧ State.reset.member = none ∧ State.reset.clk.ref = 0
end

