-- ==== Sys2Proof/Laws/State.lean ====
section
/-!
SUPPORT. One lemma per field per update of the state: what `State.withX` leaves and what it sets.
-/

namespace Sys2Proof.Machine

@[simp] theorem State.withFresh_fresh (s : State) (x : Nat) : (s.withFresh x).fresh = x := rfl
@[simp] theorem State.withFresh_pending (s : State) (x : Nat) : (s.withFresh x).pending = s.pending := rfl
@[simp] theorem State.withFresh_sent (s : State) (x : Nat) : (s.withFresh x).sent = s.sent := rfl
@[simp] theorem State.withFresh_clk (s : State) (x : Nat) : (s.withFresh x).clk = s.clk := rfl
@[simp] theorem State.withFresh_frame (s : State) (x : Nat) : (s.withFresh x).frame = s.frame := rfl
@[simp] theorem State.withFresh_run (s : State) (x : Nat) : (s.withFresh x).run = s.run := rfl
@[simp] theorem State.withFresh_steps (s : State) (x : Nat) : (s.withFresh x).steps = s.steps := rfl
@[simp] theorem State.withFresh_num (s : State) (x : Nat) : (s.withFresh x).num = s.num := rfl
@[simp] theorem State.withFresh_ledger (s : State) (x : Nat) : (s.withFresh x).ledger = s.ledger := rfl
@[simp] theorem State.withFresh_cores (s : State) (x : Nat) : (s.withFresh x).cores = s.cores := rfl
@[simp] theorem State.withFresh_stagedImages (s : State) (x : Nat) : (s.withFresh x).stagedImages = s.stagedImages := rfl
@[simp] theorem State.withFresh_jobs (s : State) (x : Nat) : (s.withFresh x).jobs = s.jobs := rfl
@[simp] theorem State.withFresh_stagedJobs (s : State) (x : Nat) : (s.withFresh x).stagedJobs = s.stagedJobs := rfl
@[simp] theorem State.withFresh_dieMap (s : State) (x : Nat) : (s.withFresh x).dieMap = s.dieMap := rfl
@[simp] theorem State.withFresh_sync (s : State) (x : Nat) : (s.withFresh x).sync = s.sync := rfl
@[simp] theorem State.withFresh_syncWin (s : State) (x : Nat) : (s.withFresh x).syncWin = s.syncWin := rfl
@[simp] theorem State.withFresh_mem (s : State) (x : Nat) : (s.withFresh x).mem = s.mem := rfl
@[simp] theorem State.withFresh_member (s : State) (x : Nat) : (s.withFresh x).member = s.member := rfl
@[simp] theorem State.withFresh_routes (s : State) (x : Nat) : (s.withFresh x).routes = s.routes := rfl
@[simp] theorem State.withFresh_modId (s : State) (x : Nat) : (s.withFresh x).modId = s.modId := rfl
@[simp] theorem State.withFresh_slotId (s : State) (x : Nat) : (s.withFresh x).slotId = s.slotId := rfl
@[simp] theorem State.withFresh_fab (s : State) (x : Nat) : (s.withFresh x).fab = s.fab := rfl
@[simp] theorem State.withFresh_recov (s : State) (x : Nat) : (s.withFresh x).recov = s.recov := rfl
@[simp] theorem State.withFresh_evals (s : State) (x : Nat) : (s.withFresh x).evals = s.evals := rfl
@[simp] theorem State.withFresh_host (s : State) (x : Nat) : (s.withFresh x).host = s.host := rfl
@[simp] theorem State.withFresh_ckpt (s : State) (x : Nat) : (s.withFresh x).ckpt = s.ckpt := rfl
@[simp] theorem State.withFresh_sup (s : State) (x : Nat) : (s.withFresh x).sup = s.sup := rfl
@[simp] theorem State.withFresh_nut (s : State) (x : Nat) : (s.withFresh x).nut = s.nut := rfl
@[simp] theorem State.withFresh_alerts (s : State) (x : Nat) : (s.withFresh x).alerts = s.alerts := rfl
@[simp] theorem State.withPending_fresh (s : State) (x : List Instr) : (s.withPending x).fresh = s.fresh := rfl
@[simp] theorem State.withPending_pending (s : State) (x : List Instr) : (s.withPending x).pending = x := rfl
@[simp] theorem State.withPending_sent (s : State) (x : List Instr) : (s.withPending x).sent = s.sent := rfl
@[simp] theorem State.withPending_clk (s : State) (x : List Instr) : (s.withPending x).clk = s.clk := rfl
@[simp] theorem State.withPending_frame (s : State) (x : List Instr) : (s.withPending x).frame = s.frame := rfl
@[simp] theorem State.withPending_run (s : State) (x : List Instr) : (s.withPending x).run = s.run := rfl
@[simp] theorem State.withPending_steps (s : State) (x : List Instr) : (s.withPending x).steps = s.steps := rfl
@[simp] theorem State.withPending_num (s : State) (x : List Instr) : (s.withPending x).num = s.num := rfl
@[simp] theorem State.withPending_ledger (s : State) (x : List Instr) : (s.withPending x).ledger = s.ledger := rfl
@[simp] theorem State.withPending_cores (s : State) (x : List Instr) : (s.withPending x).cores = s.cores := rfl
@[simp] theorem State.withPending_stagedImages (s : State) (x : List Instr) : (s.withPending x).stagedImages = s.stagedImages := rfl
@[simp] theorem State.withPending_jobs (s : State) (x : List Instr) : (s.withPending x).jobs = s.jobs := rfl
@[simp] theorem State.withPending_stagedJobs (s : State) (x : List Instr) : (s.withPending x).stagedJobs = s.stagedJobs := rfl
@[simp] theorem State.withPending_dieMap (s : State) (x : List Instr) : (s.withPending x).dieMap = s.dieMap := rfl
@[simp] theorem State.withPending_sync (s : State) (x : List Instr) : (s.withPending x).sync = s.sync := rfl
@[simp] theorem State.withPending_syncWin (s : State) (x : List Instr) : (s.withPending x).syncWin = s.syncWin := rfl
@[simp] theorem State.withPending_mem (s : State) (x : List Instr) : (s.withPending x).mem = s.mem := rfl
@[simp] theorem State.withPending_member (s : State) (x : List Instr) : (s.withPending x).member = s.member := rfl
@[simp] theorem State.withPending_routes (s : State) (x : List Instr) : (s.withPending x).routes = s.routes := rfl
@[simp] theorem State.withPending_modId (s : State) (x : List Instr) : (s.withPending x).modId = s.modId := rfl
@[simp] theorem State.withPending_slotId (s : State) (x : List Instr) : (s.withPending x).slotId = s.slotId := rfl
@[simp] theorem State.withPending_fab (s : State) (x : List Instr) : (s.withPending x).fab = s.fab := rfl
@[simp] theorem State.withPending_recov (s : State) (x : List Instr) : (s.withPending x).recov = s.recov := rfl
@[simp] theorem State.withPending_evals (s : State) (x : List Instr) : (s.withPending x).evals = s.evals := rfl
@[simp] theorem State.withPending_host (s : State) (x : List Instr) : (s.withPending x).host = s.host := rfl
@[simp] theorem State.withPending_ckpt (s : State) (x : List Instr) : (s.withPending x).ckpt = s.ckpt := rfl
@[simp] theorem State.withPending_sup (s : State) (x : List Instr) : (s.withPending x).sup = s.sup := rfl
@[simp] theorem State.withPending_nut (s : State) (x : List Instr) : (s.withPending x).nut = s.nut := rfl
@[simp] theorem State.withPending_alerts (s : State) (x : List Instr) : (s.withPending x).alerts = s.alerts := rfl
@[simp] theorem State.withSent_fresh (s : State) (x : List Sent) : (s.withSent x).fresh = s.fresh := rfl
@[simp] theorem State.withSent_pending (s : State) (x : List Sent) : (s.withSent x).pending = s.pending := rfl
@[simp] theorem State.withSent_sent (s : State) (x : List Sent) : (s.withSent x).sent = x := rfl
@[simp] theorem State.withSent_clk (s : State) (x : List Sent) : (s.withSent x).clk = s.clk := rfl
@[simp] theorem State.withSent_frame (s : State) (x : List Sent) : (s.withSent x).frame = s.frame := rfl
@[simp] theorem State.withSent_run (s : State) (x : List Sent) : (s.withSent x).run = s.run := rfl
@[simp] theorem State.withSent_steps (s : State) (x : List Sent) : (s.withSent x).steps = s.steps := rfl
@[simp] theorem State.withSent_num (s : State) (x : List Sent) : (s.withSent x).num = s.num := rfl
@[simp] theorem State.withSent_ledger (s : State) (x : List Sent) : (s.withSent x).ledger = s.ledger := rfl
@[simp] theorem State.withSent_cores (s : State) (x : List Sent) : (s.withSent x).cores = s.cores := rfl
@[simp] theorem State.withSent_stagedImages (s : State) (x : List Sent) : (s.withSent x).stagedImages = s.stagedImages := rfl
@[simp] theorem State.withSent_jobs (s : State) (x : List Sent) : (s.withSent x).jobs = s.jobs := rfl
@[simp] theorem State.withSent_stagedJobs (s : State) (x : List Sent) : (s.withSent x).stagedJobs = s.stagedJobs := rfl
@[simp] theorem State.withSent_dieMap (s : State) (x : List Sent) : (s.withSent x).dieMap = s.dieMap := rfl
@[simp] theorem State.withSent_sync (s : State) (x : List Sent) : (s.withSent x).sync = s.sync := rfl
@[simp] theorem State.withSent_syncWin (s : State) (x : List Sent) : (s.withSent x).syncWin = s.syncWin := rfl
@[simp] theorem State.withSent_mem (s : State) (x : List Sent) : (s.withSent x).mem = s.mem := rfl
@[simp] theorem State.withSent_member (s : State) (x : List Sent) : (s.withSent x).member = s.member := rfl
@[simp] theorem State.withSent_routes (s : State) (x : List Sent) : (s.withSent x).routes = s.routes := rfl
@[simp] theorem State.withSent_modId (s : State) (x : List Sent) : (s.withSent x).modId = s.modId := rfl
@[simp] theorem State.withSent_slotId (s : State) (x : List Sent) : (s.withSent x).slotId = s.slotId := rfl
@[simp] theorem State.withSent_fab (s : State) (x : List Sent) : (s.withSent x).fab = s.fab := rfl
@[simp] theorem State.withSent_recov (s : State) (x : List Sent) : (s.withSent x).recov = s.recov := rfl
@[simp] theorem State.withSent_evals (s : State) (x : List Sent) : (s.withSent x).evals = s.evals := rfl
@[simp] theorem State.withSent_host (s : State) (x : List Sent) : (s.withSent x).host = s.host := rfl
@[simp] theorem State.withSent_ckpt (s : State) (x : List Sent) : (s.withSent x).ckpt = s.ckpt := rfl
@[simp] theorem State.withSent_sup (s : State) (x : List Sent) : (s.withSent x).sup = s.sup := rfl
@[simp] theorem State.withSent_nut (s : State) (x : List Sent) : (s.withSent x).nut = s.nut := rfl
@[simp] theorem State.withSent_alerts (s : State) (x : List Sent) : (s.withSent x).alerts = s.alerts := rfl
@[simp] theorem State.withClk_fresh (s : State) (x : Clock) : (s.withClk x).fresh = s.fresh := rfl
@[simp] theorem State.withClk_pending (s : State) (x : Clock) : (s.withClk x).pending = s.pending := rfl
@[simp] theorem State.withClk_sent (s : State) (x : Clock) : (s.withClk x).sent = s.sent := rfl
@[simp] theorem State.withClk_clk (s : State) (x : Clock) : (s.withClk x).clk = x := rfl
@[simp] theorem State.withClk_frame (s : State) (x : Clock) : (s.withClk x).frame = s.frame := rfl
@[simp] theorem State.withClk_run (s : State) (x : Clock) : (s.withClk x).run = s.run := rfl
@[simp] theorem State.withClk_steps (s : State) (x : Clock) : (s.withClk x).steps = s.steps := rfl
@[simp] theorem State.withClk_num (s : State) (x : Clock) : (s.withClk x).num = s.num := rfl
@[simp] theorem State.withClk_ledger (s : State) (x : Clock) : (s.withClk x).ledger = s.ledger := rfl
@[simp] theorem State.withClk_cores (s : State) (x : Clock) : (s.withClk x).cores = s.cores := rfl
@[simp] theorem State.withClk_stagedImages (s : State) (x : Clock) : (s.withClk x).stagedImages = s.stagedImages := rfl
@[simp] theorem State.withClk_jobs (s : State) (x : Clock) : (s.withClk x).jobs = s.jobs := rfl
@[simp] theorem State.withClk_stagedJobs (s : State) (x : Clock) : (s.withClk x).stagedJobs = s.stagedJobs := rfl
@[simp] theorem State.withClk_dieMap (s : State) (x : Clock) : (s.withClk x).dieMap = s.dieMap := rfl
@[simp] theorem State.withClk_sync (s : State) (x : Clock) : (s.withClk x).sync = s.sync := rfl
@[simp] theorem State.withClk_syncWin (s : State) (x : Clock) : (s.withClk x).syncWin = s.syncWin := rfl
@[simp] theorem State.withClk_mem (s : State) (x : Clock) : (s.withClk x).mem = s.mem := rfl
@[simp] theorem State.withClk_member (s : State) (x : Clock) : (s.withClk x).member = s.member := rfl
@[simp] theorem State.withClk_routes (s : State) (x : Clock) : (s.withClk x).routes = s.routes := rfl
@[simp] theorem State.withClk_modId (s : State) (x : Clock) : (s.withClk x).modId = s.modId := rfl
@[simp] theorem State.withClk_slotId (s : State) (x : Clock) : (s.withClk x).slotId = s.slotId := rfl
@[simp] theorem State.withClk_fab (s : State) (x : Clock) : (s.withClk x).fab = s.fab := rfl
@[simp] theorem State.withClk_recov (s : State) (x : Clock) : (s.withClk x).recov = s.recov := rfl
@[simp] theorem State.withClk_evals (s : State) (x : Clock) : (s.withClk x).evals = s.evals := rfl
@[simp] theorem State.withClk_host (s : State) (x : Clock) : (s.withClk x).host = s.host := rfl
@[simp] theorem State.withClk_ckpt (s : State) (x : Clock) : (s.withClk x).ckpt = s.ckpt := rfl
@[simp] theorem State.withClk_sup (s : State) (x : Clock) : (s.withClk x).sup = s.sup := rfl
@[simp] theorem State.withClk_nut (s : State) (x : Clock) : (s.withClk x).nut = s.nut := rfl
@[simp] theorem State.withClk_alerts (s : State) (x : Clock) : (s.withClk x).alerts = s.alerts := rfl
@[simp] theorem State.withFrame_fresh (s : State) (x : Frame) : (s.withFrame x).fresh = s.fresh := rfl
@[simp] theorem State.withFrame_pending (s : State) (x : Frame) : (s.withFrame x).pending = s.pending := rfl
@[simp] theorem State.withFrame_sent (s : State) (x : Frame) : (s.withFrame x).sent = s.sent := rfl
@[simp] theorem State.withFrame_clk (s : State) (x : Frame) : (s.withFrame x).clk = s.clk := rfl
@[simp] theorem State.withFrame_frame (s : State) (x : Frame) : (s.withFrame x).frame = x := rfl
@[simp] theorem State.withFrame_run (s : State) (x : Frame) : (s.withFrame x).run = s.run := rfl
@[simp] theorem State.withFrame_steps (s : State) (x : Frame) : (s.withFrame x).steps = s.steps := rfl
@[simp] theorem State.withFrame_num (s : State) (x : Frame) : (s.withFrame x).num = s.num := rfl
@[simp] theorem State.withFrame_ledger (s : State) (x : Frame) : (s.withFrame x).ledger = s.ledger := rfl
@[simp] theorem State.withFrame_cores (s : State) (x : Frame) : (s.withFrame x).cores = s.cores := rfl
@[simp] theorem State.withFrame_stagedImages (s : State) (x : Frame) : (s.withFrame x).stagedImages = s.stagedImages := rfl
@[simp] theorem State.withFrame_jobs (s : State) (x : Frame) : (s.withFrame x).jobs = s.jobs := rfl
@[simp] theorem State.withFrame_stagedJobs (s : State) (x : Frame) : (s.withFrame x).stagedJobs = s.stagedJobs := rfl
@[simp] theorem State.withFrame_dieMap (s : State) (x : Frame) : (s.withFrame x).dieMap = s.dieMap := rfl
@[simp] theorem State.withFrame_sync (s : State) (x : Frame) : (s.withFrame x).sync = s.sync := rfl
@[simp] theorem State.withFrame_syncWin (s : State) (x : Frame) : (s.withFrame x).syncWin = s.syncWin := rfl
@[simp] theorem State.withFrame_mem (s : State) (x : Frame) : (s.withFrame x).mem = s.mem := rfl
@[simp] theorem State.withFrame_member (s : State) (x : Frame) : (s.withFrame x).member = s.member := rfl
@[simp] theorem State.withFrame_routes (s : State) (x : Frame) : (s.withFrame x).routes = s.routes := rfl
@[simp] theorem State.withFrame_modId (s : State) (x : Frame) : (s.withFrame x).modId = s.modId := rfl
@[simp] theorem State.withFrame_slotId (s : State) (x : Frame) : (s.withFrame x).slotId = s.slotId := rfl
@[simp] theorem State.withFrame_fab (s : State) (x : Frame) : (s.withFrame x).fab = s.fab := rfl
@[simp] theorem State.withFrame_recov (s : State) (x : Frame) : (s.withFrame x).recov = s.recov := rfl
@[simp] theorem State.withFrame_evals (s : State) (x : Frame) : (s.withFrame x).evals = s.evals := rfl
@[simp] theorem State.withFrame_host (s : State) (x : Frame) : (s.withFrame x).host = s.host := rfl
@[simp] theorem State.withFrame_ckpt (s : State) (x : Frame) : (s.withFrame x).ckpt = s.ckpt := rfl
@[simp] theorem State.withFrame_sup (s : State) (x : Frame) : (s.withFrame x).sup = s.sup := rfl
@[simp] theorem State.withFrame_nut (s : State) (x : Frame) : (s.withFrame x).nut = s.nut := rfl
@[simp] theorem State.withFrame_alerts (s : State) (x : Frame) : (s.withFrame x).alerts = s.alerts := rfl
@[simp] theorem State.withRun_fresh (s : State) (x : Run) : (s.withRun x).fresh = s.fresh := rfl
@[simp] theorem State.withRun_pending (s : State) (x : Run) : (s.withRun x).pending = s.pending := rfl
@[simp] theorem State.withRun_sent (s : State) (x : Run) : (s.withRun x).sent = s.sent := rfl
@[simp] theorem State.withRun_clk (s : State) (x : Run) : (s.withRun x).clk = s.clk := rfl
@[simp] theorem State.withRun_frame (s : State) (x : Run) : (s.withRun x).frame = s.frame := rfl
@[simp] theorem State.withRun_run (s : State) (x : Run) : (s.withRun x).run = x := rfl
@[simp] theorem State.withRun_steps (s : State) (x : Run) : (s.withRun x).steps = s.steps := rfl
@[simp] theorem State.withRun_num (s : State) (x : Run) : (s.withRun x).num = s.num := rfl
@[simp] theorem State.withRun_ledger (s : State) (x : Run) : (s.withRun x).ledger = s.ledger := rfl
@[simp] theorem State.withRun_cores (s : State) (x : Run) : (s.withRun x).cores = s.cores := rfl
@[simp] theorem State.withRun_stagedImages (s : State) (x : Run) : (s.withRun x).stagedImages = s.stagedImages := rfl
@[simp] theorem State.withRun_jobs (s : State) (x : Run) : (s.withRun x).jobs = s.jobs := rfl
@[simp] theorem State.withRun_stagedJobs (s : State) (x : Run) : (s.withRun x).stagedJobs = s.stagedJobs := rfl
@[simp] theorem State.withRun_dieMap (s : State) (x : Run) : (s.withRun x).dieMap = s.dieMap := rfl
@[simp] theorem State.withRun_sync (s : State) (x : Run) : (s.withRun x).sync = s.sync := rfl
@[simp] theorem State.withRun_syncWin (s : State) (x : Run) : (s.withRun x).syncWin = s.syncWin := rfl
@[simp] theorem State.withRun_mem (s : State) (x : Run) : (s.withRun x).mem = s.mem := rfl
@[simp] theorem State.withRun_member (s : State) (x : Run) : (s.withRun x).member = s.member := rfl
@[simp] theorem State.withRun_routes (s : State) (x : Run) : (s.withRun x).routes = s.routes := rfl
@[simp] theorem State.withRun_modId (s : State) (x : Run) : (s.withRun x).modId = s.modId := rfl
@[simp] theorem State.withRun_slotId (s : State) (x : Run) : (s.withRun x).slotId = s.slotId := rfl
@[simp] theorem State.withRun_fab (s : State) (x : Run) : (s.withRun x).fab = s.fab := rfl
@[simp] theorem State.withRun_recov (s : State) (x : Run) : (s.withRun x).recov = s.recov := rfl
@[simp] theorem State.withRun_evals (s : State) (x : Run) : (s.withRun x).evals = s.evals := rfl
@[simp] theorem State.withRun_host (s : State) (x : Run) : (s.withRun x).host = s.host := rfl
@[simp] theorem State.withRun_ckpt (s : State) (x : Run) : (s.withRun x).ckpt = s.ckpt := rfl
@[simp] theorem State.withRun_sup (s : State) (x : Run) : (s.withRun x).sup = s.sup := rfl
@[simp] theorem State.withRun_nut (s : State) (x : Run) : (s.withRun x).nut = s.nut := rfl
@[simp] theorem State.withRun_alerts (s : State) (x : Run) : (s.withRun x).alerts = s.alerts := rfl
@[simp] theorem State.withSteps_fresh (s : State) (x : SMap StepRec) : (s.withSteps x).fresh = s.fresh := rfl
@[simp] theorem State.withSteps_pending (s : State) (x : SMap StepRec) : (s.withSteps x).pending = s.pending := rfl
@[simp] theorem State.withSteps_sent (s : State) (x : SMap StepRec) : (s.withSteps x).sent = s.sent := rfl
@[simp] theorem State.withSteps_clk (s : State) (x : SMap StepRec) : (s.withSteps x).clk = s.clk := rfl
@[simp] theorem State.withSteps_frame (s : State) (x : SMap StepRec) : (s.withSteps x).frame = s.frame := rfl
@[simp] theorem State.withSteps_run (s : State) (x : SMap StepRec) : (s.withSteps x).run = s.run := rfl
@[simp] theorem State.withSteps_steps (s : State) (x : SMap StepRec) : (s.withSteps x).steps = x := rfl
@[simp] theorem State.withSteps_num (s : State) (x : SMap StepRec) : (s.withSteps x).num = s.num := rfl
@[simp] theorem State.withSteps_ledger (s : State) (x : SMap StepRec) : (s.withSteps x).ledger = s.ledger := rfl
@[simp] theorem State.withSteps_cores (s : State) (x : SMap StepRec) : (s.withSteps x).cores = s.cores := rfl
@[simp] theorem State.withSteps_stagedImages (s : State) (x : SMap StepRec) : (s.withSteps x).stagedImages = s.stagedImages := rfl
@[simp] theorem State.withSteps_jobs (s : State) (x : SMap StepRec) : (s.withSteps x).jobs = s.jobs := rfl
@[simp] theorem State.withSteps_stagedJobs (s : State) (x : SMap StepRec) : (s.withSteps x).stagedJobs = s.stagedJobs := rfl
@[simp] theorem State.withSteps_dieMap (s : State) (x : SMap StepRec) : (s.withSteps x).dieMap = s.dieMap := rfl
@[simp] theorem State.withSteps_sync (s : State) (x : SMap StepRec) : (s.withSteps x).sync = s.sync := rfl
@[simp] theorem State.withSteps_syncWin (s : State) (x : SMap StepRec) : (s.withSteps x).syncWin = s.syncWin := rfl
@[simp] theorem State.withSteps_mem (s : State) (x : SMap StepRec) : (s.withSteps x).mem = s.mem := rfl
@[simp] theorem State.withSteps_member (s : State) (x : SMap StepRec) : (s.withSteps x).member = s.member := rfl
@[simp] theorem State.withSteps_routes (s : State) (x : SMap StepRec) : (s.withSteps x).routes = s.routes := rfl
@[simp] theorem State.withSteps_modId (s : State) (x : SMap StepRec) : (s.withSteps x).modId = s.modId := rfl
@[simp] theorem State.withSteps_slotId (s : State) (x : SMap StepRec) : (s.withSteps x).slotId = s.slotId := rfl
@[simp] theorem State.withSteps_fab (s : State) (x : SMap StepRec) : (s.withSteps x).fab = s.fab := rfl
@[simp] theorem State.withSteps_recov (s : State) (x : SMap StepRec) : (s.withSteps x).recov = s.recov := rfl
@[simp] theorem State.withSteps_evals (s : State) (x : SMap StepRec) : (s.withSteps x).evals = s.evals := rfl
@[simp] theorem State.withSteps_host (s : State) (x : SMap StepRec) : (s.withSteps x).host = s.host := rfl
@[simp] theorem State.withSteps_ckpt (s : State) (x : SMap StepRec) : (s.withSteps x).ckpt = s.ckpt := rfl
@[simp] theorem State.withSteps_sup (s : State) (x : SMap StepRec) : (s.withSteps x).sup = s.sup := rfl
@[simp] theorem State.withSteps_nut (s : State) (x : SMap StepRec) : (s.withSteps x).nut = s.nut := rfl
@[simp] theorem State.withSteps_alerts (s : State) (x : SMap StepRec) : (s.withSteps x).alerts = s.alerts := rfl
@[simp] theorem State.withNum_fresh (s : State) (x : Numerics) : (s.withNum x).fresh = s.fresh := rfl
@[simp] theorem State.withNum_pending (s : State) (x : Numerics) : (s.withNum x).pending = s.pending := rfl
@[simp] theorem State.withNum_sent (s : State) (x : Numerics) : (s.withNum x).sent = s.sent := rfl
@[simp] theorem State.withNum_clk (s : State) (x : Numerics) : (s.withNum x).clk = s.clk := rfl
@[simp] theorem State.withNum_frame (s : State) (x : Numerics) : (s.withNum x).frame = s.frame := rfl
@[simp] theorem State.withNum_run (s : State) (x : Numerics) : (s.withNum x).run = s.run := rfl
@[simp] theorem State.withNum_steps (s : State) (x : Numerics) : (s.withNum x).steps = s.steps := rfl
@[simp] theorem State.withNum_num (s : State) (x : Numerics) : (s.withNum x).num = x := rfl
@[simp] theorem State.withNum_ledger (s : State) (x : Numerics) : (s.withNum x).ledger = s.ledger := rfl
@[simp] theorem State.withNum_cores (s : State) (x : Numerics) : (s.withNum x).cores = s.cores := rfl
@[simp] theorem State.withNum_stagedImages (s : State) (x : Numerics) : (s.withNum x).stagedImages = s.stagedImages := rfl
@[simp] theorem State.withNum_jobs (s : State) (x : Numerics) : (s.withNum x).jobs = s.jobs := rfl
@[simp] theorem State.withNum_stagedJobs (s : State) (x : Numerics) : (s.withNum x).stagedJobs = s.stagedJobs := rfl
@[simp] theorem State.withNum_dieMap (s : State) (x : Numerics) : (s.withNum x).dieMap = s.dieMap := rfl
@[simp] theorem State.withNum_sync (s : State) (x : Numerics) : (s.withNum x).sync = s.sync := rfl
@[simp] theorem State.withNum_syncWin (s : State) (x : Numerics) : (s.withNum x).syncWin = s.syncWin := rfl
@[simp] theorem State.withNum_mem (s : State) (x : Numerics) : (s.withNum x).mem = s.mem := rfl
@[simp] theorem State.withNum_member (s : State) (x : Numerics) : (s.withNum x).member = s.member := rfl
@[simp] theorem State.withNum_routes (s : State) (x : Numerics) : (s.withNum x).routes = s.routes := rfl
@[simp] theorem State.withNum_modId (s : State) (x : Numerics) : (s.withNum x).modId = s.modId := rfl
@[simp] theorem State.withNum_slotId (s : State) (x : Numerics) : (s.withNum x).slotId = s.slotId := rfl
@[simp] theorem State.withNum_fab (s : State) (x : Numerics) : (s.withNum x).fab = s.fab := rfl
@[simp] theorem State.withNum_recov (s : State) (x : Numerics) : (s.withNum x).recov = s.recov := rfl
@[simp] theorem State.withNum_evals (s : State) (x : Numerics) : (s.withNum x).evals = s.evals := rfl
@[simp] theorem State.withNum_host (s : State) (x : Numerics) : (s.withNum x).host = s.host := rfl
@[simp] theorem State.withNum_ckpt (s : State) (x : Numerics) : (s.withNum x).ckpt = s.ckpt := rfl
@[simp] theorem State.withNum_sup (s : State) (x : Numerics) : (s.withNum x).sup = s.sup := rfl
@[simp] theorem State.withNum_nut (s : State) (x : Numerics) : (s.withNum x).nut = s.nut := rfl
@[simp] theorem State.withNum_alerts (s : State) (x : Numerics) : (s.withNum x).alerts = s.alerts := rfl
@[simp] theorem State.withLedger_fresh (s : State) (x : Ledger) : (s.withLedger x).fresh = s.fresh := rfl
@[simp] theorem State.withLedger_pending (s : State) (x : Ledger) : (s.withLedger x).pending = s.pending := rfl
@[simp] theorem State.withLedger_sent (s : State) (x : Ledger) : (s.withLedger x).sent = s.sent := rfl
@[simp] theorem State.withLedger_clk (s : State) (x : Ledger) : (s.withLedger x).clk = s.clk := rfl
@[simp] theorem State.withLedger_frame (s : State) (x : Ledger) : (s.withLedger x).frame = s.frame := rfl
@[simp] theorem State.withLedger_run (s : State) (x : Ledger) : (s.withLedger x).run = s.run := rfl
@[simp] theorem State.withLedger_steps (s : State) (x : Ledger) : (s.withLedger x).steps = s.steps := rfl
@[simp] theorem State.withLedger_num (s : State) (x : Ledger) : (s.withLedger x).num = s.num := rfl
@[simp] theorem State.withLedger_ledger (s : State) (x : Ledger) : (s.withLedger x).ledger = x := rfl
@[simp] theorem State.withLedger_cores (s : State) (x : Ledger) : (s.withLedger x).cores = s.cores := rfl
@[simp] theorem State.withLedger_stagedImages (s : State) (x : Ledger) : (s.withLedger x).stagedImages = s.stagedImages := rfl
@[simp] theorem State.withLedger_jobs (s : State) (x : Ledger) : (s.withLedger x).jobs = s.jobs := rfl
@[simp] theorem State.withLedger_stagedJobs (s : State) (x : Ledger) : (s.withLedger x).stagedJobs = s.stagedJobs := rfl
@[simp] theorem State.withLedger_dieMap (s : State) (x : Ledger) : (s.withLedger x).dieMap = s.dieMap := rfl
@[simp] theorem State.withLedger_sync (s : State) (x : Ledger) : (s.withLedger x).sync = s.sync := rfl
@[simp] theorem State.withLedger_syncWin (s : State) (x : Ledger) : (s.withLedger x).syncWin = s.syncWin := rfl
@[simp] theorem State.withLedger_mem (s : State) (x : Ledger) : (s.withLedger x).mem = s.mem := rfl
@[simp] theorem State.withLedger_member (s : State) (x : Ledger) : (s.withLedger x).member = s.member := rfl
@[simp] theorem State.withLedger_routes (s : State) (x : Ledger) : (s.withLedger x).routes = s.routes := rfl
@[simp] theorem State.withLedger_modId (s : State) (x : Ledger) : (s.withLedger x).modId = s.modId := rfl
@[simp] theorem State.withLedger_slotId (s : State) (x : Ledger) : (s.withLedger x).slotId = s.slotId := rfl
@[simp] theorem State.withLedger_fab (s : State) (x : Ledger) : (s.withLedger x).fab = s.fab := rfl
@[simp] theorem State.withLedger_recov (s : State) (x : Ledger) : (s.withLedger x).recov = s.recov := rfl
@[simp] theorem State.withLedger_evals (s : State) (x : Ledger) : (s.withLedger x).evals = s.evals := rfl
@[simp] theorem State.withLedger_host (s : State) (x : Ledger) : (s.withLedger x).host = s.host := rfl
@[simp] theorem State.withLedger_ckpt (s : State) (x : Ledger) : (s.withLedger x).ckpt = s.ckpt := rfl
@[simp] theorem State.withLedger_sup (s : State) (x : Ledger) : (s.withLedger x).sup = s.sup := rfl
@[simp] theorem State.withLedger_nut (s : State) (x : Ledger) : (s.withLedger x).nut = s.nut := rfl
@[simp] theorem State.withLedger_alerts (s : State) (x : Ledger) : (s.withLedger x).alerts = s.alerts := rfl
@[simp] theorem State.withCores_fresh (s : State) (x : SMap Core) : (s.withCores x).fresh = s.fresh := rfl
@[simp] theorem State.withCores_pending (s : State) (x : SMap Core) : (s.withCores x).pending = s.pending := rfl
@[simp] theorem State.withCores_sent (s : State) (x : SMap Core) : (s.withCores x).sent = s.sent := rfl
@[simp] theorem State.withCores_clk (s : State) (x : SMap Core) : (s.withCores x).clk = s.clk := rfl
@[simp] theorem State.withCores_frame (s : State) (x : SMap Core) : (s.withCores x).frame = s.frame := rfl
@[simp] theorem State.withCores_run (s : State) (x : SMap Core) : (s.withCores x).run = s.run := rfl
@[simp] theorem State.withCores_steps (s : State) (x : SMap Core) : (s.withCores x).steps = s.steps := rfl
@[simp] theorem State.withCores_num (s : State) (x : SMap Core) : (s.withCores x).num = s.num := rfl
@[simp] theorem State.withCores_ledger (s : State) (x : SMap Core) : (s.withCores x).ledger = s.ledger := rfl
@[simp] theorem State.withCores_cores (s : State) (x : SMap Core) : (s.withCores x).cores = x := rfl
@[simp] theorem State.withCores_stagedImages (s : State) (x : SMap Core) : (s.withCores x).stagedImages = s.stagedImages := rfl
@[simp] theorem State.withCores_jobs (s : State) (x : SMap Core) : (s.withCores x).jobs = s.jobs := rfl
@[simp] theorem State.withCores_stagedJobs (s : State) (x : SMap Core) : (s.withCores x).stagedJobs = s.stagedJobs := rfl
@[simp] theorem State.withCores_dieMap (s : State) (x : SMap Core) : (s.withCores x).dieMap = s.dieMap := rfl
@[simp] theorem State.withCores_sync (s : State) (x : SMap Core) : (s.withCores x).sync = s.sync := rfl
@[simp] theorem State.withCores_syncWin (s : State) (x : SMap Core) : (s.withCores x).syncWin = s.syncWin := rfl
@[simp] theorem State.withCores_mem (s : State) (x : SMap Core) : (s.withCores x).mem = s.mem := rfl
@[simp] theorem State.withCores_member (s : State) (x : SMap Core) : (s.withCores x).member = s.member := rfl
@[simp] theorem State.withCores_routes (s : State) (x : SMap Core) : (s.withCores x).routes = s.routes := rfl
@[simp] theorem State.withCores_modId (s : State) (x : SMap Core) : (s.withCores x).modId = s.modId := rfl
@[simp] theorem State.withCores_slotId (s : State) (x : SMap Core) : (s.withCores x).slotId = s.slotId := rfl
@[simp] theorem State.withCores_fab (s : State) (x : SMap Core) : (s.withCores x).fab = s.fab := rfl
@[simp] theorem State.withCores_recov (s : State) (x : SMap Core) : (s.withCores x).recov = s.recov := rfl
@[simp] theorem State.withCores_evals (s : State) (x : SMap Core) : (s.withCores x).evals = s.evals := rfl
@[simp] theorem State.withCores_host (s : State) (x : SMap Core) : (s.withCores x).host = s.host := rfl
@[simp] theorem State.withCores_ckpt (s : State) (x : SMap Core) : (s.withCores x).ckpt = s.ckpt := rfl
@[simp] theorem State.withCores_sup (s : State) (x : SMap Core) : (s.withCores x).sup = s.sup := rfl
@[simp] theorem State.withCores_nut (s : State) (x : SMap Core) : (s.withCores x).nut = s.nut := rfl
@[simp] theorem State.withCores_alerts (s : State) (x : SMap Core) : (s.withCores x).alerts = s.alerts := rfl
@[simp] theorem State.withStagedImages_fresh (s : State) (x : List StagedImage) : (s.withStagedImages x).fresh = s.fresh := rfl
@[simp] theorem State.withStagedImages_pending (s : State) (x : List StagedImage) : (s.withStagedImages x).pending = s.pending := rfl
@[simp] theorem State.withStagedImages_sent (s : State) (x : List StagedImage) : (s.withStagedImages x).sent = s.sent := rfl
@[simp] theorem State.withStagedImages_clk (s : State) (x : List StagedImage) : (s.withStagedImages x).clk = s.clk := rfl
@[simp] theorem State.withStagedImages_frame (s : State) (x : List StagedImage) : (s.withStagedImages x).frame = s.frame := rfl
@[simp] theorem State.withStagedImages_run (s : State) (x : List StagedImage) : (s.withStagedImages x).run = s.run := rfl
@[simp] theorem State.withStagedImages_steps (s : State) (x : List StagedImage) : (s.withStagedImages x).steps = s.steps := rfl
@[simp] theorem State.withStagedImages_num (s : State) (x : List StagedImage) : (s.withStagedImages x).num = s.num := rfl
@[simp] theorem State.withStagedImages_ledger (s : State) (x : List StagedImage) : (s.withStagedImages x).ledger = s.ledger := rfl
@[simp] theorem State.withStagedImages_cores (s : State) (x : List StagedImage) : (s.withStagedImages x).cores = s.cores := rfl
@[simp] theorem State.withStagedImages_stagedImages (s : State) (x : List StagedImage) : (s.withStagedImages x).stagedImages = x := rfl
@[simp] theorem State.withStagedImages_jobs (s : State) (x : List StagedImage) : (s.withStagedImages x).jobs = s.jobs := rfl
@[simp] theorem State.withStagedImages_stagedJobs (s : State) (x : List StagedImage) : (s.withStagedImages x).stagedJobs = s.stagedJobs := rfl
@[simp] theorem State.withStagedImages_dieMap (s : State) (x : List StagedImage) : (s.withStagedImages x).dieMap = s.dieMap := rfl
@[simp] theorem State.withStagedImages_sync (s : State) (x : List StagedImage) : (s.withStagedImages x).sync = s.sync := rfl
@[simp] theorem State.withStagedImages_syncWin (s : State) (x : List StagedImage) : (s.withStagedImages x).syncWin = s.syncWin := rfl
@[simp] theorem State.withStagedImages_mem (s : State) (x : List StagedImage) : (s.withStagedImages x).mem = s.mem := rfl
@[simp] theorem State.withStagedImages_member (s : State) (x : List StagedImage) : (s.withStagedImages x).member = s.member := rfl
@[simp] theorem State.withStagedImages_routes (s : State) (x : List StagedImage) : (s.withStagedImages x).routes = s.routes := rfl
@[simp] theorem State.withStagedImages_modId (s : State) (x : List StagedImage) : (s.withStagedImages x).modId = s.modId := rfl
@[simp] theorem State.withStagedImages_slotId (s : State) (x : List StagedImage) : (s.withStagedImages x).slotId = s.slotId := rfl
@[simp] theorem State.withStagedImages_fab (s : State) (x : List StagedImage) : (s.withStagedImages x).fab = s.fab := rfl
@[simp] theorem State.withStagedImages_recov (s : State) (x : List StagedImage) : (s.withStagedImages x).recov = s.recov := rfl
@[simp] theorem State.withStagedImages_evals (s : State) (x : List StagedImage) : (s.withStagedImages x).evals = s.evals := rfl
@[simp] theorem State.withStagedImages_host (s : State) (x : List StagedImage) : (s.withStagedImages x).host = s.host := rfl
@[simp] theorem State.withStagedImages_ckpt (s : State) (x : List StagedImage) : (s.withStagedImages x).ckpt = s.ckpt := rfl
@[simp] theorem State.withStagedImages_sup (s : State) (x : List StagedImage) : (s.withStagedImages x).sup = s.sup := rfl
@[simp] theorem State.withStagedImages_nut (s : State) (x : List StagedImage) : (s.withStagedImages x).nut = s.nut := rfl
@[simp] theorem State.withStagedImages_alerts (s : State) (x : List StagedImage) : (s.withStagedImages x).alerts = s.alerts := rfl
@[simp] theorem State.withJobs_fresh (s : State) (x : SMap Job) : (s.withJobs x).fresh = s.fresh := rfl
@[simp] theorem State.withJobs_pending (s : State) (x : SMap Job) : (s.withJobs x).pending = s.pending := rfl
@[simp] theorem State.withJobs_sent (s : State) (x : SMap Job) : (s.withJobs x).sent = s.sent := rfl
@[simp] theorem State.withJobs_clk (s : State) (x : SMap Job) : (s.withJobs x).clk = s.clk := rfl
@[simp] theorem State.withJobs_frame (s : State) (x : SMap Job) : (s.withJobs x).frame = s.frame := rfl
@[simp] theorem State.withJobs_run (s : State) (x : SMap Job) : (s.withJobs x).run = s.run := rfl
@[simp] theorem State.withJobs_steps (s : State) (x : SMap Job) : (s.withJobs x).steps = s.steps := rfl
@[simp] theorem State.withJobs_num (s : State) (x : SMap Job) : (s.withJobs x).num = s.num := rfl
@[simp] theorem State.withJobs_ledger (s : State) (x : SMap Job) : (s.withJobs x).ledger = s.ledger := rfl
@[simp] theorem State.withJobs_cores (s : State) (x : SMap Job) : (s.withJobs x).cores = s.cores := rfl
@[simp] theorem State.withJobs_stagedImages (s : State) (x : SMap Job) : (s.withJobs x).stagedImages = s.stagedImages := rfl
@[simp] theorem State.withJobs_jobs (s : State) (x : SMap Job) : (s.withJobs x).jobs = x := rfl
@[simp] theorem State.withJobs_stagedJobs (s : State) (x : SMap Job) : (s.withJobs x).stagedJobs = s.stagedJobs := rfl
@[simp] theorem State.withJobs_dieMap (s : State) (x : SMap Job) : (s.withJobs x).dieMap = s.dieMap := rfl
@[simp] theorem State.withJobs_sync (s : State) (x : SMap Job) : (s.withJobs x).sync = s.sync := rfl
@[simp] theorem State.withJobs_syncWin (s : State) (x : SMap Job) : (s.withJobs x).syncWin = s.syncWin := rfl
@[simp] theorem State.withJobs_mem (s : State) (x : SMap Job) : (s.withJobs x).mem = s.mem := rfl
@[simp] theorem State.withJobs_member (s : State) (x : SMap Job) : (s.withJobs x).member = s.member := rfl
@[simp] theorem State.withJobs_routes (s : State) (x : SMap Job) : (s.withJobs x).routes = s.routes := rfl
@[simp] theorem State.withJobs_modId (s : State) (x : SMap Job) : (s.withJobs x).modId = s.modId := rfl
@[simp] theorem State.withJobs_slotId (s : State) (x : SMap Job) : (s.withJobs x).slotId = s.slotId := rfl
@[simp] theorem State.withJobs_fab (s : State) (x : SMap Job) : (s.withJobs x).fab = s.fab := rfl
@[simp] theorem State.withJobs_recov (s : State) (x : SMap Job) : (s.withJobs x).recov = s.recov := rfl
@[simp] theorem State.withJobs_evals (s : State) (x : SMap Job) : (s.withJobs x).evals = s.evals := rfl
@[simp] theorem State.withJobs_host (s : State) (x : SMap Job) : (s.withJobs x).host = s.host := rfl
@[simp] theorem State.withJobs_ckpt (s : State) (x : SMap Job) : (s.withJobs x).ckpt = s.ckpt := rfl
@[simp] theorem State.withJobs_sup (s : State) (x : SMap Job) : (s.withJobs x).sup = s.sup := rfl
@[simp] theorem State.withJobs_nut (s : State) (x : SMap Job) : (s.withJobs x).nut = s.nut := rfl
@[simp] theorem State.withJobs_alerts (s : State) (x : SMap Job) : (s.withJobs x).alerts = s.alerts := rfl
@[simp] theorem State.withStagedJobs_fresh (s : State) (x : List StagedJob) : (s.withStagedJobs x).fresh = s.fresh := rfl
@[simp] theorem State.withStagedJobs_pending (s : State) (x : List StagedJob) : (s.withStagedJobs x).pending = s.pending := rfl
@[simp] theorem State.withStagedJobs_sent (s : State) (x : List StagedJob) : (s.withStagedJobs x).sent = s.sent := rfl
@[simp] theorem State.withStagedJobs_clk (s : State) (x : List StagedJob) : (s.withStagedJobs x).clk = s.clk := rfl
@[simp] theorem State.withStagedJobs_frame (s : State) (x : List StagedJob) : (s.withStagedJobs x).frame = s.frame := rfl
@[simp] theorem State.withStagedJobs_run (s : State) (x : List StagedJob) : (s.withStagedJobs x).run = s.run := rfl
@[simp] theorem State.withStagedJobs_steps (s : State) (x : List StagedJob) : (s.withStagedJobs x).steps = s.steps := rfl
@[simp] theorem State.withStagedJobs_num (s : State) (x : List StagedJob) : (s.withStagedJobs x).num = s.num := rfl
@[simp] theorem State.withStagedJobs_ledger (s : State) (x : List StagedJob) : (s.withStagedJobs x).ledger = s.ledger := rfl
@[simp] theorem State.withStagedJobs_cores (s : State) (x : List StagedJob) : (s.withStagedJobs x).cores = s.cores := rfl
@[simp] theorem State.withStagedJobs_stagedImages (s : State) (x : List StagedJob) : (s.withStagedJobs x).stagedImages = s.stagedImages := rfl
@[simp] theorem State.withStagedJobs_jobs (s : State) (x : List StagedJob) : (s.withStagedJobs x).jobs = s.jobs := rfl
@[simp] theorem State.withStagedJobs_stagedJobs (s : State) (x : List StagedJob) : (s.withStagedJobs x).stagedJobs = x := rfl
@[simp] theorem State.withStagedJobs_dieMap (s : State) (x : List StagedJob) : (s.withStagedJobs x).dieMap = s.dieMap := rfl
@[simp] theorem State.withStagedJobs_sync (s : State) (x : List StagedJob) : (s.withStagedJobs x).sync = s.sync := rfl
@[simp] theorem State.withStagedJobs_syncWin (s : State) (x : List StagedJob) : (s.withStagedJobs x).syncWin = s.syncWin := rfl
@[simp] theorem State.withStagedJobs_mem (s : State) (x : List StagedJob) : (s.withStagedJobs x).mem = s.mem := rfl
@[simp] theorem State.withStagedJobs_member (s : State) (x : List StagedJob) : (s.withStagedJobs x).member = s.member := rfl
@[simp] theorem State.withStagedJobs_routes (s : State) (x : List StagedJob) : (s.withStagedJobs x).routes = s.routes := rfl
@[simp] theorem State.withStagedJobs_modId (s : State) (x : List StagedJob) : (s.withStagedJobs x).modId = s.modId := rfl
@[simp] theorem State.withStagedJobs_slotId (s : State) (x : List StagedJob) : (s.withStagedJobs x).slotId = s.slotId := rfl
@[simp] theorem State.withStagedJobs_fab (s : State) (x : List StagedJob) : (s.withStagedJobs x).fab = s.fab := rfl
@[simp] theorem State.withStagedJobs_recov (s : State) (x : List StagedJob) : (s.withStagedJobs x).recov = s.recov := rfl
@[simp] theorem State.withStagedJobs_evals (s : State) (x : List StagedJob) : (s.withStagedJobs x).evals = s.evals := rfl
@[simp] theorem State.withStagedJobs_host (s : State) (x : List StagedJob) : (s.withStagedJobs x).host = s.host := rfl
@[simp] theorem State.withStagedJobs_ckpt (s : State) (x : List StagedJob) : (s.withStagedJobs x).ckpt = s.ckpt := rfl
@[simp] theorem State.withStagedJobs_sup (s : State) (x : List StagedJob) : (s.withStagedJobs x).sup = s.sup := rfl
@[simp] theorem State.withStagedJobs_nut (s : State) (x : List StagedJob) : (s.withStagedJobs x).nut = s.nut := rfl
@[simp] theorem State.withStagedJobs_alerts (s : State) (x : List StagedJob) : (s.withStagedJobs x).alerts = s.alerts := rfl
@[simp] theorem State.withDieMap_fresh (s : State) (x : List Nat) : (s.withDieMap x).fresh = s.fresh := rfl
@[simp] theorem State.withDieMap_pending (s : State) (x : List Nat) : (s.withDieMap x).pending = s.pending := rfl
@[simp] theorem State.withDieMap_sent (s : State) (x : List Nat) : (s.withDieMap x).sent = s.sent := rfl
@[simp] theorem State.withDieMap_clk (s : State) (x : List Nat) : (s.withDieMap x).clk = s.clk := rfl
@[simp] theorem State.withDieMap_frame (s : State) (x : List Nat) : (s.withDieMap x).frame = s.frame := rfl
@[simp] theorem State.withDieMap_run (s : State) (x : List Nat) : (s.withDieMap x).run = s.run := rfl
@[simp] theorem State.withDieMap_steps (s : State) (x : List Nat) : (s.withDieMap x).steps = s.steps := rfl
@[simp] theorem State.withDieMap_num (s : State) (x : List Nat) : (s.withDieMap x).num = s.num := rfl
@[simp] theorem State.withDieMap_ledger (s : State) (x : List Nat) : (s.withDieMap x).ledger = s.ledger := rfl
@[simp] theorem State.withDieMap_cores (s : State) (x : List Nat) : (s.withDieMap x).cores = s.cores := rfl
@[simp] theorem State.withDieMap_stagedImages (s : State) (x : List Nat) : (s.withDieMap x).stagedImages = s.stagedImages := rfl
@[simp] theorem State.withDieMap_jobs (s : State) (x : List Nat) : (s.withDieMap x).jobs = s.jobs := rfl
@[simp] theorem State.withDieMap_stagedJobs (s : State) (x : List Nat) : (s.withDieMap x).stagedJobs = s.stagedJobs := rfl
@[simp] theorem State.withDieMap_dieMap (s : State) (x : List Nat) : (s.withDieMap x).dieMap = x := rfl
@[simp] theorem State.withDieMap_sync (s : State) (x : List Nat) : (s.withDieMap x).sync = s.sync := rfl
@[simp] theorem State.withDieMap_syncWin (s : State) (x : List Nat) : (s.withDieMap x).syncWin = s.syncWin := rfl
@[simp] theorem State.withDieMap_mem (s : State) (x : List Nat) : (s.withDieMap x).mem = s.mem := rfl
@[simp] theorem State.withDieMap_member (s : State) (x : List Nat) : (s.withDieMap x).member = s.member := rfl
@[simp] theorem State.withDieMap_routes (s : State) (x : List Nat) : (s.withDieMap x).routes = s.routes := rfl
@[simp] theorem State.withDieMap_modId (s : State) (x : List Nat) : (s.withDieMap x).modId = s.modId := rfl
@[simp] theorem State.withDieMap_slotId (s : State) (x : List Nat) : (s.withDieMap x).slotId = s.slotId := rfl
@[simp] theorem State.withDieMap_fab (s : State) (x : List Nat) : (s.withDieMap x).fab = s.fab := rfl
@[simp] theorem State.withDieMap_recov (s : State) (x : List Nat) : (s.withDieMap x).recov = s.recov := rfl
@[simp] theorem State.withDieMap_evals (s : State) (x : List Nat) : (s.withDieMap x).evals = s.evals := rfl
@[simp] theorem State.withDieMap_host (s : State) (x : List Nat) : (s.withDieMap x).host = s.host := rfl
@[simp] theorem State.withDieMap_ckpt (s : State) (x : List Nat) : (s.withDieMap x).ckpt = s.ckpt := rfl
@[simp] theorem State.withDieMap_sup (s : State) (x : List Nat) : (s.withDieMap x).sup = s.sup := rfl
@[simp] theorem State.withDieMap_nut (s : State) (x : List Nat) : (s.withDieMap x).nut = s.nut := rfl
@[simp] theorem State.withDieMap_alerts (s : State) (x : List Nat) : (s.withDieMap x).alerts = s.alerts := rfl
@[simp] theorem State.withSync_fresh (s : State) (x : SMap SyncObj) : (s.withSync x).fresh = s.fresh := rfl
@[simp] theorem State.withSync_pending (s : State) (x : SMap SyncObj) : (s.withSync x).pending = s.pending := rfl
@[simp] theorem State.withSync_sent (s : State) (x : SMap SyncObj) : (s.withSync x).sent = s.sent := rfl
@[simp] theorem State.withSync_clk (s : State) (x : SMap SyncObj) : (s.withSync x).clk = s.clk := rfl
@[simp] theorem State.withSync_frame (s : State) (x : SMap SyncObj) : (s.withSync x).frame = s.frame := rfl
@[simp] theorem State.withSync_run (s : State) (x : SMap SyncObj) : (s.withSync x).run = s.run := rfl
@[simp] theorem State.withSync_steps (s : State) (x : SMap SyncObj) : (s.withSync x).steps = s.steps := rfl
@[simp] theorem State.withSync_num (s : State) (x : SMap SyncObj) : (s.withSync x).num = s.num := rfl
@[simp] theorem State.withSync_ledger (s : State) (x : SMap SyncObj) : (s.withSync x).ledger = s.ledger := rfl
@[simp] theorem State.withSync_cores (s : State) (x : SMap SyncObj) : (s.withSync x).cores = s.cores := rfl
@[simp] theorem State.withSync_stagedImages (s : State) (x : SMap SyncObj) : (s.withSync x).stagedImages = s.stagedImages := rfl
@[simp] theorem State.withSync_jobs (s : State) (x : SMap SyncObj) : (s.withSync x).jobs = s.jobs := rfl
@[simp] theorem State.withSync_stagedJobs (s : State) (x : SMap SyncObj) : (s.withSync x).stagedJobs = s.stagedJobs := rfl
@[simp] theorem State.withSync_dieMap (s : State) (x : SMap SyncObj) : (s.withSync x).dieMap = s.dieMap := rfl
@[simp] theorem State.withSync_sync (s : State) (x : SMap SyncObj) : (s.withSync x).sync = x := rfl
@[simp] theorem State.withSync_syncWin (s : State) (x : SMap SyncObj) : (s.withSync x).syncWin = s.syncWin := rfl
@[simp] theorem State.withSync_mem (s : State) (x : SMap SyncObj) : (s.withSync x).mem = s.mem := rfl
@[simp] theorem State.withSync_member (s : State) (x : SMap SyncObj) : (s.withSync x).member = s.member := rfl
@[simp] theorem State.withSync_routes (s : State) (x : SMap SyncObj) : (s.withSync x).routes = s.routes := rfl
@[simp] theorem State.withSync_modId (s : State) (x : SMap SyncObj) : (s.withSync x).modId = s.modId := rfl
@[simp] theorem State.withSync_slotId (s : State) (x : SMap SyncObj) : (s.withSync x).slotId = s.slotId := rfl
@[simp] theorem State.withSync_fab (s : State) (x : SMap SyncObj) : (s.withSync x).fab = s.fab := rfl
@[simp] theorem State.withSync_recov (s : State) (x : SMap SyncObj) : (s.withSync x).recov = s.recov := rfl
@[simp] theorem State.withSync_evals (s : State) (x : SMap SyncObj) : (s.withSync x).evals = s.evals := rfl
@[simp] theorem State.withSync_host (s : State) (x : SMap SyncObj) : (s.withSync x).host = s.host := rfl
@[simp] theorem State.withSync_ckpt (s : State) (x : SMap SyncObj) : (s.withSync x).ckpt = s.ckpt := rfl
@[simp] theorem State.withSync_sup (s : State) (x : SMap SyncObj) : (s.withSync x).sup = s.sup := rfl
@[simp] theorem State.withSync_nut (s : State) (x : SMap SyncObj) : (s.withSync x).nut = s.nut := rfl
@[simp] theorem State.withSync_alerts (s : State) (x : SMap SyncObj) : (s.withSync x).alerts = s.alerts := rfl
@[simp] theorem State.withSyncWin_fresh (s : State) (x : SMap Nat) : (s.withSyncWin x).fresh = s.fresh := rfl
@[simp] theorem State.withSyncWin_pending (s : State) (x : SMap Nat) : (s.withSyncWin x).pending = s.pending := rfl
@[simp] theorem State.withSyncWin_sent (s : State) (x : SMap Nat) : (s.withSyncWin x).sent = s.sent := rfl
@[simp] theorem State.withSyncWin_clk (s : State) (x : SMap Nat) : (s.withSyncWin x).clk = s.clk := rfl
@[simp] theorem State.withSyncWin_frame (s : State) (x : SMap Nat) : (s.withSyncWin x).frame = s.frame := rfl
@[simp] theorem State.withSyncWin_run (s : State) (x : SMap Nat) : (s.withSyncWin x).run = s.run := rfl
@[simp] theorem State.withSyncWin_steps (s : State) (x : SMap Nat) : (s.withSyncWin x).steps = s.steps := rfl
@[simp] theorem State.withSyncWin_num (s : State) (x : SMap Nat) : (s.withSyncWin x).num = s.num := rfl
@[simp] theorem State.withSyncWin_ledger (s : State) (x : SMap Nat) : (s.withSyncWin x).ledger = s.ledger := rfl
@[simp] theorem State.withSyncWin_cores (s : State) (x : SMap Nat) : (s.withSyncWin x).cores = s.cores := rfl
@[simp] theorem State.withSyncWin_stagedImages (s : State) (x : SMap Nat) : (s.withSyncWin x).stagedImages = s.stagedImages := rfl
@[simp] theorem State.withSyncWin_jobs (s : State) (x : SMap Nat) : (s.withSyncWin x).jobs = s.jobs := rfl
@[simp] theorem State.withSyncWin_stagedJobs (s : State) (x : SMap Nat) : (s.withSyncWin x).stagedJobs = s.stagedJobs := rfl
@[simp] theorem State.withSyncWin_dieMap (s : State) (x : SMap Nat) : (s.withSyncWin x).dieMap = s.dieMap := rfl
@[simp] theorem State.withSyncWin_sync (s : State) (x : SMap Nat) : (s.withSyncWin x).sync = s.sync := rfl
@[simp] theorem State.withSyncWin_syncWin (s : State) (x : SMap Nat) : (s.withSyncWin x).syncWin = x := rfl
@[simp] theorem State.withSyncWin_mem (s : State) (x : SMap Nat) : (s.withSyncWin x).mem = s.mem := rfl
@[simp] theorem State.withSyncWin_member (s : State) (x : SMap Nat) : (s.withSyncWin x).member = s.member := rfl
@[simp] theorem State.withSyncWin_routes (s : State) (x : SMap Nat) : (s.withSyncWin x).routes = s.routes := rfl
@[simp] theorem State.withSyncWin_modId (s : State) (x : SMap Nat) : (s.withSyncWin x).modId = s.modId := rfl
@[simp] theorem State.withSyncWin_slotId (s : State) (x : SMap Nat) : (s.withSyncWin x).slotId = s.slotId := rfl
@[simp] theorem State.withSyncWin_fab (s : State) (x : SMap Nat) : (s.withSyncWin x).fab = s.fab := rfl
@[simp] theorem State.withSyncWin_recov (s : State) (x : SMap Nat) : (s.withSyncWin x).recov = s.recov := rfl
@[simp] theorem State.withSyncWin_evals (s : State) (x : SMap Nat) : (s.withSyncWin x).evals = s.evals := rfl
@[simp] theorem State.withSyncWin_host (s : State) (x : SMap Nat) : (s.withSyncWin x).host = s.host := rfl
@[simp] theorem State.withSyncWin_ckpt (s : State) (x : SMap Nat) : (s.withSyncWin x).ckpt = s.ckpt := rfl
@[simp] theorem State.withSyncWin_sup (s : State) (x : SMap Nat) : (s.withSyncWin x).sup = s.sup := rfl
@[simp] theorem State.withSyncWin_nut (s : State) (x : SMap Nat) : (s.withSyncWin x).nut = s.nut := rfl
@[simp] theorem State.withSyncWin_alerts (s : State) (x : SMap Nat) : (s.withSyncWin x).alerts = s.alerts := rfl
@[simp] theorem State.withMem_fresh (s : State) (x : Mem) : (s.withMem x).fresh = s.fresh := rfl
@[simp] theorem State.withMem_pending (s : State) (x : Mem) : (s.withMem x).pending = s.pending := rfl
@[simp] theorem State.withMem_sent (s : State) (x : Mem) : (s.withMem x).sent = s.sent := rfl
@[simp] theorem State.withMem_clk (s : State) (x : Mem) : (s.withMem x).clk = s.clk := rfl
@[simp] theorem State.withMem_frame (s : State) (x : Mem) : (s.withMem x).frame = s.frame := rfl
@[simp] theorem State.withMem_run (s : State) (x : Mem) : (s.withMem x).run = s.run := rfl
@[simp] theorem State.withMem_steps (s : State) (x : Mem) : (s.withMem x).steps = s.steps := rfl
@[simp] theorem State.withMem_num (s : State) (x : Mem) : (s.withMem x).num = s.num := rfl
@[simp] theorem State.withMem_ledger (s : State) (x : Mem) : (s.withMem x).ledger = s.ledger := rfl
@[simp] theorem State.withMem_cores (s : State) (x : Mem) : (s.withMem x).cores = s.cores := rfl
@[simp] theorem State.withMem_stagedImages (s : State) (x : Mem) : (s.withMem x).stagedImages = s.stagedImages := rfl
@[simp] theorem State.withMem_jobs (s : State) (x : Mem) : (s.withMem x).jobs = s.jobs := rfl
@[simp] theorem State.withMem_stagedJobs (s : State) (x : Mem) : (s.withMem x).stagedJobs = s.stagedJobs := rfl
@[simp] theorem State.withMem_dieMap (s : State) (x : Mem) : (s.withMem x).dieMap = s.dieMap := rfl
@[simp] theorem State.withMem_sync (s : State) (x : Mem) : (s.withMem x).sync = s.sync := rfl
@[simp] theorem State.withMem_syncWin (s : State) (x : Mem) : (s.withMem x).syncWin = s.syncWin := rfl
@[simp] theorem State.withMem_mem (s : State) (x : Mem) : (s.withMem x).mem = x := rfl
@[simp] theorem State.withMem_member (s : State) (x : Mem) : (s.withMem x).member = s.member := rfl
@[simp] theorem State.withMem_routes (s : State) (x : Mem) : (s.withMem x).routes = s.routes := rfl
@[simp] theorem State.withMem_modId (s : State) (x : Mem) : (s.withMem x).modId = s.modId := rfl
@[simp] theorem State.withMem_slotId (s : State) (x : Mem) : (s.withMem x).slotId = s.slotId := rfl
@[simp] theorem State.withMem_fab (s : State) (x : Mem) : (s.withMem x).fab = s.fab := rfl
@[simp] theorem State.withMem_recov (s : State) (x : Mem) : (s.withMem x).recov = s.recov := rfl
@[simp] theorem State.withMem_evals (s : State) (x : Mem) : (s.withMem x).evals = s.evals := rfl
@[simp] theorem State.withMem_host (s : State) (x : Mem) : (s.withMem x).host = s.host := rfl
@[simp] theorem State.withMem_ckpt (s : State) (x : Mem) : (s.withMem x).ckpt = s.ckpt := rfl
@[simp] theorem State.withMem_sup (s : State) (x : Mem) : (s.withMem x).sup = s.sup := rfl
@[simp] theorem State.withMem_nut (s : State) (x : Mem) : (s.withMem x).nut = s.nut := rfl
@[simp] theorem State.withMem_alerts (s : State) (x : Mem) : (s.withMem x).alerts = s.alerts := rfl
@[simp] theorem State.withMember_fresh (s : State) (x : Option (Nat × Nat)) : (s.withMember x).fresh = s.fresh := rfl
@[simp] theorem State.withMember_pending (s : State) (x : Option (Nat × Nat)) : (s.withMember x).pending = s.pending := rfl
@[simp] theorem State.withMember_sent (s : State) (x : Option (Nat × Nat)) : (s.withMember x).sent = s.sent := rfl
@[simp] theorem State.withMember_clk (s : State) (x : Option (Nat × Nat)) : (s.withMember x).clk = s.clk := rfl
@[simp] theorem State.withMember_frame (s : State) (x : Option (Nat × Nat)) : (s.withMember x).frame = s.frame := rfl
@[simp] theorem State.withMember_run (s : State) (x : Option (Nat × Nat)) : (s.withMember x).run = s.run := rfl
@[simp] theorem State.withMember_steps (s : State) (x : Option (Nat × Nat)) : (s.withMember x).steps = s.steps := rfl
@[simp] theorem State.withMember_num (s : State) (x : Option (Nat × Nat)) : (s.withMember x).num = s.num := rfl
@[simp] theorem State.withMember_ledger (s : State) (x : Option (Nat × Nat)) : (s.withMember x).ledger = s.ledger := rfl
@[simp] theorem State.withMember_cores (s : State) (x : Option (Nat × Nat)) : (s.withMember x).cores = s.cores := rfl
@[simp] theorem State.withMember_stagedImages (s : State) (x : Option (Nat × Nat)) : (s.withMember x).stagedImages = s.stagedImages := rfl
@[simp] theorem State.withMember_jobs (s : State) (x : Option (Nat × Nat)) : (s.withMember x).jobs = s.jobs := rfl
@[simp] theorem State.withMember_stagedJobs (s : State) (x : Option (Nat × Nat)) : (s.withMember x).stagedJobs = s.stagedJobs := rfl
@[simp] theorem State.withMember_dieMap (s : State) (x : Option (Nat × Nat)) : (s.withMember x).dieMap = s.dieMap := rfl
@[simp] theorem State.withMember_sync (s : State) (x : Option (Nat × Nat)) : (s.withMember x).sync = s.sync := rfl
@[simp] theorem State.withMember_syncWin (s : State) (x : Option (Nat × Nat)) : (s.withMember x).syncWin = s.syncWin := rfl
@[simp] theorem State.withMember_mem (s : State) (x : Option (Nat × Nat)) : (s.withMember x).mem = s.mem := rfl
@[simp] theorem State.withMember_member (s : State) (x : Option (Nat × Nat)) : (s.withMember x).member = x := rfl
@[simp] theorem State.withMember_routes (s : State) (x : Option (Nat × Nat)) : (s.withMember x).routes = s.routes := rfl
@[simp] theorem State.withMember_modId (s : State) (x : Option (Nat × Nat)) : (s.withMember x).modId = s.modId := rfl
@[simp] theorem State.withMember_slotId (s : State) (x : Option (Nat × Nat)) : (s.withMember x).slotId = s.slotId := rfl
@[simp] theorem State.withMember_fab (s : State) (x : Option (Nat × Nat)) : (s.withMember x).fab = s.fab := rfl
@[simp] theorem State.withMember_recov (s : State) (x : Option (Nat × Nat)) : (s.withMember x).recov = s.recov := rfl
@[simp] theorem State.withMember_evals (s : State) (x : Option (Nat × Nat)) : (s.withMember x).evals = s.evals := rfl
@[simp] theorem State.withMember_host (s : State) (x : Option (Nat × Nat)) : (s.withMember x).host = s.host := rfl
@[simp] theorem State.withMember_ckpt (s : State) (x : Option (Nat × Nat)) : (s.withMember x).ckpt = s.ckpt := rfl
@[simp] theorem State.withMember_sup (s : State) (x : Option (Nat × Nat)) : (s.withMember x).sup = s.sup := rfl
@[simp] theorem State.withMember_nut (s : State) (x : Option (Nat × Nat)) : (s.withMember x).nut = s.nut := rfl
@[simp] theorem State.withMember_alerts (s : State) (x : Option (Nat × Nat)) : (s.withMember x).alerts = s.alerts := rfl
@[simp] theorem State.withRoutes_fresh (s : State) (x : SMap SliceTables) : (s.withRoutes x).fresh = s.fresh := rfl
@[simp] theorem State.withRoutes_pending (s : State) (x : SMap SliceTables) : (s.withRoutes x).pending = s.pending := rfl
@[simp] theorem State.withRoutes_sent (s : State) (x : SMap SliceTables) : (s.withRoutes x).sent = s.sent := rfl
@[simp] theorem State.withRoutes_clk (s : State) (x : SMap SliceTables) : (s.withRoutes x).clk = s.clk := rfl
@[simp] theorem State.withRoutes_frame (s : State) (x : SMap SliceTables) : (s.withRoutes x).frame = s.frame := rfl
@[simp] theorem State.withRoutes_run (s : State) (x : SMap SliceTables) : (s.withRoutes x).run = s.run := rfl
@[simp] theorem State.withRoutes_steps (s : State) (x : SMap SliceTables) : (s.withRoutes x).steps = s.steps := rfl
@[simp] theorem State.withRoutes_num (s : State) (x : SMap SliceTables) : (s.withRoutes x).num = s.num := rfl
@[simp] theorem State.withRoutes_ledger (s : State) (x : SMap SliceTables) : (s.withRoutes x).ledger = s.ledger := rfl
@[simp] theorem State.withRoutes_cores (s : State) (x : SMap SliceTables) : (s.withRoutes x).cores = s.cores := rfl
@[simp] theorem State.withRoutes_stagedImages (s : State) (x : SMap SliceTables) : (s.withRoutes x).stagedImages = s.stagedImages := rfl
@[simp] theorem State.withRoutes_jobs (s : State) (x : SMap SliceTables) : (s.withRoutes x).jobs = s.jobs := rfl
@[simp] theorem State.withRoutes_stagedJobs (s : State) (x : SMap SliceTables) : (s.withRoutes x).stagedJobs = s.stagedJobs := rfl
@[simp] theorem State.withRoutes_dieMap (s : State) (x : SMap SliceTables) : (s.withRoutes x).dieMap = s.dieMap := rfl
@[simp] theorem State.withRoutes_sync (s : State) (x : SMap SliceTables) : (s.withRoutes x).sync = s.sync := rfl
@[simp] theorem State.withRoutes_syncWin (s : State) (x : SMap SliceTables) : (s.withRoutes x).syncWin = s.syncWin := rfl
@[simp] theorem State.withRoutes_mem (s : State) (x : SMap SliceTables) : (s.withRoutes x).mem = s.mem := rfl
@[simp] theorem State.withRoutes_member (s : State) (x : SMap SliceTables) : (s.withRoutes x).member = s.member := rfl
@[simp] theorem State.withRoutes_routes (s : State) (x : SMap SliceTables) : (s.withRoutes x).routes = x := rfl
@[simp] theorem State.withRoutes_modId (s : State) (x : SMap SliceTables) : (s.withRoutes x).modId = s.modId := rfl
@[simp] theorem State.withRoutes_slotId (s : State) (x : SMap SliceTables) : (s.withRoutes x).slotId = s.slotId := rfl
@[simp] theorem State.withRoutes_fab (s : State) (x : SMap SliceTables) : (s.withRoutes x).fab = s.fab := rfl
@[simp] theorem State.withRoutes_recov (s : State) (x : SMap SliceTables) : (s.withRoutes x).recov = s.recov := rfl
@[simp] theorem State.withRoutes_evals (s : State) (x : SMap SliceTables) : (s.withRoutes x).evals = s.evals := rfl
@[simp] theorem State.withRoutes_host (s : State) (x : SMap SliceTables) : (s.withRoutes x).host = s.host := rfl
@[simp] theorem State.withRoutes_ckpt (s : State) (x : SMap SliceTables) : (s.withRoutes x).ckpt = s.ckpt := rfl
@[simp] theorem State.withRoutes_sup (s : State) (x : SMap SliceTables) : (s.withRoutes x).sup = s.sup := rfl
@[simp] theorem State.withRoutes_nut (s : State) (x : SMap SliceTables) : (s.withRoutes x).nut = s.nut := rfl
@[simp] theorem State.withRoutes_alerts (s : State) (x : SMap SliceTables) : (s.withRoutes x).alerts = s.alerts := rfl
@[simp] theorem State.withModId_fresh (s : State) (x : Nat) : (s.withModId x).fresh = s.fresh := rfl
@[simp] theorem State.withModId_pending (s : State) (x : Nat) : (s.withModId x).pending = s.pending := rfl
@[simp] theorem State.withModId_sent (s : State) (x : Nat) : (s.withModId x).sent = s.sent := rfl
@[simp] theorem State.withModId_clk (s : State) (x : Nat) : (s.withModId x).clk = s.clk := rfl
@[simp] theorem State.withModId_frame (s : State) (x : Nat) : (s.withModId x).frame = s.frame := rfl
@[simp] theorem State.withModId_run (s : State) (x : Nat) : (s.withModId x).run = s.run := rfl
@[simp] theorem State.withModId_steps (s : State) (x : Nat) : (s.withModId x).steps = s.steps := rfl
@[simp] theorem State.withModId_num (s : State) (x : Nat) : (s.withModId x).num = s.num := rfl
@[simp] theorem State.withModId_ledger (s : State) (x : Nat) : (s.withModId x).ledger = s.ledger := rfl
@[simp] theorem State.withModId_cores (s : State) (x : Nat) : (s.withModId x).cores = s.cores := rfl
@[simp] theorem State.withModId_stagedImages (s : State) (x : Nat) : (s.withModId x).stagedImages = s.stagedImages := rfl
@[simp] theorem State.withModId_jobs (s : State) (x : Nat) : (s.withModId x).jobs = s.jobs := rfl
@[simp] theorem State.withModId_stagedJobs (s : State) (x : Nat) : (s.withModId x).stagedJobs = s.stagedJobs := rfl
@[simp] theorem State.withModId_dieMap (s : State) (x : Nat) : (s.withModId x).dieMap = s.dieMap := rfl
@[simp] theorem State.withModId_sync (s : State) (x : Nat) : (s.withModId x).sync = s.sync := rfl
@[simp] theorem State.withModId_syncWin (s : State) (x : Nat) : (s.withModId x).syncWin = s.syncWin := rfl
@[simp] theorem State.withModId_mem (s : State) (x : Nat) : (s.withModId x).mem = s.mem := rfl
@[simp] theorem State.withModId_member (s : State) (x : Nat) : (s.withModId x).member = s.member := rfl
@[simp] theorem State.withModId_routes (s : State) (x : Nat) : (s.withModId x).routes = s.routes := rfl
@[simp] theorem State.withModId_modId (s : State) (x : Nat) : (s.withModId x).modId = x := rfl
@[simp] theorem State.withModId_slotId (s : State) (x : Nat) : (s.withModId x).slotId = s.slotId := rfl
@[simp] theorem State.withModId_fab (s : State) (x : Nat) : (s.withModId x).fab = s.fab := rfl
@[simp] theorem State.withModId_recov (s : State) (x : Nat) : (s.withModId x).recov = s.recov := rfl
@[simp] theorem State.withModId_evals (s : State) (x : Nat) : (s.withModId x).evals = s.evals := rfl
@[simp] theorem State.withModId_host (s : State) (x : Nat) : (s.withModId x).host = s.host := rfl
@[simp] theorem State.withModId_ckpt (s : State) (x : Nat) : (s.withModId x).ckpt = s.ckpt := rfl
@[simp] theorem State.withModId_sup (s : State) (x : Nat) : (s.withModId x).sup = s.sup := rfl
@[simp] theorem State.withModId_nut (s : State) (x : Nat) : (s.withModId x).nut = s.nut := rfl
@[simp] theorem State.withModId_alerts (s : State) (x : Nat) : (s.withModId x).alerts = s.alerts := rfl
@[simp] theorem State.withSlotId_fresh (s : State) (x : Nat) : (s.withSlotId x).fresh = s.fresh := rfl
@[simp] theorem State.withSlotId_pending (s : State) (x : Nat) : (s.withSlotId x).pending = s.pending := rfl
@[simp] theorem State.withSlotId_sent (s : State) (x : Nat) : (s.withSlotId x).sent = s.sent := rfl
@[simp] theorem State.withSlotId_clk (s : State) (x : Nat) : (s.withSlotId x).clk = s.clk := rfl
@[simp] theorem State.withSlotId_frame (s : State) (x : Nat) : (s.withSlotId x).frame = s.frame := rfl
@[simp] theorem State.withSlotId_run (s : State) (x : Nat) : (s.withSlotId x).run = s.run := rfl
@[simp] theorem State.withSlotId_steps (s : State) (x : Nat) : (s.withSlotId x).steps = s.steps := rfl
@[simp] theorem State.withSlotId_num (s : State) (x : Nat) : (s.withSlotId x).num = s.num := rfl
@[simp] theorem State.withSlotId_ledger (s : State) (x : Nat) : (s.withSlotId x).ledger = s.ledger := rfl
@[simp] theorem State.withSlotId_cores (s : State) (x : Nat) : (s.withSlotId x).cores = s.cores := rfl
@[simp] theorem State.withSlotId_stagedImages (s : State) (x : Nat) : (s.withSlotId x).stagedImages = s.stagedImages := rfl
@[simp] theorem State.withSlotId_jobs (s : State) (x : Nat) : (s.withSlotId x).jobs = s.jobs := rfl
@[simp] theorem State.withSlotId_stagedJobs (s : State) (x : Nat) : (s.withSlotId x).stagedJobs = s.stagedJobs := rfl
@[simp] theorem State.withSlotId_dieMap (s : State) (x : Nat) : (s.withSlotId x).dieMap = s.dieMap := rfl
@[simp] theorem State.withSlotId_sync (s : State) (x : Nat) : (s.withSlotId x).sync = s.sync := rfl
@[simp] theorem State.withSlotId_syncWin (s : State) (x : Nat) : (s.withSlotId x).syncWin = s.syncWin := rfl
@[simp] theorem State.withSlotId_mem (s : State) (x : Nat) : (s.withSlotId x).mem = s.mem := rfl
@[simp] theorem State.withSlotId_member (s : State) (x : Nat) : (s.withSlotId x).member = s.member := rfl
@[simp] theorem State.withSlotId_routes (s : State) (x : Nat) : (s.withSlotId x).routes = s.routes := rfl
@[simp] theorem State.withSlotId_modId (s : State) (x : Nat) : (s.withSlotId x).modId = s.modId := rfl
@[simp] theorem State.withSlotId_slotId (s : State) (x : Nat) : (s.withSlotId x).slotId = x := rfl
@[simp] theorem State.withSlotId_fab (s : State) (x : Nat) : (s.withSlotId x).fab = s.fab := rfl
@[simp] theorem State.withSlotId_recov (s : State) (x : Nat) : (s.withSlotId x).recov = s.recov := rfl
@[simp] theorem State.withSlotId_evals (s : State) (x : Nat) : (s.withSlotId x).evals = s.evals := rfl
@[simp] theorem State.withSlotId_host (s : State) (x : Nat) : (s.withSlotId x).host = s.host := rfl
@[simp] theorem State.withSlotId_ckpt (s : State) (x : Nat) : (s.withSlotId x).ckpt = s.ckpt := rfl
@[simp] theorem State.withSlotId_sup (s : State) (x : Nat) : (s.withSlotId x).sup = s.sup := rfl
@[simp] theorem State.withSlotId_nut (s : State) (x : Nat) : (s.withSlotId x).nut = s.nut := rfl
@[simp] theorem State.withSlotId_alerts (s : State) (x : Nat) : (s.withSlotId x).alerts = s.alerts := rfl
@[simp] theorem State.withFab_fresh (s : State) (x : Fab) : (s.withFab x).fresh = s.fresh := rfl
@[simp] theorem State.withFab_pending (s : State) (x : Fab) : (s.withFab x).pending = s.pending := rfl
@[simp] theorem State.withFab_sent (s : State) (x : Fab) : (s.withFab x).sent = s.sent := rfl
@[simp] theorem State.withFab_clk (s : State) (x : Fab) : (s.withFab x).clk = s.clk := rfl
@[simp] theorem State.withFab_frame (s : State) (x : Fab) : (s.withFab x).frame = s.frame := rfl
@[simp] theorem State.withFab_run (s : State) (x : Fab) : (s.withFab x).run = s.run := rfl
@[simp] theorem State.withFab_steps (s : State) (x : Fab) : (s.withFab x).steps = s.steps := rfl
@[simp] theorem State.withFab_num (s : State) (x : Fab) : (s.withFab x).num = s.num := rfl
@[simp] theorem State.withFab_ledger (s : State) (x : Fab) : (s.withFab x).ledger = s.ledger := rfl
@[simp] theorem State.withFab_cores (s : State) (x : Fab) : (s.withFab x).cores = s.cores := rfl
@[simp] theorem State.withFab_stagedImages (s : State) (x : Fab) : (s.withFab x).stagedImages = s.stagedImages := rfl
@[simp] theorem State.withFab_jobs (s : State) (x : Fab) : (s.withFab x).jobs = s.jobs := rfl
@[simp] theorem State.withFab_stagedJobs (s : State) (x : Fab) : (s.withFab x).stagedJobs = s.stagedJobs := rfl
@[simp] theorem State.withFab_dieMap (s : State) (x : Fab) : (s.withFab x).dieMap = s.dieMap := rfl
@[simp] theorem State.withFab_sync (s : State) (x : Fab) : (s.withFab x).sync = s.sync := rfl
@[simp] theorem State.withFab_syncWin (s : State) (x : Fab) : (s.withFab x).syncWin = s.syncWin := rfl
@[simp] theorem State.withFab_mem (s : State) (x : Fab) : (s.withFab x).mem = s.mem := rfl
@[simp] theorem State.withFab_member (s : State) (x : Fab) : (s.withFab x).member = s.member := rfl
@[simp] theorem State.withFab_routes (s : State) (x : Fab) : (s.withFab x).routes = s.routes := rfl
@[simp] theorem State.withFab_modId (s : State) (x : Fab) : (s.withFab x).modId = s.modId := rfl
@[simp] theorem State.withFab_slotId (s : State) (x : Fab) : (s.withFab x).slotId = s.slotId := rfl
@[simp] theorem State.withFab_fab (s : State) (x : Fab) : (s.withFab x).fab = x := rfl
@[simp] theorem State.withFab_recov (s : State) (x : Fab) : (s.withFab x).recov = s.recov := rfl
@[simp] theorem State.withFab_evals (s : State) (x : Fab) : (s.withFab x).evals = s.evals := rfl
@[simp] theorem State.withFab_host (s : State) (x : Fab) : (s.withFab x).host = s.host := rfl
@[simp] theorem State.withFab_ckpt (s : State) (x : Fab) : (s.withFab x).ckpt = s.ckpt := rfl
@[simp] theorem State.withFab_sup (s : State) (x : Fab) : (s.withFab x).sup = s.sup := rfl
@[simp] theorem State.withFab_nut (s : State) (x : Fab) : (s.withFab x).nut = s.nut := rfl
@[simp] theorem State.withFab_alerts (s : State) (x : Fab) : (s.withFab x).alerts = s.alerts := rfl
@[simp] theorem State.withRecov_fresh (s : State) (x : Recov) : (s.withRecov x).fresh = s.fresh := rfl
@[simp] theorem State.withRecov_pending (s : State) (x : Recov) : (s.withRecov x).pending = s.pending := rfl
@[simp] theorem State.withRecov_sent (s : State) (x : Recov) : (s.withRecov x).sent = s.sent := rfl
@[simp] theorem State.withRecov_clk (s : State) (x : Recov) : (s.withRecov x).clk = s.clk := rfl
@[simp] theorem State.withRecov_frame (s : State) (x : Recov) : (s.withRecov x).frame = s.frame := rfl
@[simp] theorem State.withRecov_run (s : State) (x : Recov) : (s.withRecov x).run = s.run := rfl
@[simp] theorem State.withRecov_steps (s : State) (x : Recov) : (s.withRecov x).steps = s.steps := rfl
@[simp] theorem State.withRecov_num (s : State) (x : Recov) : (s.withRecov x).num = s.num := rfl
@[simp] theorem State.withRecov_ledger (s : State) (x : Recov) : (s.withRecov x).ledger = s.ledger := rfl
@[simp] theorem State.withRecov_cores (s : State) (x : Recov) : (s.withRecov x).cores = s.cores := rfl
@[simp] theorem State.withRecov_stagedImages (s : State) (x : Recov) : (s.withRecov x).stagedImages = s.stagedImages := rfl
@[simp] theorem State.withRecov_jobs (s : State) (x : Recov) : (s.withRecov x).jobs = s.jobs := rfl
@[simp] theorem State.withRecov_stagedJobs (s : State) (x : Recov) : (s.withRecov x).stagedJobs = s.stagedJobs := rfl
@[simp] theorem State.withRecov_dieMap (s : State) (x : Recov) : (s.withRecov x).dieMap = s.dieMap := rfl
@[simp] theorem State.withRecov_sync (s : State) (x : Recov) : (s.withRecov x).sync = s.sync := rfl
@[simp] theorem State.withRecov_syncWin (s : State) (x : Recov) : (s.withRecov x).syncWin = s.syncWin := rfl
@[simp] theorem State.withRecov_mem (s : State) (x : Recov) : (s.withRecov x).mem = s.mem := rfl
@[simp] theorem State.withRecov_member (s : State) (x : Recov) : (s.withRecov x).member = s.member := rfl
@[simp] theorem State.withRecov_routes (s : State) (x : Recov) : (s.withRecov x).routes = s.routes := rfl
@[simp] theorem State.withRecov_modId (s : State) (x : Recov) : (s.withRecov x).modId = s.modId := rfl
@[simp] theorem State.withRecov_slotId (s : State) (x : Recov) : (s.withRecov x).slotId = s.slotId := rfl
@[simp] theorem State.withRecov_fab (s : State) (x : Recov) : (s.withRecov x).fab = s.fab := rfl
@[simp] theorem State.withRecov_recov (s : State) (x : Recov) : (s.withRecov x).recov = x := rfl
@[simp] theorem State.withRecov_evals (s : State) (x : Recov) : (s.withRecov x).evals = s.evals := rfl
@[simp] theorem State.withRecov_host (s : State) (x : Recov) : (s.withRecov x).host = s.host := rfl
@[simp] theorem State.withRecov_ckpt (s : State) (x : Recov) : (s.withRecov x).ckpt = s.ckpt := rfl
@[simp] theorem State.withRecov_sup (s : State) (x : Recov) : (s.withRecov x).sup = s.sup := rfl
@[simp] theorem State.withRecov_nut (s : State) (x : Recov) : (s.withRecov x).nut = s.nut := rfl
@[simp] theorem State.withRecov_alerts (s : State) (x : Recov) : (s.withRecov x).alerts = s.alerts := rfl
@[simp] theorem State.withEvals_fresh (s : State) (x : List Eval) : (s.withEvals x).fresh = s.fresh := rfl
@[simp] theorem State.withEvals_pending (s : State) (x : List Eval) : (s.withEvals x).pending = s.pending := rfl
@[simp] theorem State.withEvals_sent (s : State) (x : List Eval) : (s.withEvals x).sent = s.sent := rfl
@[simp] theorem State.withEvals_clk (s : State) (x : List Eval) : (s.withEvals x).clk = s.clk := rfl
@[simp] theorem State.withEvals_frame (s : State) (x : List Eval) : (s.withEvals x).frame = s.frame := rfl
@[simp] theorem State.withEvals_run (s : State) (x : List Eval) : (s.withEvals x).run = s.run := rfl
@[simp] theorem State.withEvals_steps (s : State) (x : List Eval) : (s.withEvals x).steps = s.steps := rfl
@[simp] theorem State.withEvals_num (s : State) (x : List Eval) : (s.withEvals x).num = s.num := rfl
@[simp] theorem State.withEvals_ledger (s : State) (x : List Eval) : (s.withEvals x).ledger = s.ledger := rfl
@[simp] theorem State.withEvals_cores (s : State) (x : List Eval) : (s.withEvals x).cores = s.cores := rfl
@[simp] theorem State.withEvals_stagedImages (s : State) (x : List Eval) : (s.withEvals x).stagedImages = s.stagedImages := rfl
@[simp] theorem State.withEvals_jobs (s : State) (x : List Eval) : (s.withEvals x).jobs = s.jobs := rfl
@[simp] theorem State.withEvals_stagedJobs (s : State) (x : List Eval) : (s.withEvals x).stagedJobs = s.stagedJobs := rfl
@[simp] theorem State.withEvals_dieMap (s : State) (x : List Eval) : (s.withEvals x).dieMap = s.dieMap := rfl
@[simp] theorem State.withEvals_sync (s : State) (x : List Eval) : (s.withEvals x).sync = s.sync := rfl
@[simp] theorem State.withEvals_syncWin (s : State) (x : List Eval) : (s.withEvals x).syncWin = s.syncWin := rfl
@[simp] theorem State.withEvals_mem (s : State) (x : List Eval) : (s.withEvals x).mem = s.mem := rfl
@[simp] theorem State.withEvals_member (s : State) (x : List Eval) : (s.withEvals x).member = s.member := rfl
@[simp] theorem State.withEvals_routes (s : State) (x : List Eval) : (s.withEvals x).routes = s.routes := rfl
@[simp] theorem State.withEvals_modId (s : State) (x : List Eval) : (s.withEvals x).modId = s.modId := rfl
@[simp] theorem State.withEvals_slotId (s : State) (x : List Eval) : (s.withEvals x).slotId = s.slotId := rfl
@[simp] theorem State.withEvals_fab (s : State) (x : List Eval) : (s.withEvals x).fab = s.fab := rfl
@[simp] theorem State.withEvals_recov (s : State) (x : List Eval) : (s.withEvals x).recov = s.recov := rfl
@[simp] theorem State.withEvals_evals (s : State) (x : List Eval) : (s.withEvals x).evals = x := rfl
@[simp] theorem State.withEvals_host (s : State) (x : List Eval) : (s.withEvals x).host = s.host := rfl
@[simp] theorem State.withEvals_ckpt (s : State) (x : List Eval) : (s.withEvals x).ckpt = s.ckpt := rfl
@[simp] theorem State.withEvals_sup (s : State) (x : List Eval) : (s.withEvals x).sup = s.sup := rfl
@[simp] theorem State.withEvals_nut (s : State) (x : List Eval) : (s.withEvals x).nut = s.nut := rfl
@[simp] theorem State.withEvals_alerts (s : State) (x : List Eval) : (s.withEvals x).alerts = s.alerts := rfl
@[simp] theorem State.withHost_fresh (s : State) (x : HostState) : (s.withHost x).fresh = s.fresh := rfl
@[simp] theorem State.withHost_pending (s : State) (x : HostState) : (s.withHost x).pending = s.pending := rfl
@[simp] theorem State.withHost_sent (s : State) (x : HostState) : (s.withHost x).sent = s.sent := rfl
@[simp] theorem State.withHost_clk (s : State) (x : HostState) : (s.withHost x).clk = s.clk := rfl
@[simp] theorem State.withHost_frame (s : State) (x : HostState) : (s.withHost x).frame = s.frame := rfl
@[simp] theorem State.withHost_run (s : State) (x : HostState) : (s.withHost x).run = s.run := rfl
@[simp] theorem State.withHost_steps (s : State) (x : HostState) : (s.withHost x).steps = s.steps := rfl
@[simp] theorem State.withHost_num (s : State) (x : HostState) : (s.withHost x).num = s.num := rfl
@[simp] theorem State.withHost_ledger (s : State) (x : HostState) : (s.withHost x).ledger = s.ledger := rfl
@[simp] theorem State.withHost_cores (s : State) (x : HostState) : (s.withHost x).cores = s.cores := rfl
@[simp] theorem State.withHost_stagedImages (s : State) (x : HostState) : (s.withHost x).stagedImages = s.stagedImages := rfl
@[simp] theorem State.withHost_jobs (s : State) (x : HostState) : (s.withHost x).jobs = s.jobs := rfl
@[simp] theorem State.withHost_stagedJobs (s : State) (x : HostState) : (s.withHost x).stagedJobs = s.stagedJobs := rfl
@[simp] theorem State.withHost_dieMap (s : State) (x : HostState) : (s.withHost x).dieMap = s.dieMap := rfl
@[simp] theorem State.withHost_sync (s : State) (x : HostState) : (s.withHost x).sync = s.sync := rfl
@[simp] theorem State.withHost_syncWin (s : State) (x : HostState) : (s.withHost x).syncWin = s.syncWin := rfl
@[simp] theorem State.withHost_mem (s : State) (x : HostState) : (s.withHost x).mem = s.mem := rfl
@[simp] theorem State.withHost_member (s : State) (x : HostState) : (s.withHost x).member = s.member := rfl
@[simp] theorem State.withHost_routes (s : State) (x : HostState) : (s.withHost x).routes = s.routes := rfl
@[simp] theorem State.withHost_modId (s : State) (x : HostState) : (s.withHost x).modId = s.modId := rfl
@[simp] theorem State.withHost_slotId (s : State) (x : HostState) : (s.withHost x).slotId = s.slotId := rfl
@[simp] theorem State.withHost_fab (s : State) (x : HostState) : (s.withHost x).fab = s.fab := rfl
@[simp] theorem State.withHost_recov (s : State) (x : HostState) : (s.withHost x).recov = s.recov := rfl
@[simp] theorem State.withHost_evals (s : State) (x : HostState) : (s.withHost x).evals = s.evals := rfl
@[simp] theorem State.withHost_host (s : State) (x : HostState) : (s.withHost x).host = x := rfl
@[simp] theorem State.withHost_ckpt (s : State) (x : HostState) : (s.withHost x).ckpt = s.ckpt := rfl
@[simp] theorem State.withHost_sup (s : State) (x : HostState) : (s.withHost x).sup = s.sup := rfl
@[simp] theorem State.withHost_nut (s : State) (x : HostState) : (s.withHost x).nut = s.nut := rfl
@[simp] theorem State.withHost_alerts (s : State) (x : HostState) : (s.withHost x).alerts = s.alerts := rfl
@[simp] theorem State.withCkpt_fresh (s : State) (x : Ckpt) : (s.withCkpt x).fresh = s.fresh := rfl
@[simp] theorem State.withCkpt_pending (s : State) (x : Ckpt) : (s.withCkpt x).pending = s.pending := rfl
@[simp] theorem State.withCkpt_sent (s : State) (x : Ckpt) : (s.withCkpt x).sent = s.sent := rfl
@[simp] theorem State.withCkpt_clk (s : State) (x : Ckpt) : (s.withCkpt x).clk = s.clk := rfl
@[simp] theorem State.withCkpt_frame (s : State) (x : Ckpt) : (s.withCkpt x).frame = s.frame := rfl
@[simp] theorem State.withCkpt_run (s : State) (x : Ckpt) : (s.withCkpt x).run = s.run := rfl
@[simp] theorem State.withCkpt_steps (s : State) (x : Ckpt) : (s.withCkpt x).steps = s.steps := rfl
@[simp] theorem State.withCkpt_num (s : State) (x : Ckpt) : (s.withCkpt x).num = s.num := rfl
@[simp] theorem State.withCkpt_ledger (s : State) (x : Ckpt) : (s.withCkpt x).ledger = s.ledger := rfl
@[simp] theorem State.withCkpt_cores (s : State) (x : Ckpt) : (s.withCkpt x).cores = s.cores := rfl
@[simp] theorem State.withCkpt_stagedImages (s : State) (x : Ckpt) : (s.withCkpt x).stagedImages = s.stagedImages := rfl
@[simp] theorem State.withCkpt_jobs (s : State) (x : Ckpt) : (s.withCkpt x).jobs = s.jobs := rfl
@[simp] theorem State.withCkpt_stagedJobs (s : State) (x : Ckpt) : (s.withCkpt x).stagedJobs = s.stagedJobs := rfl
@[simp] theorem State.withCkpt_dieMap (s : State) (x : Ckpt) : (s.withCkpt x).dieMap = s.dieMap := rfl
@[simp] theorem State.withCkpt_sync (s : State) (x : Ckpt) : (s.withCkpt x).sync = s.sync := rfl
@[simp] theorem State.withCkpt_syncWin (s : State) (x : Ckpt) : (s.withCkpt x).syncWin = s.syncWin := rfl
@[simp] theorem State.withCkpt_mem (s : State) (x : Ckpt) : (s.withCkpt x).mem = s.mem := rfl
@[simp] theorem State.withCkpt_member (s : State) (x : Ckpt) : (s.withCkpt x).member = s.member := rfl
@[simp] theorem State.withCkpt_routes (s : State) (x : Ckpt) : (s.withCkpt x).routes = s.routes := rfl
@[simp] theorem State.withCkpt_modId (s : State) (x : Ckpt) : (s.withCkpt x).modId = s.modId := rfl
@[simp] theorem State.withCkpt_slotId (s : State) (x : Ckpt) : (s.withCkpt x).slotId = s.slotId := rfl
@[simp] theorem State.withCkpt_fab (s : State) (x : Ckpt) : (s.withCkpt x).fab = s.fab := rfl
@[simp] theorem State.withCkpt_recov (s : State) (x : Ckpt) : (s.withCkpt x).recov = s.recov := rfl
@[simp] theorem State.withCkpt_evals (s : State) (x : Ckpt) : (s.withCkpt x).evals = s.evals := rfl
@[simp] theorem State.withCkpt_host (s : State) (x : Ckpt) : (s.withCkpt x).host = s.host := rfl
@[simp] theorem State.withCkpt_ckpt (s : State) (x : Ckpt) : (s.withCkpt x).ckpt = x := rfl
@[simp] theorem State.withCkpt_sup (s : State) (x : Ckpt) : (s.withCkpt x).sup = s.sup := rfl
@[simp] theorem State.withCkpt_nut (s : State) (x : Ckpt) : (s.withCkpt x).nut = s.nut := rfl
@[simp] theorem State.withCkpt_alerts (s : State) (x : Ckpt) : (s.withCkpt x).alerts = s.alerts := rfl
@[simp] theorem State.withSup_fresh (s : State) (x : Super) : (s.withSup x).fresh = s.fresh := rfl
@[simp] theorem State.withSup_pending (s : State) (x : Super) : (s.withSup x).pending = s.pending := rfl
@[simp] theorem State.withSup_sent (s : State) (x : Super) : (s.withSup x).sent = s.sent := rfl
@[simp] theorem State.withSup_clk (s : State) (x : Super) : (s.withSup x).clk = s.clk := rfl
@[simp] theorem State.withSup_frame (s : State) (x : Super) : (s.withSup x).frame = s.frame := rfl
@[simp] theorem State.withSup_run (s : State) (x : Super) : (s.withSup x).run = s.run := rfl
@[simp] theorem State.withSup_steps (s : State) (x : Super) : (s.withSup x).steps = s.steps := rfl
@[simp] theorem State.withSup_num (s : State) (x : Super) : (s.withSup x).num = s.num := rfl
@[simp] theorem State.withSup_ledger (s : State) (x : Super) : (s.withSup x).ledger = s.ledger := rfl
@[simp] theorem State.withSup_cores (s : State) (x : Super) : (s.withSup x).cores = s.cores := rfl
@[simp] theorem State.withSup_stagedImages (s : State) (x : Super) : (s.withSup x).stagedImages = s.stagedImages := rfl
@[simp] theorem State.withSup_jobs (s : State) (x : Super) : (s.withSup x).jobs = s.jobs := rfl
@[simp] theorem State.withSup_stagedJobs (s : State) (x : Super) : (s.withSup x).stagedJobs = s.stagedJobs := rfl
@[simp] theorem State.withSup_dieMap (s : State) (x : Super) : (s.withSup x).dieMap = s.dieMap := rfl
@[simp] theorem State.withSup_sync (s : State) (x : Super) : (s.withSup x).sync = s.sync := rfl
@[simp] theorem State.withSup_syncWin (s : State) (x : Super) : (s.withSup x).syncWin = s.syncWin := rfl
@[simp] theorem State.withSup_mem (s : State) (x : Super) : (s.withSup x).mem = s.mem := rfl
@[simp] theorem State.withSup_member (s : State) (x : Super) : (s.withSup x).member = s.member := rfl
@[simp] theorem State.withSup_routes (s : State) (x : Super) : (s.withSup x).routes = s.routes := rfl
@[simp] theorem State.withSup_modId (s : State) (x : Super) : (s.withSup x).modId = s.modId := rfl
@[simp] theorem State.withSup_slotId (s : State) (x : Super) : (s.withSup x).slotId = s.slotId := rfl
@[simp] theorem State.withSup_fab (s : State) (x : Super) : (s.withSup x).fab = s.fab := rfl
@[simp] theorem State.withSup_recov (s : State) (x : Super) : (s.withSup x).recov = s.recov := rfl
@[simp] theorem State.withSup_evals (s : State) (x : Super) : (s.withSup x).evals = s.evals := rfl
@[simp] theorem State.withSup_host (s : State) (x : Super) : (s.withSup x).host = s.host := rfl
@[simp] theorem State.withSup_ckpt (s : State) (x : Super) : (s.withSup x).ckpt = s.ckpt := rfl
@[simp] theorem State.withSup_sup (s : State) (x : Super) : (s.withSup x).sup = x := rfl
@[simp] theorem State.withSup_nut (s : State) (x : Super) : (s.withSup x).nut = s.nut := rfl
@[simp] theorem State.withSup_alerts (s : State) (x : Super) : (s.withSup x).alerts = s.alerts := rfl
@[simp] theorem State.withNut_fresh (s : State) (x : Nutshell) : (s.withNut x).fresh = s.fresh := rfl
@[simp] theorem State.withNut_pending (s : State) (x : Nutshell) : (s.withNut x).pending = s.pending := rfl
@[simp] theorem State.withNut_sent (s : State) (x : Nutshell) : (s.withNut x).sent = s.sent := rfl
@[simp] theorem State.withNut_clk (s : State) (x : Nutshell) : (s.withNut x).clk = s.clk := rfl
@[simp] theorem State.withNut_frame (s : State) (x : Nutshell) : (s.withNut x).frame = s.frame := rfl
@[simp] theorem State.withNut_run (s : State) (x : Nutshell) : (s.withNut x).run = s.run := rfl
@[simp] theorem State.withNut_steps (s : State) (x : Nutshell) : (s.withNut x).steps = s.steps := rfl
@[simp] theorem State.withNut_num (s : State) (x : Nutshell) : (s.withNut x).num = s.num := rfl
@[simp] theorem State.withNut_ledger (s : State) (x : Nutshell) : (s.withNut x).ledger = s.ledger := rfl
@[simp] theorem State.withNut_cores (s : State) (x : Nutshell) : (s.withNut x).cores = s.cores := rfl
@[simp] theorem State.withNut_stagedImages (s : State) (x : Nutshell) : (s.withNut x).stagedImages = s.stagedImages := rfl
@[simp] theorem State.withNut_jobs (s : State) (x : Nutshell) : (s.withNut x).jobs = s.jobs := rfl
@[simp] theorem State.withNut_stagedJobs (s : State) (x : Nutshell) : (s.withNut x).stagedJobs = s.stagedJobs := rfl
@[simp] theorem State.withNut_dieMap (s : State) (x : Nutshell) : (s.withNut x).dieMap = s.dieMap := rfl
@[simp] theorem State.withNut_sync (s : State) (x : Nutshell) : (s.withNut x).sync = s.sync := rfl
@[simp] theorem State.withNut_syncWin (s : State) (x : Nutshell) : (s.withNut x).syncWin = s.syncWin := rfl
@[simp] theorem State.withNut_mem (s : State) (x : Nutshell) : (s.withNut x).mem = s.mem := rfl
@[simp] theorem State.withNut_member (s : State) (x : Nutshell) : (s.withNut x).member = s.member := rfl
@[simp] theorem State.withNut_routes (s : State) (x : Nutshell) : (s.withNut x).routes = s.routes := rfl
@[simp] theorem State.withNut_modId (s : State) (x : Nutshell) : (s.withNut x).modId = s.modId := rfl
@[simp] theorem State.withNut_slotId (s : State) (x : Nutshell) : (s.withNut x).slotId = s.slotId := rfl
@[simp] theorem State.withNut_fab (s : State) (x : Nutshell) : (s.withNut x).fab = s.fab := rfl
@[simp] theorem State.withNut_recov (s : State) (x : Nutshell) : (s.withNut x).recov = s.recov := rfl
@[simp] theorem State.withNut_evals (s : State) (x : Nutshell) : (s.withNut x).evals = s.evals := rfl
@[simp] theorem State.withNut_host (s : State) (x : Nutshell) : (s.withNut x).host = s.host := rfl
@[simp] theorem State.withNut_ckpt (s : State) (x : Nutshell) : (s.withNut x).ckpt = s.ckpt := rfl
@[simp] theorem State.withNut_sup (s : State) (x : Nutshell) : (s.withNut x).sup = s.sup := rfl
@[simp] theorem State.withNut_nut (s : State) (x : Nutshell) : (s.withNut x).nut = x := rfl
@[simp] theorem State.withNut_alerts (s : State) (x : Nutshell) : (s.withNut x).alerts = s.alerts := rfl
@[simp] theorem State.withAlerts_fresh (s : State) (x : Nat) : (s.withAlerts x).fresh = s.fresh := rfl
@[simp] theorem State.withAlerts_pending (s : State) (x : Nat) : (s.withAlerts x).pending = s.pending := rfl
@[simp] theorem State.withAlerts_sent (s : State) (x : Nat) : (s.withAlerts x).sent = s.sent := rfl
@[simp] theorem State.withAlerts_clk (s : State) (x : Nat) : (s.withAlerts x).clk = s.clk := rfl
@[simp] theorem State.withAlerts_frame (s : State) (x : Nat) : (s.withAlerts x).frame = s.frame := rfl
@[simp] theorem State.withAlerts_run (s : State) (x : Nat) : (s.withAlerts x).run = s.run := rfl
@[simp] theorem State.withAlerts_steps (s : State) (x : Nat) : (s.withAlerts x).steps = s.steps := rfl
@[simp] theorem State.withAlerts_num (s : State) (x : Nat) : (s.withAlerts x).num = s.num := rfl
@[simp] theorem State.withAlerts_ledger (s : State) (x : Nat) : (s.withAlerts x).ledger = s.ledger := rfl
@[simp] theorem State.withAlerts_cores (s : State) (x : Nat) : (s.withAlerts x).cores = s.cores := rfl
@[simp] theorem State.withAlerts_stagedImages (s : State) (x : Nat) : (s.withAlerts x).stagedImages = s.stagedImages := rfl
@[simp] theorem State.withAlerts_jobs (s : State) (x : Nat) : (s.withAlerts x).jobs = s.jobs := rfl
@[simp] theorem State.withAlerts_stagedJobs (s : State) (x : Nat) : (s.withAlerts x).stagedJobs = s.stagedJobs := rfl
@[simp] theorem State.withAlerts_dieMap (s : State) (x : Nat) : (s.withAlerts x).dieMap = s.dieMap := rfl
@[simp] theorem State.withAlerts_sync (s : State) (x : Nat) : (s.withAlerts x).sync = s.sync := rfl
@[simp] theorem State.withAlerts_syncWin (s : State) (x : Nat) : (s.withAlerts x).syncWin = s.syncWin := rfl
@[simp] theorem State.withAlerts_mem (s : State) (x : Nat) : (s.withAlerts x).mem = s.mem := rfl
@[simp] theorem State.withAlerts_member (s : State) (x : Nat) : (s.withAlerts x).member = s.member := rfl
@[simp] theorem State.withAlerts_routes (s : State) (x : Nat) : (s.withAlerts x).routes = s.routes := rfl
@[simp] theorem State.withAlerts_modId (s : State) (x : Nat) : (s.withAlerts x).modId = s.modId := rfl
@[simp] theorem State.withAlerts_slotId (s : State) (x : Nat) : (s.withAlerts x).slotId = s.slotId := rfl
@[simp] theorem State.withAlerts_fab (s : State) (x : Nat) : (s.withAlerts x).fab = s.fab := rfl
@[simp] theorem State.withAlerts_recov (s : State) (x : Nat) : (s.withAlerts x).recov = s.recov := rfl
@[simp] theorem State.withAlerts_evals (s : State) (x : Nat) : (s.withAlerts x).evals = s.evals := rfl
@[simp] theorem State.withAlerts_host (s : State) (x : Nat) : (s.withAlerts x).host = s.host := rfl
@[simp] theorem State.withAlerts_ckpt (s : State) (x : Nat) : (s.withAlerts x).ckpt = s.ckpt := rfl
@[simp] theorem State.withAlerts_sup (s : State) (x : Nat) : (s.withAlerts x).sup = s.sup := rfl
@[simp] theorem State.withAlerts_nut (s : State) (x : Nat) : (s.withAlerts x).nut = s.nut := rfl
@[simp] theorem State.withAlerts_alerts (s : State) (x : Nat) : (s.withAlerts x).alerts = x := rfl

end Sys2Proof.Machine
end

