-- ==== Sys2Proof/Laws/Commands.lean ====
section
/-!
SUPPORT. What a host command at its turn answers, in terms of its body: cite these in place of unfolding `hostCmd`, `checked` and `withSource`.
-/

namespace Sys2Proof.Machine

/-- A command at its turn in a state that allows it answers what its body gives, or waits. -/
theorem hostCmd_ready {op t : Nat} {p : Bytes} {s : State} (h : s.ready op t p) (body : State → State × Option Reply) :
    hostCmd op t p body s = match body s with
      | (s1, some r) => .next (s1.respond t r)
      | (s1, none) => .next (s1.setTenant t (fun x => { x with running := x.running.map (fun q => { q with started := true }) })) := by
  unfold hostCmd; exact (if_neg (by simp [h.1])).trans (if_neg (by simp [h.2]))

/-- A command at its turn in a state that does not allow it answers WRONG_STATE. -/
theorem hostCmd_wrongState {op t : Nat} {p : Bytes} {s : State} (h1 : s.runs op t p = true) (h2 : s.stateOk op = false)
    (body : State → State × Option Reply) : hostCmd op t p body s = .next (s.respond t wrongState) := by
  unfold hostCmd; rw [if_neg (by simp [h1]), if_pos (by simp [h2])]

/-- A command that only reads answers its record. -/
theorem readCmd_ready {op t : Nat} {p : Bytes} {s : State} (h : s.ready op t p) (body : State → Reply) :
    readCmd op t p body s = .next (s.respond t (body s)) := by
  unfold readCmd; rw [hostCmd_ready h]

/-- With no failing check the command runs. -/
theorem firstFail_none {l : List (Bool × Reply)} (h : ∀ e ∈ l, e.1 = false) : firstFail l = none := by
  induction l with
  | nil => rfl
  | cons a l ih =>
    obtain ⟨b, r⟩ := a
    have hb : b = false := h (b, r) List.mem_cons_self
    subst hb
    exact ih (fun e he => h e (List.mem_cons_of_mem _ he))

theorem checked_none {l : List (Bool × Reply)} {s : State} {f : State → State × Option Reply} (h : ∀ e ∈ l, e.1 = false) : checked l s f = f s := by
  unfold checked; rw [firstFail_none h]

/-- A structure that a region holds is the one the command reads. -/
theorem withSource_of_holdsAt {s : State} {t i off head : Nat} {need : Bytes → Nat} {b : Bytes} (h : s.holdsAt t i off head need b)
    (k : Bytes → State → State × Option Reply) : s.withSource t i off head need k = k b s := by
  obtain ⟨g, h1, h2, h3⟩ := h
  simp only [State.withSource, h1, State.withBytes, h2, h3]

end Sys2Proof.Machine
end

