-- ==== Sys2Proof/Laws/Sparse.lean ====
section
/-!
SUPPORT. Sparse maps: what a read sees after a write, and the canonical form that every write keeps; and the memory operations over them.
-/

namespace Sys2Proof.Machine

/-! Reads after writes. -/

@[simp] theorem SMap.get_insert_same {α : Type} (d : α) (m : SMap α) (i : Nat) (v : α) : SMap.get d (SMap.insert m i v) i = v := by
  induction m with
  | nil => simp [SMap.insert, SMap.get]
  | cons e m ih =>
    obtain ⟨k, w⟩ := e
    simp only [SMap.insert]
    split
    · simp [SMap.get]
    · split
      · simp [SMap.get]
      · simp [SMap.get, *]

theorem SMap.get_insert_other {α : Type} (d : α) (m : SMap α) {i j : Nat} (v : α) (h : j ≠ i) : SMap.get d (SMap.insert m i v) j = SMap.get d m j := by
  induction m with
  | nil => simp [SMap.insert, SMap.get, h]
  | cons e m ih =>
    obtain ⟨k, w⟩ := e
    simp only [SMap.insert]
    split
    · simp [SMap.get, h]
    · split
      · rename_i _ hk; subst hk; simp [SMap.get, h]
      · simp [SMap.get, ih]

theorem SMap.get_insert {α : Type} (d : α) (m : SMap α) (i j : Nat) (v : α) : SMap.get d (SMap.insert m i v) j = if j = i then v else SMap.get d m j := by
  split
  · subst_vars; simp
  · exact SMap.get_insert_other d m v ‹_›

@[simp] theorem SMap.find?_insert_same {α : Type} (m : SMap α) (i : Nat) (v : α) : SMap.find? (SMap.insert m i v) i = some v := by
  induction m with
  | nil => simp [SMap.insert, SMap.find?]
  | cons e m ih =>
    obtain ⟨k, w⟩ := e
    simp only [SMap.insert]
    split
    · simp [SMap.find?]
    · split
      · simp [SMap.find?]
      · simp [SMap.find?, *]

theorem SMap.find?_insert_other {α : Type} (m : SMap α) {i j : Nat} (v : α) (h : j ≠ i) : SMap.find? (SMap.insert m i v) j = SMap.find? m j := by
  induction m with
  | nil => simp [SMap.insert, SMap.find?, h]
  | cons e m ih =>
    obtain ⟨k, w⟩ := e
    simp only [SMap.insert]
    split
    · simp [SMap.find?, h]
    · split
      · rename_i _ hk; subst hk; simp [SMap.find?, h]
      · simp [SMap.find?, ih]

/-- Writing a key twice leaves what the second write gives. -/
@[simp] theorem SMap.insert_insert_same {α : Type} (m : SMap α) (i : Nat) (v w : α) : SMap.insert (SMap.insert m i v) i w = SMap.insert m i w := by
  induction m with
  | nil => simp [SMap.insert]
  | cons e m ih =>
    obtain ⟨k, x⟩ := e
    simp only [SMap.insert]
    split
    · simp [SMap.insert]
    · split
      · simp [SMap.insert]
      · simp [SMap.insert, *]

/-! The canonical form. -/

theorem SMap.risingFrom_mono {α : Type} {a b : Nat} (m : SMap α) (h : a ≤ b) (hm : SMap.risingFrom b m = true) : SMap.risingFrom a m = true := by
  cases m with
  | nil => rfl
  | cons e m => simp only [SMap.risingFrom, Bool.and_eq_true, decide_eq_true_eq] at *; exact ⟨by omega, hm.2⟩

theorem SMap.risingFrom_insert {α : Type} (lo : Nat) (m : SMap α) (i : Nat) (v : α) (hi : lo ≤ i) (hm : SMap.risingFrom lo m = true) :
    SMap.risingFrom lo (SMap.insert m i v) = true := by
  induction m generalizing lo with
  | nil => simp [SMap.insert, SMap.risingFrom, hi]
  | cons e m ih =>
    obtain ⟨k, w⟩ := e
    simp only [SMap.risingFrom, Bool.and_eq_true, decide_eq_true_eq] at hm
    simp only [SMap.insert]
    split
    · simp [SMap.risingFrom, hi, hm.2]; omega
    · split
      · subst_vars; simp [SMap.risingFrom, hi, hm.2]
      · simp only [SMap.risingFrom, Bool.and_eq_true, decide_eq_true_eq]
        exact ⟨hm.1, ih (k + 1) (by omega) hm.2⟩

theorem SMap.risingFrom_filter {α : Type} (p : Nat × α → Bool) (lo : Nat) (m : SMap α) (hm : SMap.risingFrom lo m = true) :
    SMap.risingFrom lo (m.filter p) = true := by
  induction m generalizing lo with
  | nil => rfl
  | cons e m ih =>
    obtain ⟨k, w⟩ := e
    simp only [SMap.risingFrom, Bool.and_eq_true, decide_eq_true_eq] at hm
    rw [List.filter_cons]
    split
    · simp only [SMap.risingFrom, Bool.and_eq_true, decide_eq_true_eq]; exact ⟨hm.1, ih _ hm.2⟩
    · exact ih lo (SMap.risingFrom_mono m (by omega) hm.2)

theorem SMap.risingFrom_erase {α : Type} (lo : Nat) (m : SMap α) (i : Nat) (hm : SMap.risingFrom lo m = true) : SMap.risingFrom lo (SMap.erase m i) = true := by
  induction m generalizing lo with
  | nil => rfl
  | cons e m ih =>
    obtain ⟨k, w⟩ := e
    simp only [SMap.risingFrom, Bool.and_eq_true, decide_eq_true_eq] at hm
    simp only [SMap.erase]
    split
    · exact SMap.risingFrom_mono m (by omega) hm.2
    · simp only [SMap.risingFrom, Bool.and_eq_true, decide_eq_true_eq]; exact ⟨hm.1, ih _ hm.2⟩

theorem SMap.mem_insert {α : Type} {m : SMap α} {i : Nat} {v : α} {e : Nat × α} (h : e ∈ SMap.insert m i v) : e = (i, v) ∨ e ∈ m := by
  induction m with
  | nil => simpa [SMap.insert] using h
  | cons x m ih =>
    obtain ⟨k, w⟩ := x
    simp only [SMap.insert] at h
    split at h
    · simpa using h
    · split at h
      · rcases List.mem_cons.1 h with h | h
        · exact .inl h
        · exact .inr (List.mem_cons_of_mem _ h)
      · rcases List.mem_cons.1 h with h | h
        · exact .inr (h ▸ List.mem_cons_self)
        · exact (ih h).imp id (List.mem_cons_of_mem _)

theorem SMap.mem_erase {α : Type} {m : SMap α} {i : Nat} {e : Nat × α} (h : e ∈ SMap.erase m i) : e ∈ m := by
  induction m with
  | nil => exact h
  | cons x m ih =>
    obtain ⟨k, w⟩ := x
    simp only [SMap.erase] at h
    split at h
    · exact List.mem_cons_of_mem _ h
    · rcases List.mem_cons.1 h with h | h
      · exact h ▸ List.mem_cons_self
      · exact List.mem_cons_of_mem _ (ih h)

section
variable {α : Type} [DecidableEq α] {d : α}

theorem SMap.wf_iff {m : SMap α} : SMap.wf d m = true ↔ SMap.risingFrom 0 m = true ∧ ∀ e ∈ m, e.2 ≠ d := by
  simp [SMap.wf, List.all_eq_true]

/-- Putting in a value that an unlisted key does not read as keeps the form. -/
theorem SMap.wf_insert {m : SMap α} {i : Nat} {v : α} (h : SMap.wf d m = true) (hv : v ≠ d) : SMap.wf d (SMap.insert m i v) = true := by
  rw [SMap.wf_iff] at *
  refine ⟨SMap.risingFrom_insert 0 m i v (Nat.zero_le _) h.1, fun e he => ?_⟩
  rcases SMap.mem_insert he with rfl | he
  · exact hv
  · exact h.2 e he

theorem SMap.wf_erase {m : SMap α} {i : Nat} (h : SMap.wf d m = true) : SMap.wf d (SMap.erase m i) = true := by
  rw [SMap.wf_iff] at *; exact ⟨SMap.risingFrom_erase 0 m i h.1, fun e he => h.2 e (SMap.mem_erase he)⟩

theorem SMap.wf_set {m : SMap α} {i : Nat} {v : α} (h : SMap.wf d m = true) : SMap.wf d (SMap.set d m i v) = true := by
  unfold SMap.set; split
  · exact SMap.wf_erase h
  · exact SMap.wf_insert h ‹_›

theorem SMap.wf_setRun {m : SMap α} {i : Nat} {vs : List α} (h : SMap.wf d m = true) : SMap.wf d (SMap.setRun d m i vs) = true := by
  induction vs generalizing m i with
  | nil => exact h
  | cons v vs ih => exact ih (SMap.wf_set h)

theorem SMap.wf_filter {m : SMap α} {p : Nat × α → Bool} (h : SMap.wf d m = true) : SMap.wf d (m.filter p) = true := by
  rw [SMap.wf_iff] at *; exact ⟨SMap.risingFrom_filter p 0 m h.1, fun e he => h.2 e (List.mem_of_mem_filter he)⟩

theorem SMap.wf_keep {m : SMap α} {p : Nat → Bool} (h : SMap.wf d m = true) : SMap.wf d (SMap.keep p m) = true := SMap.wf_filter h

/-- Moving the entries of a map to other keys keeps the form. -/
theorem SMap.wf_moved {m : SMap α} {f : Nat → Nat} (h : SMap.wf d m = true) :
    SMap.wf d (m.foldl (fun q e => SMap.insert q (f e.1) e.2) []) = true := by
  have key : ∀ (l : SMap α) (acc : SMap α), SMap.wf d acc = true → (∀ e ∈ l, e.2 ≠ d) →
      SMap.wf d (l.foldl (fun q e => SMap.insert q (f e.1) e.2) acc) = true := by
    intro l
    induction l with
    | nil => intro acc ha _; exact ha
    | cons e l ih => intro acc ha hl; exact ih _ (SMap.wf_insert ha (hl e List.mem_cons_self)) (fun x hx => hl x (List.mem_cons_of_mem _ hx))
  exact key m [] rfl (SMap.wf_iff.1 h).2

end

/-! The memory operations. -/

theorem Memory.wf_write {m : List Host.Cell} {a : Nat} {b : Byte} (h : Memory.wf m = true) : Memory.wf (Memory.write m a b) = true := SMap.wf_set h
theorem Memory.wf_writeBytes {m : List Host.Cell} {a : Nat} {bs : Bytes} (h : Memory.wf m = true) : Memory.wf (Memory.writeBytes m a bs) = true :=
  SMap.wf_setRun h
theorem Memory.wf_nil : Memory.wf [] = true := rfl

/-- In a map of rising keys, a key below the first is not listed. -/
theorem SMap.get_below {α : Type} (d : α) {lo i : Nat} {m : SMap α} (hm : SMap.risingFrom lo m = true) (h : i < lo) : SMap.get d m i = d := by
  induction m generalizing lo with
  | nil => rfl
  | cons e m ih =>
    obtain ⟨k, w⟩ := e
    simp only [SMap.risingFrom, Bool.and_eq_true, decide_eq_true_eq] at hm
    simp only [SMap.get]
    rw [if_neg (by omega)]
    exact ih hm.2 (by omega)

theorem SMap.get_erase {α : Type} (d : α) {lo : Nat} {m : SMap α} (hm : SMap.risingFrom lo m = true) (i j : Nat) :
    SMap.get d (SMap.erase m i) j = if j = i then d else SMap.get d m j := by
  induction m generalizing lo with
  | nil => simp [SMap.erase, SMap.get]
  | cons e m ih =>
    obtain ⟨k, w⟩ := e
    simp only [SMap.risingFrom, Bool.and_eq_true, decide_eq_true_eq] at hm
    simp only [SMap.erase]
    by_cases hik : i = k
    · subst hik
      simp only [if_true, SMap.get]
      split
      · subst_vars; exact SMap.get_below d hm.2 (by omega)
      · rfl
    · rw [if_neg hik]
      simp only [SMap.get]
      by_cases hjk : j = k
      · subst hjk; simp [Ne.symm hik]
      · simp [hjk, ih hm.2]

/-- A read of a byte of a memory in canonical form after a write: the byte written there, and every other byte as it was. -/
theorem Memory.read_write {m : List Host.Cell} (h : Memory.wf m = true) (a x : Nat) (b : Byte) :
    Memory.read (Memory.write m a b) x = if x = a then b else Memory.read m x := by
  unfold Memory.read Memory.write SMap.set
  split
  · subst_vars; exact SMap.get_erase 0 (SMap.wf_iff.1 h).1 a x
  · exact SMap.get_insert 0 m a x b

/-- A read of a byte after a run is written. -/
theorem Memory.read_writeBytes {m : List Host.Cell} (h : Memory.wf m = true) (a x : Nat) (bs : Bytes) :
    Memory.read (Memory.writeBytes m a bs) x = if a ≤ x ∧ x < a + bs.length then bs.getD (x - a) 0 else Memory.read m x := by
  induction bs generalizing m a with
  | nil => simp [Memory.writeBytes, SMap.setRun, Memory.read]
  | cons b bs ih =>
    have hs : Memory.writeBytes m a (b :: bs) = Memory.writeBytes (Memory.write m a b) (a + 1) bs := rfl
    rw [hs, ih (Memory.wf_write h), Memory.read_write h]
    by_cases h1 : x = a
    · subst h1; simp
    · by_cases h2 : a + 1 ≤ x ∧ x < a + 1 + bs.length
      · obtain ⟨k, hk⟩ : ∃ k, x - a = k + 1 := ⟨x - a - 1, by omega⟩
        have h3 : a ≤ x ∧ x < a + (b :: bs).length := by simp; omega
        rw [if_pos h2, if_pos h3, hk, show x - (a + 1) = k by omega]; rfl
      · have h3 : ¬ (a ≤ x ∧ x < a + (b :: bs).length) := by simp; omega
        rw [if_neg h2, if_neg h3, if_neg h1]

end Sys2Proof.Machine
end

