-- ==== Sys2Proof/Laws/Issue.lean ====
section
/-!
SUPPORT. What the sequencer of a core does with an instruction it offers: one lemma for each way its body can end, and the reads of cores and registers
after they are written.
-/

namespace Sys2Proof.Machine

@[simp] theorem State.core_setCore_same (s : State) (c : Nat) (k : Core) : (s.setCore c k).core c = k := SMap.get_insert_same _ _ _ _

theorem State.core_setCore_other (s : State) {c d : Nat} (k : Core) (h : d ≠ c) : (s.setCore c k).core d = s.core d := SMap.get_insert_other _ _ _ h

@[simp] theorem State.setCore_setCore_same (s : State) (c : Nat) (k l : Core) : (s.setCore c k).setCore c l = s.setCore c l := by
  simp [State.setCore, State.withCores]

/-- After an instruction that leaves its core as `k`, the core is `k` with the instruction counted. -/
@[simp] theorem State.core_leaves (s : State) (c : Nat) (k : Core) : (s.leaves c k).core c = k.retire none := by simp [State.leaves, State.retired]

@[simp] theorem State.core_retired (s : State) (c : Nat) : (s.retired c).core c = (s.core c).retire none := by simp [State.retired]

@[simp] theorem State.core_jumps (s : State) (c pc : Nat) (k : Core) : (s.jumps c k pc).core c = k.retire (some pc) := by simp [State.jumps]

theorem State.core_retired_other (s : State) {c d : Nat} (h : d ≠ c) : (s.retired c).core d = s.core d := State.core_setCore_other _ _ h

theorem State.core_leaves_other (s : State) {c d : Nat} (k : Core) (h : d ≠ c) : (s.leaves c k).core d = s.core d := by
  simp [State.leaves, State.retired, State.core_setCore_other, h]

/-- An instruction that a core offers runs its body. -/
theorem issue_offers {s : State} {c : Nat} {i : Instr} {e : EntryRun} {w : Word} (h : s.offers c i e w) (body : Core → EntryRun → State → Issued) :
    issue c i body s = match body (s.core c) e s with
      | .done s' => .next (s'.retired c)
      | .goto s' pc => .next (s'.setCore c ((s'.core c).retire (some pc)))
      | .raise code detail => .next (s.raiseExc c e code detail e.issued w)
      | .raiseIn s' code detail => .next (s'.raiseExc c e code detail e.issued w)
      | .stall => .next s := by
  obtain ⟨h1, h2, h3, h4, h5, h6, h7, h8⟩ := h
  have hl : ¬ (e.limit ≠ 0 ∧ e.limit ≤ e.issued) := by omega
  have hc : ¬ 512 ≤ c := by omega
  unfold issue State.retired
  simp only [h2]
  rw [if_neg (by simp [hc, h3, h4, h5]), if_neg hl]
  simp only [h7]
  refine (if_neg (by simp [h8])).trans ?_
  cases body (s.core c) e s <;> rfl

/-- An instruction that only changes its core's registers. -/
theorem issueReg_offers {s : State} {c : Nat} {i : Instr} {e : EntryRun} {w : Word} (h : s.offers c i e w) (f : Core → Core) :
    issueReg c i f s = .next (s.leaves c (f (s.core c))) := by
  rw [issueReg, issue_offers h]; rfl

/-- A stopped, ended or waiting core offers nothing. -/
theorem issue_waiting {s : State} {c : Nat} {e : EntryRun} (i : Instr) (body : Core → EntryRun → State → Issued) (h : (s.core c).entry = some e)
    (hw : (s.core c).wait.isSome = true) : issue c i body s = notNow "the core issues nothing now" := by
  simp [issue, h, hw]

/-! Registers. -/

@[simp] theorem Core.s_zero (k : Core) : k.s 0 = 0 := rfl
@[simp] theorem Core.a_zero (k : Core) : k.a 0 = 0 := rfl

theorem Core.s_setS (k : Core) (d r : BitVec 5) (v : Word) : (k.setS d v).s r = if r = d ∧ d ≠ 0 then v else k.s r := by
  by_cases hd : d = 0
  · rw [if_neg (by simp [hd]), Core.setS, if_pos hd]
  · rw [Core.setS, if_neg hd]
    unfold Core.s
    by_cases hr : r = 0
    · rw [if_pos hr, if_pos hr, if_neg (by rintro ⟨h, -⟩; exact hd (h ▸ hr))]
    · rw [if_neg hr, if_neg hr]
      by_cases hrd : r = d
      · rw [if_pos ⟨hrd, hd⟩, hrd]; exact SMap.get_insert_same _ _ _ _
      · rw [if_neg (by simp [hrd])]
        exact SMap.get_insert_other _ _ _ (fun h => hrd (BitVec.eq_of_toNat_eq h))

theorem Core.a_setA (k : Core) (d r : BitVec 4) (v : Word) : (k.setA d v).a r = if r = d ∧ d ≠ 0 then v else k.a r := by
  by_cases hd : d = 0
  · rw [if_neg (by simp [hd]), Core.setA, if_pos hd]
  · rw [Core.setA, if_neg hd]
    unfold Core.a
    by_cases hr : r = 0
    · rw [if_pos hr, if_pos hr, if_neg (by rintro ⟨h, -⟩; exact hd (h ▸ hr))]
    · rw [if_neg hr, if_neg hr]
      by_cases hrd : r = d
      · rw [if_pos ⟨hrd, hd⟩, hrd]; exact SMap.get_insert_same _ _ _ _
      · rw [if_neg (by simp [hrd])]
        exact SMap.get_insert_other _ _ _ (fun h => hrd (BitVec.eq_of_toNat_eq h))

theorem Core.a_setS (k : Core) (d : BitVec 5) (r : BitVec 4) (v : Word) : (k.setS d v).a r = k.a r := by
  rw [Core.setS]; split <;> rfl

theorem Core.s_setA (k : Core) (d : BitVec 4) (r : BitVec 5) (v : Word) : (k.setA d v).s r = k.s r := by
  rw [Core.setA]; split <;> rfl

/-- Writing a scalar register leaves everything else of the core. -/
theorem Core.setS_rest (k : Core) (d : BitVec 5) (v : Word) :
    (k.setS d v).aregs = k.aregs ∧ (k.setS d v).descs = k.descs ∧ (k.setS d v).vregs = k.vregs ∧ (k.setS d v).masks = k.masks ∧ (k.setS d v).acc = k.acc
      ∧ (k.setS d v).status = k.status ∧ (k.setS d v).first = k.first ∧ (k.setS d v).exc = k.exc ∧ (k.setS d v).store = k.store
      ∧ (k.setS d v).entry = k.entry ∧ (k.setS d v).loops = k.loops ∧ (k.setS d v).calls = k.calls := by
  unfold Core.setS; split <;> simp

theorem Core.setA_rest (k : Core) (d : BitVec 4) (v : Word) :
    (k.setA d v).sregs = k.sregs ∧ (k.setA d v).descs = k.descs ∧ (k.setA d v).vregs = k.vregs ∧ (k.setA d v).masks = k.masks ∧ (k.setA d v).acc = k.acc
      ∧ (k.setA d v).status = k.status ∧ (k.setA d v).first = k.first ∧ (k.setA d v).exc = k.exc ∧ (k.setA d v).store = k.store
      ∧ (k.setA d v).entry = k.entry ∧ (k.setA d v).loops = k.loops ∧ (k.setA d v).calls = k.calls := by
  unfold Core.setA; split <;> simp

/-- Counting an instruction changes only the entry and the loops of its core. -/
theorem Core.retire_rest (k : Core) (t : Option Nat) :
    (k.retire t).sregs = k.sregs ∧ (k.retire t).aregs = k.aregs ∧ (k.retire t).descs = k.descs ∧ (k.retire t).vregs = k.vregs ∧ (k.retire t).masks = k.masks
      ∧ (k.retire t).acc = k.acc ∧ (k.retire t).closed = k.closed ∧ (k.retire t).status = k.status ∧ (k.retire t).first = k.first
      ∧ (k.retire t).exc = k.exc ∧ (k.retire t).store = k.store ∧ (k.retire t).wait = k.wait ∧ (k.retire t).overlay = k.overlay
      ∧ (k.retire t).calls = k.calls ∧ (k.retire t).matQ = k.matQ ∧ (k.retire t).loadQ = k.loadQ ∧ (k.retire t).sigQ = k.sigQ := by
  unfold Core.retire
  split
  · simp
  · split <;> simp

end Sys2Proof.Machine
end

