-- ==== Sys2Proof/Tests/Commands.lean ====
section
/-!
SUPPORT. Witnesses: for the statements about host commands, concrete states and payloads that meet the hypotheses of each clause.
-/

namespace Sys2Proof.Tests

set_option Elab.async false

open Sys2Proof Sys2Proof.Machine

/-- A state in which a submission of tenant `t` runs, in session 1. -/
def told (op t : Nat) (p : Bytes) (s : State) : State :=
  s.setTenant t (fun x => { x with running := some { tenant := t, session := 1, opcode := op, slot := 0, seq := 0, len := p.length, hostTag := 0,
                                                     carried := p.length, payload := p, started := false } })

/-- Region 1 of the Owner: 2 MiB from address 0, which begins with `b`. -/
def heap (b : Bytes) : State :=
  (State.reset.withMem { State.reset.mem with regions := [(1, { tenant := 0, kind := 0, spill := 0, base := 0, size := mib2 })] }).writeMem 0 b

theorem holdsAt_of {s : State} {t i off head : Nat} {need : Bytes → Nat} {b : Bytes} (g : Region) (h1 : s.ownRegion t i = some g)
    (h2 : s.badIn (g.base + off) (min (max head (need (s.readMem (g.base + off) (min head (g.size - off))))) (g.size - off)) = none)
    (h3 : s.readMem (g.base + off) (min (max head (need (s.readMem (g.base + off) (min head (g.size - off))))) (g.size - off)) = b) :
    s.holdsAt t i off head need b := ⟨g, h1, h2, h3⟩

/-- A run in period 3 of table period 1. -/
def running (s : State) : State := s.withRun { s.run with mode := .running, kind := .normal, period := 3, comma := 3, sealed := 1, lag0 := some 3, lag1 := some 2 }

theorem witness_IdentityCommands :
    (told 0x0101 0 (zeros 8) .reset).ready 0x0101 0 (zeros 8) ∧ (told 0x0101 2 (2 :: zeros 7) .reset).ready 0x0101 2 (2 :: zeros 7)
    ∧ field (2 :: zeros 7) 0 1 = 1 + 1 ∧ allZero (2 :: zeros 7) 1 7 = true ∧ (told 0x0102 1 (zeros 32) .reset).ready 0x0102 1 (zeros 32)
    ∧ (told 0x0201 0 [] .reset).ready 0x0201 0 [] ∧ (told 0x0202 0 (1 :: zeros 127) .reset).ready 0x0202 0 (1 :: zeros 127)
    ∧ firstFail (configChecks (1 :: zeros 127)) = none := by
  unfold State.ready; decide +kernel

theorem witness_certRead : (told 0x0103 0 (2 :: zeros 7) .reset).ready 0x0103 0 (2 :: zeros 7) ∧ field (2 :: zeros 7) 0 1 = 2 ∧ allZero (2 :: zeros 7) 1 3 = true
    ∧ 2 ∉ (told 0x0103 0 (2 :: zeros 7) .reset).sup.certBad ∧ field (2 :: zeros 7) 4 4 < (certificateOf 2).length :=
  ⟨by unfold State.ready; decide +kernel, by decide, by decide, by decide +kernel, Nat.succ_pos _⟩

def quota2 : Bytes := [2, 0x05, 16, 0] ++ leBytes 4 0 ++ leBytes 4 1000 ++ leBytes 4 0

theorem witness_TenantCommands :
    (told 0x0301 3 [] .reset).ready 0x0301 3 [] ∧ (told 0x0302 0 quota2 .reset).ready 0x0302 0 quota2 ∧ field quota2 0 1 = 2
    ∧ (told 0x0302 0 quota2 .reset).host.tenants.length = 4 ∧ firstFail (quotaChecks quota2 0 2) = none
    ∧ (told 0x0304 1 [] .reset).ready 0x0304 1 [] ∧ ((told 0x0304 1 [] .reset).tenant 1).running.isSome = true := by
  unfold State.ready; decide +kernel

def alloc (spill : Byte) : Bytes := leBytes 2 4095 ++ [0, spill] ++ zeros 4 ++ leBytes 8 mib2
def write1 (flag n : Nat) : Bytes := leBytes 2 1 ++ leBytes 2 flag ++ leBytes 4 7 ++ leBytes 8 64 ++ leBytes 8 n

theorem witness_regionAlloc :
    (told 0x0401 0 (alloc 1) .reset).ready 0x0401 0 (alloc 1) ∧ field (alloc 1) 8 8 = mib2 ∧ (told 0x0401 0 (alloc 1) .reset).freeRange mib2 = some 0
    ∧ field (alloc 1) 0 2 = 4095 ∧ (told 0x0401 0 (alloc 1) .reset).region 4095 = none ∧ allZero (alloc 1) 4 4 = true
    ∧ (told 0x8401 0 (alloc 2) .reset).ready 0x8401 0 (alloc 2) ∧ field (alloc 2) 3 1 = 2
    ∧ (told 0x8401 0 (alloc 2) .reset).freeRange mib2 = some 0 := by
  unfold State.ready; decide +kernel

/-- The Evaluator's heap quota is reached exactly. -/
theorem witness_regionAlloc_quota :
    let s := told 0x0401 1 (alloc 0) (State.reset.setTenant 1 (fun x => { x with quota := [16, 2, 1000, 0] }))
    s.runs 0x0401 1 (alloc 0) = true ∧ s.stateOk 0x0401 = true ∧ (s.uses 1).getD 1 0 + mib2 / 1048576 ≤ (s.tenant 1).quotaAt 1 := by decide +kernel

theorem witness_regionFree : let s := told 0x0402 0 (1 :: zeros 7) (heap [])
    s.runs 0x0402 0 (1 :: zeros 7) = true ∧ s.stateOk 0x0402 = true ∧ (s.ownRegion 0 1).isSome = true ∧ allZero (1 :: zeros 7) 2 6 = true
    ∧ 1 ∉ s.armedRegions ∧ 1 ∉ s.stagedRegions ∧ 1 ∉ s.restoreRegions ∧ s.regionBusy 1 = false := by decide +kernel

/-- A write of the last byte of a region, and of none. -/
theorem witness_regionWrite :
    (let p := leBytes 2 1 ++ zeros 6 ++ leBytes 8 (mib2 - 1) ++ leBytes 8 1 ++ [0xAB]; let s := told 0x0403 0 p (heap [])
     s.runs 0x0403 0 p = true ∧ s.stateOk 0x0403 = true ∧ s.ownRegion 0 1 = some { tenant := 0, kind := 0, spill := 0, base := 0, size := mib2 }
     ∧ field p 2 2 = 0 ∧ field p 0x10 8 = 1 ∧ p.length = 24 + 1 ∧ field p 8 8 + 1 ≤ mib2 ∧ s.armedState = false ∧ s.regionChanging 1 = false)
    ∧ (let p := write1 1 4096; let s := told 0x0403 0 p (heap [])
       s.runs 0x0403 0 p = true ∧ s.stateOk 0x0403 = true ∧ field p 2 2 = 1 ∧ field p 0x10 8 = 4096 ∧ field p 8 8 + 4096 ≤ mib2 ∧ s.armedState = false
       ∧ s.regionChanging 1 = false ∧ s.numberOpen (s.runningSession 0) (field p 4 4) = false ∧ (s.transfersOf (s.runningSession 0)).length < 64) := by
  decide +kernel

theorem witness_regionRead :
    (let p := write1 0 5000; let s := told 0x0404 0 p (heap [1, 2, 3])
     s.runs 0x0404 0 p = true ∧ s.stateOk 0x0404 = true ∧ (s.ownRegion 0 1).isSome = true ∧ field p 2 2 = 0 ∧ field p 8 8 + min 4096 5000 ≤ mib2
     ∧ s.badIn (0 + field p 8 8) (min 4096 5000) = none)
    ∧ (let p := write1 1 5000; let s := told 0x0404 0 p (heap [1, 2, 3])
       s.runs 0x0404 0 p = true ∧ s.stateOk 0x0404 = true ∧ field p 2 2 = 1 ∧ field p 8 8 + 5000 ≤ mib2 ∧ s.badIn (0 + field p 8 8) 5000 = none) := by
  decide +kernel

/-- A program of one entry and one END (R141). -/
def endImage : Bytes :=
  leBytes 4 1 ++ leBytes 2 1 ++ leBytes 2 0 ++ leBytes 2 1 ++ leBytes 2 0 ++ leBytes 4 0 ++ leBytes 8 5 ++ leBytes 4 0x40 ++ leBytes 4 0x80 ++ leBytes 4 0x80
    ++ zeros 28 ++ zeros 0x40 ++ leBytes 8 (0x6 * 2 ^ 60 + 0x01 * 2 ^ 52)
def endProgram : Image := { tag := 5, entries := [(0, 0)], descs := [], resident := [BitVec.ofNat 64 (0x6 * 2 ^ 60 + 0x01 * 2 ^ 52)], overlay := [] }
def loadMask : Bytes := leBytes 2 1 ++ zeros 6 ++ [1] ++ zeros 63

theorem readImage_of {b : Bytes} {i : Image} (h1 : firstFault (headerFaults b) = none) (h2 : firstFault (bodyFaults 0 b) = none) (h3 : imageOf b = i) :
    readImage b = .ok i := by
  unfold readImage readImageAt; rw [h1]; simp only [h2, h3]

theorem witness_programLoad (op : Nat) (h : op = 0x0501 ∨ op = 0x8501) : let s := told op 0 loadMask (heap endImage)
    s.ready op 0 loadMask ∧ s.holdsAt 0 (field loadMask 0 2) 0 0x30 imageEnd endImage ∧ readImage endImage = .ok endProgram ∧ maskCores loadMask = [0]
    ∧ s.coreBusy 0 = false ∧ allZero loadMask 2 6 = true ∧ s.overlayFull (maskCores loadMask) endProgram = false
    ∧ (∀ f ∈ endProgram.verify, f.code ≠ fOverlap) := by
  rcases h with rfl | rfl <;>
    exact ⟨by unfold State.ready; decide +kernel, holdsAt_of _ (by rfl) (by decide +kernel) (by decide +kernel),
      readImage_of (by decide +kernel) (by decide +kernel) (by decide +kernel), by decide +kernel, by decide +kernel,
      by decide +kernel, by decide +kernel, by decide +kernel⟩

theorem witness_programVerify :
    (let p := [0, 0] ++ leBytes 2 1 ++ zeros 4; let s := told 0x0503 0 p (heap endImage)
     s.ready 0x0503 0 p ∧ s.holdsAt 0 (field p 2 2) 0 0x30 imageEnd endImage ∧ field p 0 1 = 0 ∧ allZero p 1 1 = true ∧ allZero p 4 4 = true)
    ∧ (let p := [1, 0] ++ leBytes 2 511 ++ zeros 4; let s := told 0x0503 0 p (State.reset.setCore 511 { Core.blank with prog := some endProgram })
       s.ready 0x0503 0 p ∧ (s.core (field p 2 2)).prog = some endProgram ∧ field p 0 1 = 1 ∧ field p 2 2 ≤ 511 ∧ allZero p 1 1 = true) := by
  refine ⟨⟨by unfold State.ready; decide +kernel, holdsAt_of _ (by rfl) (by decide +kernel) (by decide +kernel), ?_⟩, ?_⟩
  · decide +kernel
  · unfold State.ready; decide +kernel

/-- An SGD job over one element: a pair in region 2, a gradient in region 3. -/
def jobRecord : Bytes :=
  leBytes 4 1 ++ [1, 1, 0, 0] ++ leBytes 2 2 ++ leBytes 2 3 ++ leBytes 2 0 ++ leBytes 2 0 ++ leBytes 4 1 ++ leBytes 4 1 ++ leBytes 4 0xFFFFFF ++ leBytes 4 0
    ++ leBytes 2 1 ++ [0, 0] ++ zeros 16 ++ leBytes 4 7 ++ zeros 8
    ++ leBytes 2 5 ++ leBytes 2 1 ++ leBytes 4 0 ++ leBytes 4 1 ++ leBytes 4 0 ++ leBytes 4 0x3C23D70A ++ leBytes 4 0x3F666666 ++ leBytes 4 0x3F7FBE77
    ++ leBytes 4 0x322BCC77 ++ leBytes 4 0 ++ zeros 12

/-- The pair and the gradient of `jobRecord`, beside region 1. -/
def jobHeap (b : Bytes) : State :=
  let s := heap b
  s.withMem { s.mem with regions := s.mem.regions ++ [(2, { tenant := 0, kind := 1, spill := 0, base := mib2, size := 3 * mib2 }),
                                                      (3, { tenant := 0, kind := 0, spill := 0, base := 4 * mib2, size := mib2 })] }

theorem witness_optimizerSet (op : Nat) (x : Bool) (h : op = (if x then 0x8502 else 0x0502)) :
    let p := leBytes 2 1 ++ [0, 0] ++ leBytes 2 255 ++ zeros 2 ++ leBytes 8 0; let s := told op 0 p (jobHeap jobRecord)
    s.ready op 0 p ∧ field p 2 1 = 0 ∧ allZero p 3 1 = true ∧ field p 4 2 = 255 ∧ allZero p 6 2 = true
    ∧ s.ownRegion 0 (field p 0 2) = some { tenant := 0, kind := 0, spill := 0, base := 0, size := mib2 } ∧ field p 8 8 < mib2
    ∧ s.holdsAt 0 (field p 0 2) (field p 8 8) 0x40 jobBytes jobRecord ∧ firstFault (s.jobFaults x jobRecord) = none := by
  cases x <;> subst h <;>
    exact ⟨by unfold State.ready; decide +kernel, by decide, by decide, by decide, by decide, by decide +kernel, by decide +kernel,
      holdsAt_of _ (by rfl) (by decide +kernel) (by decide +kernel), by decide +kernel⟩

/-- A micro-program of one phase that writes W and WC. -/
def microProgram : Bytes := [1, 2, 0] ++ zeros 5 ++ leBytes 4 (0x11 * 2 ^ 26) ++ leBytes 4 (0x11 * 2 ^ 26 + 6)

theorem witness_optimizerSet_micro :
    let p := leBytes 2 1 ++ [1, 0] ++ leBytes 2 16 ++ zeros 2 ++ leBytes 8 64; let s := told 0x8502 0 p (heap (zeros 64 ++ microProgram))
    s.ready 0x8502 0 p ∧ field p 2 1 = 1 ∧ allZero p 3 1 = true ∧ field p 4 2 = 16 ∧ allZero p 6 2 = true
    ∧ s.ownRegion 0 (field p 0 2) = some { tenant := 0, kind := 0, spill := 0, base := 0, size := mib2 } ∧ field p 8 8 < mib2
    ∧ s.holdsAt 0 (field p 0 2) (field p 8 8) 8 microBytes microProgram ∧ firstFault (microFaults microProgram) = none :=
  ⟨by unfold State.ready; decide +kernel, by decide, by decide, by decide, by decide, by decide +kernel, by decide +kernel,
    holdsAt_of _ (by rfl) (by decide +kernel) (by decide +kernel), by decide +kernel⟩

/-! ## Frame, schedule, slice -/

def frame50 (eff : Nat) : Bytes := leBytes 4 50000 ++ leBytes 2 65535 ++ zeros 2 ++ leBytes 4 40 ++ zeros 4 ++ leBytes 8 eff

/-- The bounds of I, P and the skew limit, outside a run and for the next period of a run. -/
theorem witness_frameSet (op : Nat) (h : op = 0x0601 ∨ op = 0x8601) :
    (told op 0 (frame50 0) .reset).ready op 0 (frame50 0) ∧ field (frame50 0) 0 4 = 50000 ∧ field (frame50 0) 4 2 = 65535 ∧ field (frame50 0) 8 4 = 40
    ∧ allZero (frame50 0) 6 2 = true ∧ allZero (frame50 0) 0xC 4 = true ∧ (told op 0 (frame50 0) .reset).outside ∧ field (frame50 0) 0x10 8 = 0
    ∧ (stageFull (told op 0 (frame50 0) .reset).frame.staged 0).1 = false ∧ (told op 0 (frame50 4) (running .reset)).ready op 0 (frame50 4)
    ∧ (told op 0 (frame50 4) (running .reset)).mayStage (told op 0 (frame50 4) (running .reset)).frame.staged 4 := by
  unfold State.ready State.mayStage State.outside; rcases h with rfl | rfl <;> decide +kernel

/-- Values just outside the ranges of R26. -/
theorem witness_FrameRanges :
    (∀ p ∈ [leBytes 4 999 ++ leBytes 2 1 ++ zeros 18, leBytes 4 50001 ++ leBytes 2 1 ++ zeros 18, leBytes 4 1000 ++ leBytes 2 0 ++ zeros 18],
      (told 0x0601 0 p .reset).ready 0x0601 0 p ∧ ((told 0x0601 0 p .reset).passed (field p 0x10 8)).1 = false
      ∧ (field p 0 4 < 1000 ∨ 50000 < field p 0 4 ∨ field p 4 2 = 0))
    ∧ (let p := leBytes 4 1000 ++ leBytes 2 1 ++ zeros 18
       (told 0x8601 0 p .reset).ready 0x8601 0 p ∧ (told 0x8601 0 p .reset).inRun = false ∧ field p 0 4 = 1000 ∧ field p 4 2 = 1 ∧ p.drop 6 = zeros 18) := by
  unfold State.ready; decide +kernel

/-- A table of one verdict entry (R29). -/
def tableRecord : Bytes :=
  leBytes 4 1 ++ leBytes 2 1 ++ zeros 2 ++ leBytes 4 1 ++ zeros 4 ++ leBytes 8 9 ++ zeros 8 ++ leBytes 2 0 ++ [5, 1] ++ leBytes 2 0 ++ zeros 2 ++ leBytes 4 0
    ++ leBytes 2 0 ++ zeros 2
def tableAt (eff : Nat) : Bytes := leBytes 2 1 ++ zeros 6 ++ leBytes 8 eff

theorem witness_scheduleLoad :
    (let p := tableAt 0; let s := told 0x0602 0 p (heap tableRecord)
     s.ready 0x0602 0 p ∧ s.outside ∧ allZero p 2 6 = true ∧ field p 8 8 = 0
     ∧ s.holdsAt 0 (field p 0 2) 0 0x20 (fun h => 0x20 + 16 * min (field h 8 4) 16384) tableRecord
     ∧ firstFault (tableFaults tableRecord s.frame.period ++ ((s.loadTable (tableOf tableRecord)).tableRefs (tableOf tableRecord)).map badFieldAt) = none
     ∧ (s.loadTable (tableOf tableRecord)).runChecks (tableOf tableRecord) = true)
    ∧ (let p := tableAt 4; let s := told 0x0602 0 p (running (heap tableRecord))
       s.ready 0x0602 0 p ∧ field p 8 8 = 4 ∧ s.mayStage s.frame.stagedTables 4
       ∧ s.holdsAt 0 (field p 0 2) 0 0x20 (fun h => 0x20 + 16 * min (field h 8 4) 16384) tableRecord
       ∧ firstFault (tableFaults tableRecord (s.periodAt 4)
           ++ (((s.stageTable 4 (tableOf tableRecord)).viewAt 4).tableRefs (tableOf tableRecord)).map badFieldAt) = none
       ∧ ((s.stageTable 4 (tableOf tableRecord)).viewAt 4).runChecks (tableOf tableRecord) = true)
    ∧ (told 0x0603 2 [] .reset).ready 0x0603 2 [] := by
  refine ⟨⟨by unfold State.ready; decide +kernel, by unfold State.outside; decide +kernel, by decide, by decide,
      holdsAt_of _ (by rfl) (by decide +kernel) (by decide +kernel), by decide +kernel, by decide +kernel⟩,
    ⟨by unfold State.ready; decide +kernel, by decide, by unfold State.mayStage; decide +kernel,
      holdsAt_of _ (by rfl) (by decide +kernel) (by decide +kernel), by decide +kernel, by decide +kernel⟩, by unfold State.ready; decide +kernel⟩

/-- A member of slice 1: rank 0 of one. -/
def member1 (s : State) : State :=
  (s.withMember (some (1, 0))).withRoutes [(1, { SliceTables.blank with
    current := some { slice := 1, epoch := 1, effective := 0, allow := 0, members := [0], ranges := [] } })]

/-- A route table of epoch 1 for slice 4095 with one range. -/
def routeRecord : Bytes :=
  leBytes 4 1 ++ leBytes 2 4095 ++ leBytes 2 1 ++ leBytes 4 1 ++ leBytes 2 1 ++ leBytes 2 3 ++ leBytes 8 0 ++ zeros 8 ++ leBytes 2 0 ++ zeros 6 ++ leBytes 2 0
    ++ leBytes 2 16383 ++ leBytes 2 2 ++ leBytes 2 2047

theorem witness_slices :
    (let p := leBytes 2 1 ++ zeros 6; let s := told 0x0701 0 p ((member1 .reset).withMember none)
     s.ready 0x0701 0 p ∧ field p 0 2 = 1 ∧ allZero p 2 6 = true ∧ s.member = none
     ∧ (s.sliceTables 1).current = some { slice := 1, epoch := 1, effective := 0, allow := 0, members := [0], ranges := [] }
     ∧ [0].findIdx? (· == s.modId) = some 0)
    ∧ (told 0x0705 0 [] (member1 .reset)).ready 0x0705 0 []
    ∧ (let p := leBytes 2 1 ++ zeros 6; let s := told 0x0702 0 p (heap routeRecord)
       s.ready 0x0702 0 p ∧ allZero p 2 6 = true ∧ s.holdsAt 0 (field p 0 2) 0 0x20 routeBytes routeRecord ∧ s.clk.ref ≤ (routeOf routeRecord).effective
       ∧ (s.sliceTables (routeOf routeRecord).slice).current = none
       ∧ firstFault (routeFaults routeRecord none (s.membersNeeded (routeOf routeRecord).slice (routeOf routeRecord).effective)) = none
       ∧ s.routesFull (routeOf routeRecord) = false) := by
  refine ⟨by unfold State.ready; decide +kernel, by unfold State.ready; decide +kernel, by unfold State.ready; decide +kernel, by decide,
    holdsAt_of _ (by rfl) (by decide +kernel) (by decide +kernel), by decide +kernel, by decide +kernel, by decide +kernel, by decide +kernel⟩

/-- An axis set of one axis of size 1 and no collectives. -/
def axisRecord : Bytes := leBytes 4 1 ++ zeros 4 ++ leBytes 2 1 ++ leBytes 2 1 ++ [0, 1] ++ zeros 2 ++ zeros 56 ++ zeros 8

theorem witness_axisSet :
    (let p := tableAt 0; let s := told 0x0703 0 p (member1 (heap axisRecord))
     s.ready 0x0703 0 p ∧ s.outside ∧ allZero p 2 6 = true ∧ field p 8 8 = 0 ∧ s.holdsAt 0 (field p 0 2) 0 0x50 axisBytes axisRecord
     ∧ firstFault (axisSetFaults axisRecord (s.membersAt 0)) = none)
    ∧ (let p := tableAt 4; let s := told 0x0703 0 p (running (member1 (heap axisRecord)))
       s.ready 0x0703 0 p ∧ field p 8 8 = 4 ∧ s.mayStage s.fab.staged 4 ∧ s.holdsAt 0 (field p 0 2) 0 0x50 axisBytes axisRecord
       ∧ firstFault (axisSetFaults axisRecord (s.membersAt 4)) = none
       ∧ ((s.withFab { s.fab with staged := SMap.insert s.fab.staged 4 (axisSetOf axisRecord) }).viewAt 4).armHolds = true) := by
  refine ⟨⟨by unfold State.ready; decide +kernel, by unfold State.outside; decide +kernel, by decide, by decide,
      holdsAt_of _ (by rfl) (by decide +kernel) (by decide +kernel), by decide +kernel⟩,
    ⟨by unfold State.ready; decide +kernel, by decide, by unfold State.mayStage; decide +kernel,
      holdsAt_of _ (by rfl) (by decide +kernel) (by decide +kernel), by decide +kernel, by decide +kernel⟩⟩

theorem witness_cablingCheck : let p := [15, 0] ++ leBytes 2 16383 ++ [15, 0, 0, 0]
    (told 0x0704 0 p .reset).ready 0x0704 0 p ∧ (told 0x8704 3 p .reset).ready 0x8704 3 p ∧ p.length = 8 * 1 ∧ ∀ i, i < 1 → firstFail (cableChecks p i) = none := by
  unfold State.ready; decide +kernel

/-! ## Steps and the run -/

/-- Armed, with husk region 4 of 12 MiB: each slot takes entries of 2 MiB. -/
def armed (s : State) : State :=
  let s1 := s.withMem { s.mem with regions := s.mem.regions ++ [(4, { tenant := 0, kind := 0, spill := 0, base := 8 * mib2, size := 6 * mib2 })] }
  s1.withRun { s1.run with mode := .armed, armed := some { runId := 7, seed := 0, keyLo := 1, keyHi := 2, husk := 4, flags := 0, v0 := 0 }, sealed := 0 }

/-- A slot that step 1 feeds, with the header of two samples and 64 bytes of input. -/
def feeding (w : List (Nat × Nat)) : State :=
  let s := armed .reset
  (s.withRun { s.run with husk := s.run.husk.set 0 { HuskSlot.blank with state := .feeding, step := 1, samples := 2, input := 64, written := w } }).writeMem
    (8 * mib2 + 0x28) (leBytes 4 2 ++ zeros 4 ++ leBytes 8 64)

def feed (step flags tr off n : Nat) (head : Bytes) : Bytes := leBytes 8 step ++ leBytes 4 flags ++ leBytes 4 tr ++ leBytes 8 off ++ leBytes 8 n ++ head

def feedFields : Bytes := leBytes 4 0x3F800000 ++ leBytes 4 0x3F800000 ++ leBytes 4 2 ++ zeros 4 ++ leBytes 8 64 ++ leBytes 8 9

theorem witness_StepFeedCommand :
    (let p := feed 3 4 0 0x10100 8 feedFields ++ zeros 8; let s := told 0x0801 0 p (armed .reset)
     s.ready 0x0801 0 p ∧ s.accepts (field p 0 8) = true ∧ s.huskSlot (field p 0 8) = none ∧ field p 8 4 = 4 ∧ field p 0xC 4 = 0 ∧ field p 0x18 8 = 8
     ∧ p.length = 0x40 + 8 ∧ (feedHead p).takes (field p 0x10 8) 8 = true ∧ firstFail (headChecks (feedHead p) none (reserved p 0x2C 4)) = none
     ∧ (feedHead p).dataEnd ≤ s.huskEntrySize)
    ∧ (let p := feed 1 0 0 0x10108 8 (zeros 32) ++ zeros 8; let s := told 0x0801 0 p (feeding [])
       s.ready 0x0801 0 p ∧ s.accepts (field p 0 8) = true ∧ s.huskSlot (field p 0 8) = some 0 ∧ field p 8 4 = 0 ∧ field p 0x18 8 = 8 ∧ p.length = 0x40 + 8
       ∧ (s.fedHead 0).takes (field p 0x10 8) 8 = true ∧ firstFail (noHeadChecks p) = none)
    ∧ (let p := feed 1 2 5 0x10140 64 (zeros 32); let s := told 0x0801 0 p (feeding [])
       s.ready 0x0801 0 p ∧ field p 8 4 = 2 ∧ field p 0x18 8 = 64 ∧ s.numberOpen (s.runningSession 0) (field p 0xC 4) = false
       ∧ (s.transfersOf (s.runningSession 0)).length < 64 ∧ (s.fedHead 0).takes (field p 0x10 8) 64 = true)
    ∧ (let p := feed 1 1 0 0 0 (zeros 32); let s := told 0x0801 0 p (feeding [(0x10100, 16), (0x10140, 64)])
       s.ready 0x0801 0 p ∧ field p 8 4 = 1 ∧ p.length = 0x40 ∧ s.entryWhole 0 (s.fedHead 0) [] = true) := by
  unfold State.ready; decide +kernel

def armBytes (flags : Nat) : Bytes := leBytes 16 7 ++ zeros 8 ++ leBytes 8 1 ++ leBytes 8 2 ++ leBytes 2 4 ++ leBytes 2 flags ++ zeros 4

/-- A table, a member, a husk region, and nothing armed before. -/
def toArm : State :=
  let s := member1 ((armed .reset).withRun Run.start)
  s.withFrame { s.frame with table := some (tableOf tableRecord), loaded := true }

theorem witness_runArm :
    (let p := armBytes 0; let s := told 0x0802 0 p toArm; let tb := tableOf tableRecord
     s.ready 0x0802 0 p ∧ s.frame.table = some tb ∧ s.member ≠ none ∧ s.frame.loaded = true ∧ s.ckpt.restore = none ∧ field p 0 16 ≠ 0
     ∧ s.run.lastArmed ≠ some (field p 0 16) ∧ s.huskOk (field p 0x28 2) = true ∧ field p 0x2A 2 = 0 ∧ allZero p 0x2C 4 = true ∧ tb.period = s.frame.period
     ∧ s.tableRefs tb = [] ∧ s.runChecks tb = true ∧ s.num.emu = false ∧ s.huskSmall (field p 0x28 2) = false ∧ s.badMaster = none)
    ∧ (let p := armBytes 1; let r : StagedRestore := { version := 5, runId := 7, keyLo := 1, keyHi := 2, stag := [] }
       let s := told 0x0802 0 p (toArm.withCkpt { toArm.ckpt with staged := some r })
       s.ready 0x0802 0 p ∧ s.ckpt.staged = some r ∧ field p 0 16 = r.runId ∧ r.runId ≠ 0 ∧ field p 0x18 8 = r.keyLo.toNat ∧ field p 0x20 8 = r.keyHi.toNat
       ∧ field p 0x2A 2 = 1 ∧ s.runChecks (tableOf tableRecord) = true ∧ s.huskSmall (field p 0x28 2) = false ∧ s.badMaster = none) := by
  unfold State.ready; decide +kernel

/-- REFCLK adopted, at 3 whole epochs. -/
def timed (s : State) : State := s.withClk { s.clk with ref := 3 * epochCycles, adopted := true }

theorem witness_runStart :
    (let p := leBytes 8 5 ++ leBytes 8 1; let s := told 0x0803 0 p (timed (armed (member1 .reset)))
     s.ready 0x0803 0 p ∧ s.waits 0x0803 0 p = false ∧ field p 0 8 ≤ epochMax ∧ s.run.sealed < field p 8 8 ∧ s.recov.partner = none ∧ s.memberCount = 1
     ∧ s.rank = 0 ∧ s.run.v0s = [] ∧ s.clk.adopted = true ∧ s.clk.ref / epochCycles + 2 ≤ field p 0 8 ∧ s.clk.present = true ∧ s.clk.stopped = false
     ∧ s.sup.noRun = false)
    ∧ (let p := leBytes 8 5 ++ leBytes 8 0; let s0 := timed (armed (member1 .reset))
       let s1 := told 0x0803 0 p (s0.withRun { s0.run with startSent := true, v0s := [(0, 0)] })
       let s := s1.setTenant 0 (fun x => { x with running := x.running.map (fun q => { q with started := true }) })
       s.waits 0x0803 0 p = true ∧ s.run.mode = .armed ∧ s.run.startSent = true ∧ s.pairAgrees = true ∧ s.startReady = true ∧ s.mixedRank = none
       ∧ s.clk.ref / epochCycles + 2 ≤ field p 0 8) := by
  unfold State.ready; decide +kernel

theorem witness_runHold (n : Nat) (h : n = 0 ∨ n = 4) : let p := leBytes 8 n; let s := told 0x0804 0 p (running .reset)
    s.ready 0x0804 0 p ∧ s.inRun = true ∧ (field p 0 8 = 0 ∨ s.run.period < field p 0 8) ∧ s.run.holdAt = none := by
  unfold State.ready; rcases h with rfl | rfl <;> decide +kernel

theorem witness_StepCommands :
    (let p := [15, 0] ++ zeros 22; let s := told 0x0805 0 p (armed .reset)
     s.ready 0x0805 0 p ∧ field p 0 1 = 15 ∧ field p 1 1 = 0 ∧ allZero p 2 6 = true ∧ field p 8 8 = 0)
    ∧ (let p := [0, 1] ++ zeros 6 ++ leBytes 8 2 ++ leBytes 8 4; let s0 := running .reset
       let s := told 0x0805 0 p (s0.withRun { s0.run with mode := .held, heldStep := some 2 })
       s.ready 0x0805 0 p ∧ field p 1 1 = 1 ∧ field p 8 8 = 2 ∧ field p 0x10 8 = 4 ∧ s.run.period < 4 ∧ s.run.mode = .held ∧ s.run.heldStep = some 2
       ∧ s.sealBarred 2 = false)
    ∧ (let p := leBytes 8 3; (told 0x0806 0 p (running .reset)).ready 0x0806 0 p ∧ (told 0x0806 0 p (running .reset)).replayable (field p 0 8) = true)
    ∧ (told 0x0807 2 (zeros 16) .reset).ready 0x0807 2 (zeros 16) ∧ allZero (zeros 16) 0xC 4 = true := by
  unfold State.ready; decide +kernel

/-- A policy of no managed tensors, at its defaults (R149). -/
def policyRecord : Bytes :=
  leBytes 4 1 ++ zeros 2 ++ [1, 16, 0, 10, 1, 0] ++ zeros 4 ++ [2, 2, 2, 2, 0, 0, 0, 0, 2, 0, 0, 0, 0, 0, 0, 0] ++ zeros 32

theorem witness_numericsPolicySet (op : Nat) (x : Bool) (h : op = (if x then 0x8901 else 0x0901)) :
    (let p := tableAt 0; let s := told op 0 p (armed (heap policyRecord))
     s.ready op 0 p ∧ s.outside ∧ allZero p 2 6 = true ∧ field p 8 8 = 0 ∧ s.holdsAt 0 (field p 0 2) 0 0x40 policyBytes policyRecord
     ∧ firstFault (policyFaults x policyRecord) = none ∧ s.jobsManaged (policyOfBytes policyRecord) = true)
    ∧ (let p := tableAt 4; let s := told op 0 p (running (heap policyRecord))
       s.ready op 0 p ∧ field p 8 8 = 4 ∧ s.mayStage s.num.staged 4 ∧ s.holdsAt 0 (field p 0 2) 0 0x40 policyBytes policyRecord
       ∧ (s.masterModeIn 0 (field p 0 2)).getD s.num.policy.masterMode = s.num.policy.masterMode
       ∧ ((s.withNum { s.num with staged := SMap.insert s.num.staged 4 (policyOfBytes policyRecord) }).viewAt 4).armHolds = true) := by
  cases x <;> subst h <;>
    exact ⟨⟨by unfold State.ready; decide +kernel, by unfold State.outside; decide +kernel, by decide, by decide,
        holdsAt_of _ (by rfl) (by decide +kernel) (by decide +kernel), by decide +kernel, by decide +kernel⟩,
      ⟨by unfold State.ready; decide +kernel, by decide, by unfold State.mayStage; decide +kernel,
        holdsAt_of _ (by rfl) (by decide +kernel) (by decide +kernel), by decide +kernel, by decide +kernel⟩⟩

def watch1 (eff : Nat) : Bytes := [1] ++ zeros 7 ++ leBytes 8 eff ++ leBytes 2 9 ++ leBytes 2 1 ++ leBytes 4 0x7F800000 ++ leBytes 4 0 ++ leBytes 4 3

theorem witness_NumericsCommands :
    (let p := leBytes 8 0 ++ leBytes 4 0xFFFFFF ++ zeros 4; let s := told 0x0902 1 p (running .reset)
     s.ready 0x0902 1 p ∧ s.run.sealed = 1 ∧ field p 0 8 = 0 ∧ field p 8 4 ≤ 0xFFFFFF ∧ allZero p 0xC 4 = true)
    ∧ (let p := watch1 0; let s := told 0x0903 0 p .reset
       s.ready 0x0903 0 p ∧ s.inRun = false ∧ field p 0 1 = 1 ∧ 16 + 16 * 1 ≤ p.length ∧ allZero p 1 7 = true ∧ field p 8 8 = 0
       ∧ (∀ i, i < 1 → firstFail (watchChecks p i) = none) ∧ (s.watchUnion (SMap.insert s.num.stagedWatch 0 ((List.range 1).map (watchAt p)))).length ≤ 1024)
    ∧ (let p := watch1 4; let s := told 0x0903 0 p (running .reset)
       s.ready 0x0903 0 p ∧ field p 8 8 = 4 ∧ s.mayStage s.num.stagedWatch 4
       ∧ (s.watchUnion (SMap.insert s.num.stagedWatch 4 ((List.range 1).map (watchAt p)))).length ≤ 1024)
    ∧ (∀ on : Bool, (told 0x0904 0 (leBytes 8 (bitNat on)) (armed .reset)).ready 0x0904 0 (leBytes 8 (bitNat on)) ∧ field (leBytes 8 (bitNat on)) 0 1 = bitNat on
       ∧ allZero (leBytes 8 (bitNat on)) 1 7 = true) := by
  unfold State.ready State.mayStage; decide +kernel

/-! ## Recovery, checkpoints -/

/-- Session 1 of tenant `t`. -/
def session1 (t : Nat) : Session :=
  { id := 1, tenant := t, keyIn := zeros 32, keyOut := zeros 32, openBody := [], openAt := 0, reply := [], rxNext := 1, rxHeld := [], txNext := 1, queue := [],
    unacked := [], progress := 0, lastRx := 0, timer := 4, sentAt := 0, addr := [], seen := [], transfers := [], streams := [] }
def opened (x : Session) (s : State) : State := s.withHost { s.host with sessions := [x] }

/-- Slice 1 with ranks 0 and 1, of which this module is rank 0. -/
def member2 (s : State) : State :=
  (s.withMember (some (1, 0))).withRoutes [(1, { SliceTables.blank with
    current := some { slice := 1, epoch := 1, effective := 0, allow := 0, members := [0, 9], ranges := [] } })]

/-- Enrolled as a spare of slice 1. -/
def spare (s : State) : State :=
  let s1 := (member2 s).withMember none
  (s1.withRun { s1.run with mode := .standby }).withRecov { s1.recov with standby := some 1 }

theorem witness_RecoveryCommands :
    (let p := leBytes 2 1 ++ zeros 6; let s := told 0x0A01 0 p (member2 .reset)
     s.ready 0x0A01 0 p ∧ field p 0 2 = 1 ∧ field p 2 2 = 0 ∧ 1 ≠ s.rank ∧ s.rankKnown 1 = true ∧ allZero p 4 4 = true)
    ∧ (let p := [0, 0, 1, 0] ++ zeros 4; (told 0x0A01 0 p .reset).ready 0x0A01 0 p ∧ field p 0 2 = 0 ∧ field p 2 2 = 1)
    ∧ (let p := leBytes 2 4095 ++ zeros 6; let s := told 0x0A02 0 p .reset
       s.ready 0x0A02 0 p ∧ s.member = none ∧ field p 0 2 = 4095 ∧ allZero p 2 6 = true)
    ∧ (let p := leBytes 2 1 ++ leBytes 2 9 ++ leBytes 4 1 ++ leBytes 16 7 ++ zeros 16 ++ leBytes 2 0 ++ zeros 6; let s := told 0x0A03 0 p (spare .reset)
       s.ready 0x0A03 0 p ∧ s.sup.noRun = false ∧ s.recov.takeover = none ∧ s.recov.standby = some 1 ∧ field p 0 2 ≤ 16383 ∧ field p 2 2 ≤ 16383
       ∧ field p 0x28 2 ≤ 16383 ∧ s.partnerOk 1 (field p 4 4) (field p 0 2) (field p 0x28 2) = true ∧ allZero p 0x2A 6 = true)
    ∧ ((told 0x0A04 3 [] (running .reset)).ready 0x0A04 3 [] ∧ (told 0x8A04 0 [] .reset).ready 0x8A04 0 [] ∧ State.reset.run.mode ≠ .fenced)
    ∧ (let p := [7] ++ zeros 7; let s := told 0x0A05 3 p .reset
       s.ready 0x0A05 3 p ∧ field p 0 1 = 7 ∧ allZero p 1 7 = true ∧ s.spareDie ≠ none ∧ s.recov.swap = none ∧ (∀ c ∈ dieCores 7, s.coreBusy c = false))
    ∧ (let p := leBytes 2 16383 ++ zeros 6; (told 0x0A06 2 p .reset).ready 0x0A06 2 p ∧ field p 0 2 = 16383 ∧ allZero p 2 6 = true)
    ∧ (let p := [64, 1] ++ zeros 14; let s := told 0x0A07 0 p .reset
       s.ready 0x0A07 0 p ∧ field p 0 1 = 64 ∧ field p 1 1 = 1 ∧ allZero p 2 6 = true ∧ s.inRun = false ∧ field p 8 8 = 0)
    ∧ (let p := [1, 0] ++ zeros 6 ++ leBytes 8 4; let s := told 0x0A07 0 p (running .reset)
       s.ready 0x0A07 0 p ∧ field p 8 8 = 4 ∧ s.mayStage s.recov.stagedProb 4) := by
  unfold State.ready State.mayStage; decide +kernel

def ckptBytes (flags : Byte) : Bytes := [flags, 16, 0, 0] ++ leBytes 4 1 ++ leBytes 4 1000000 ++ leBytes 4 60 ++ zeros 48

theorem witness_CheckpointCommands :
    (∀ e ∈ [(0x0B01, false, (3 : Byte)), (0x8B01, true, 7)], let s := told e.1 0 (ckptBytes e.2.2) (opened (session1 0) .reset)
      s.ready e.1 0 (ckptBytes e.2.2) ∧ (ckptPolicyOf (ckptBytes e.2.2)).flags ≤ (if e.2.1 then 7 else 3) ∧ (ckptPolicyOf (ckptBytes e.2.2)).chunks = 16
      ∧ allZero (ckptBytes e.2.2) 2 2 = true ∧ s.ownerSession (ckptPolicyOf (ckptBytes e.2.2)).sink = true ∧ (ckptPolicyOf (ckptBytes e.2.2)).steps = 1000000
      ∧ (ckptPolicyOf (ckptBytes e.2.2)).timer = 60 ∧ allZero (ckptBytes e.2.2) 0x30 16 = true)
    ∧ (let p := zeros 8; let s := told 0x0B02 0 p (armed .reset)
       s.ready 0x0B02 0 p ∧ s.inRun = false ∧ s.ckpt.run = none ∧ s.ckpt.restore = none ∧ s.ckpt.now = none
       ∧ s.pairsHold (if field p 0 8 = 0 then s.run.sealed else field p 0 8) = true)
    ∧ ((told 0x0B02 0 (zeros 8) (running .reset)).ready 0x0B02 0 (zeros 8) ∧ (running .reset).inRun = true)
    ∧ ((told 0x0B03 3 [] .reset).ready 0x0B03 3 [])
    ∧ ((told 0x0B05 2 [] (State.reset.withCkpt { State.reset.ckpt with done := some 1 })).ready 0x0B05 2 []) := by
  unfold State.ready; decide +kernel

/-- A manifest of no pairs and no streams, of version 5 of run 7 of rank 0, and a certificate of two bytes. -/
def manifest0 : Bytes := leBytes 4 1 ++ zeros 4 ++ leBytes 16 7 ++ leBytes 8 5 ++ zeros 8 ++ leBytes 8 (jobFold []).toNat ++ zeros 0x30 ++ zeros 384
def restoreBytes : Bytes := leBytes 2 1 ++ zeros 2 ++ leBytes 4 480 ++ leBytes 8 5 ++ leBytes 16 7 ++ zeros 16 ++ leBytes 4 1 ++ zeros 4

/-- Whether the signature verifies is opaque: the last clause holds where it does. -/
theorem witness_restore : let p := restoreBytes; let s := told 0x0B04 0 p (opened (session1 0) (member1 (heap (manifest0 ++ zeros 32 ++ [0x30, 0]))))
    s.ready 0x0B04 0 p ∧ field p 4 4 = 480 ∧ s.ownRegion 0 (field p 0 2) = some { tenant := 0, kind := 0, spill := 0, base := 0, size := mib2 }
    ∧ 0x60 + 384 ≤ 480 ∧ s.ckpt.run = none ∧ (∀ i ∈ s.jobShards, s.transferInto i = false) ∧ allZero p 2 2 = true ∧ s.ownerSession (field p 0x30 4) = true
    ∧ allZero p 0x34 4 = true ∧ s.holdsAt 0 (field p 0 2) 0 480 (fun _ => 480) manifest0 ∧ firstFail (manifestFaults manifest0) = none
    ∧ s.holdsAt 0 (field p 0 2) (roundUp 64 480) 4 derLength [0x30, 0, 0, 0]
    ∧ (s.manifestSigned manifest0 [0x30, 0, 0, 0] = true → s.restoreRefusal p manifest0 [0x30, 0, 0, 0] = none) := by
  refine ⟨by unfold State.ready; decide +kernel, by decide, by decide +kernel, by decide, by decide +kernel, by decide +kernel, by decide, by decide +kernel,
    by decide, holdsAt_of _ (by rfl) (by decide +kernel) (by decide +kernel), by decide +kernel,
    holdsAt_of _ (by rfl) (by decide +kernel) (by decide +kernel), ?_⟩
  intro h
  unfold State.restoreRefusal
  rw [h]
  decide +kernel

/-! ## Observation, service, power, evaluation -/

def telStart (k : Byte) (ms : Nat) : Bytes := [0, k, 0, 0] ++ leBytes 4 128 ++ leBytes 4 ms ++ zeros 4

/-- A ledger that holds an entry of number 3. -/
def ledger3 (s : State) : State := s.withLedger { s.ledger with entries := [{ seq := 3, bytes := zeros 64, read := false }], nextSeq := 4 }

theorem witness_telemetry :
    (∀ e ∈ [(1, 7), (4, 1), (8, 0)], let p := leBytes 2 e.1 ++ leBytes 2 e.2 ++ zeros 4
      (told 0x0C01 1 p .reset).ready 0x0C01 1 p ∧ field p 0 2 = e.1 ∧ field p 2 2 = e.2 ∧ e.2 ∈ telIndices e.1 ∧ allZero p 4 4 = true)
    ∧ (let p := [1, 3] ++ zeros 14; (told 0x0C02 0 p .reset).ready 0x0C02 0 p ∧ field p 0 1 = 1 ∧ field p 1 1 = 3 ∧ allZero p 2 2 = true ∧ allZero p 0xC 4 = true)
    ∧ (let p := leBytes 8 3 ++ leBytes 4 63 ++ zeros 4; let s := told 0x0C03 0 p (ledger3 .reset)
       s.ready 0x0C03 0 p ∧ field p 8 4 = 63 ∧ s.ledger.entries.dropWhile (fun x => x.seq != field p 0 8) = [{ seq := 3, bytes := zeros 64, read := false }]
       ∧ s.ledger.oldest ≤ field p 0 8 ∧ allZero p 0xC 4 = true)
    ∧ (told 0x0C04 3 [] .reset).ready 0x0C04 3 [] := by
  unfold State.ready; decide +kernel

theorem witness_telemetryStream : let p := telStart 3 60000; let s := told 0x0C02 0 p (opened (session1 0) .reset)
    s.ready 0x0C02 0 p ∧ field p 0 1 = 0 ∧ field p 1 1 = 3 ∧ allZero p 2 2 = true ∧ field p 4 4 = 128 ∧ field p 8 4 = 60000 ∧ allZero p 0xC 4 = true
    ∧ s.streamOf (s.runningSession 0) 3 = none ∧ carries 0 2 = false := by
  unfold State.ready; decide +kernel

theorem witness_telemetryStreamInterval :
    let x : TelStream := { mask := 1, interval := 1, rate := 1, next := cyclesMs }
    let s := opened { session1 0 with streams := [(3, x)] } .reset
    (s.advance cyclesMs).streamOf 1 3 = some x ∧ x.next ≤ (s.advance cyclesMs).clk.elapsed := by decide +kernel

theorem witness_ServiceAndPowerCommands :
    (let p := [1] ++ zeros 7; let s := told 0x0D01 3 p .reset
     s.ready 0x0D01 3 p ∧ firstFail (resetChecks 3 p) = none ∧ field p 0 1 = 1 ∧ s.commandLevel 1 ≤ 1)
    ∧ (let p := [4, 7, 7, 7] ++ zeros 4; let s := told 0x0D01 0 p .reset
       s.ready 0x0D01 0 p ∧ firstFail (resetChecks 0 p) = none ∧ field p 0 1 = 4 ∧ 2 ≤ s.commandLevel 4)
    ∧ ((told 0x0D02 3 (1 :: zeros 7) .reset).ready 0x0D02 3 (1 :: zeros 7) ∧ field (1 :: zeros 7) 0 1 ≤ 1 ∧ allZero (1 :: zeros 7) 1 7 = true)
    ∧ (told 0x0D03 0 [] .reset).ready 0x0D03 0 []
    ∧ (let p := leBytes 2 1 ++ zeros 2 ++ leBytes 4 0x2F0007FF; let s := told 0x0E01 0 p .reset
       s.ready 0x0E01 0 p ∧ field p 0 2 = 1 ∧ 4 + 4 * 1 ≤ p.length ∧ allZero p 2 2 = true
       ∧ (List.range 1).map (fun i => namedObject (field p (4 + 4 * i) 4)) = [objKey 2 7 2047].map some)
    ∧ (let p := [0, 0] ++ leBytes 2 8191 ++ leBytes 2 63 ++ zeros 2; let s := told 0x0E02 3 p .reset
       s.ready 0x0E02 3 p ∧ s.nut.bank (field p 0 1) = some (0, []) ∧ field p 0 1 ≤ 3 ∧ allZero p 1 1 = true ∧ field p 2 2 = 8191 ∧ field p 4 2 = 63
       ∧ allZero p 6 2 = true)
    ∧ (let p := leBytes 2 511 ++ leBytes 2 255 ++ zeros 4; (told 0x0E03 0 p .reset).ready 0x0E03 0 p ∧ field p 0 2 = 511 ∧ field p 2 2 = 255)
    ∧ (let p := leBytes 2 511 ++ zeros 6; (told 0x0E04 0 p .reset).ready 0x0E04 0 p ∧ (told 0x8E04 0 p .reset).ready 0x8E04 0 p ∧ field p 0 2 = 511
       ∧ (told 0x8E04 0 p .reset).coreBusy 511 = false)
    ∧ (∀ w ∈ [1200, 3000], (told 0x0F01 0 (leBytes 8 w) .reset).ready 0x0F01 0 (leBytes 8 w) ∧ field (leBytes 8 w) 0 4 = w ∧ allZero (leBytes 8 w) 4 4 = true)
    ∧ (∀ w ∈ [100, 1200], (told 0x0F03 0 (leBytes 8 w) .reset).ready 0x0F03 0 (leBytes 8 w) ∧ field (leBytes 8 w) 0 2 = w ∧ field (leBytes 8 w) 2 2 = 0)
    ∧ (∀ f ∈ [1, 10000], let p := leBytes 2 100 ++ leBytes 2 f ++ zeros 4
       (told 0x8F03 0 p .reset).ready 0x8F03 0 p ∧ field p 0 2 = 100 ∧ field p 2 2 = f ∧ allZero p 4 4 = true)
    ∧ (told 0x0F02 3 [] .reset).ready 0x0F02 3 [] := by
  unfold State.ready; decide +kernel

/-- Region 1 of the Evaluator, which begins with `endImage`; image, input and result share it. -/
def evalHeap : State := let s := heap endImage
  running (s.withMem { s.mem with regions := [(1, { tenant := 1, kind := 0, spill := 0, base := 0, size := mib2 })] })
def evalBytes (imageOpen : Nat) : Bytes :=
  leBytes 8 1 ++ zeros 8 ++ leBytes 2 1 ++ leBytes 2 1 ++ leBytes 2 1 ++ leBytes 2 8191 ++ leBytes 8 0x88 ++ leBytes 8 0 ++ leBytes 8 mib2
    ++ leBytes 4 imageOpen ++ zeros 12

theorem evalImage_of {s : State} {at' : Nat} {b : Bytes} {i : Image} (h1 : firstFault (headerFaults b) = none) (h2 : firstFault (bodyFaults at' b) = none)
    (h3 : imageOf b = i) (h4 : at' + i.resident.length ≤ 8192 ∧ i.descs.all (fun d => s.evalSpaceOk (Desc.parse d)) = true) : s.evalImage at' b = .ok i := by
  unfold State.evalImage readImageAt; rw [h1]; simp only [h2, h3]; exact if_pos h4

theorem witness_evalSubmit :
    (let p := evalBytes 0; let s := told 0x1001 1 p evalHeap; let v := evalOf 1 p
     s.ready 0x1001 1 p ∧ v.imageOpen = none ∧ v.inputOpen = none ∧ s.evalIdTaken v.id = false ∧ s.evalRegion 1 v.imageReg v.imageBytes = (true, true)
     ∧ s.evalRegion 1 v.inputReg v.inputBytes = (true, true) ∧ s.evalRegion 1 v.resultReg v.resultBytes = (true, true) ∧ s.loadIndexOk v.loadIndex = true
     ∧ allZero p 0x3C 4 = true ∧ s.badIn (s.regionBase v.imageReg) v.imageBytes = none
     ∧ s.evalImage v.loadIndex (s.readMem (s.regionBase v.imageReg) v.imageBytes) = .ok endProgram
     ∧ firstFail (s.evalLimits 1 (s.runningSession 1) v) = none)
    ∧ (let p := evalBytes 5; let s := told 0x1001 1 p evalHeap; let v := evalOf 1 p
       s.ready 0x1001 1 p ∧ v.imageOpen = some 5 ∧ v.inputOpen = none ∧ s.regionChanging v.imageReg = false ∧ s.numberOpen (s.runningSession 1) 5 = false
       ∧ firstFail (s.evalLimits 1 (s.runningSession 1) v) = none) := by
  refine ⟨⟨by unfold State.ready; decide +kernel, by decide, by decide, by decide +kernel, by decide +kernel, by decide +kernel, by decide +kernel,
      by decide +kernel, by decide +kernel, by decide +kernel,
      evalImage_of (by decide +kernel) (by decide +kernel) (by decide +kernel) (by decide +kernel), by decide +kernel⟩,
    by unfold State.ready; decide +kernel⟩

/-- A finished evaluation of the Evaluator. -/
def finished (phase : Nat) : State :=
  let v := evalOf 1 (evalBytes 0)
  evalHeap.withEvals [{ v with phase := phase, resultBytes := 100 }]

theorem witness_evalResultRead :
    (let p := leBytes 8 1 ++ leBytes 8 100 ++ zeros 8; let s := told 0x1002 1 p (finished 3)
     s.ready 0x1002 1 p ∧ (s.evals.find? (fun x => x.id == field p 0 8 && x.tenant == 1)).map (fun v => decide (v.phase ≠ 2 ∧ field p 8 8 ≤ v.resultBytes)) = some true
     ∧ field p 0x14 4 = 0)
    ∧ (let p := leBytes 8 1 ++ leBytes 8 36 ++ leBytes 4 4000 ++ zeros 4; let s := told 0x1002 1 p (finished 2)
       s.ready 0x1002 1 p ∧ (s.evals.find? (fun x => x.id == field p 0 8 && x.tenant == 1)).map (fun v => decide (v.phase = 2 ∧ field p 8 8 ≤ v.resultBytes)) = some true
       ∧ s.ownRegion 1 1 = some { tenant := 1, kind := 0, spill := 0, base := 0, size := mib2 } ∧ field p 0x14 4 = 0
       ∧ min (100 - field p 8 8) (min 4000 (field p 0x10 4)) = 64 ∧ s.badIn (0 + field p 8 8) 64 = none) := by
  unfold State.ready; decide +kernel

end Sys2Proof.Tests
end

