-- ==== Sys2Proof/Tests/Events.lean ====
section
/-!
SUPPORT. Witnesses: for the statements about host frames, time, the verdict, schedule entries, jobs, collectives, checkpoints and the fabric, concrete
states and inputs that meet the hypotheses of each clause.
-/

namespace Sys2Proof.Tests

set_option Elab.async false

open Sys2Proof Sys2Proof.Machine

/-! ## The host ports -/

/-- A frame of a type from port address zero: its header, body and tag under a session key of zeros, as *Transport header* lays them out. -/
def hdrOf (typ chan sess seq len : Nat) : Bytes :=
  [1, BitVec.ofNat 8 typ, BitVec.ofNat 8 chan, 0] ++ leBytes 4 sess ++ leBytes 8 seq ++ leBytes 8 0 ++ leBytes 2 len ++ zeros 6
def frameOf (typ chan sess seq : Nat) (body : Bytes) (tag : Bytes) : Bytes := zeros 24 ++ hdrOf typ chan sess seq body.length ++ body ++ tag
def parsed (typ chan sess seq : Nat) (body tag : Bytes) : HostFrame :=
  { typ := typ, chan := chan, kind := 0, session := sess, seq := seq, ack := 0, hdr := hdrOf typ chan sess seq body.length, body := body, tag := tag }

theorem witness_hello : let f := parsed 1 0xFF 0 0 (zeros 16) []
    State.reset.hears 1 (frameOf 1 0xFF 0 0 (zeros 16) []) f ∧ f.typ = 1 ∧ f.body.length = 16 ∧ field f.body 0 1 ≤ 3 ∧ allZero f.body 1 15 = true := by
  unfold State.hears; decide +kernel

theorem witness_open : State.reset.hears 0 (frameOf 3 0xFF 0 0 [1] []) (parsed 3 0xFF 0 0 [1] []) := by unfold State.hears; decide +kernel

/-- DATA on the mailbox channel, ACK_ONLY and CLOSE, at both ends of the receive window. -/
theorem witness_sessionFrames : ∀ e ∈ [(0x10, 0, 1), (0x11, 0xFF, 256), (0x12, 0xFF, 1)],
    let s := opened (session1 0) .reset; let tag := frameTag (zeros 32) (hdrOf e.1 e.2.1 1 e.2.2 0) []; let f := parsed e.1 e.2.1 1 e.2.2 [] tag
    s.hears 0 (frameOf e.1 e.2.1 1 e.2.2 [] tag) f ∧ s.session f.session = some (session1 0) ∧ frameTag (session1 0).keyIn f.hdr f.body = f.tag
    ∧ (session1 0).rxNext ≤ f.seq ∧ f.seq ≤ (session1 0).rxNext + 255 := by
  unfold State.hears; decide +kernel

/-- Just outside the window, and with a wrong tag. -/
theorem witness_sessionFrames_dropped :
    (∀ e ∈ [(0x10, 0, 0), (0x11, 0xFF, 257), (0x12, 0xFF, 257)],
      let s := opened (session1 0) .reset; let tag := frameTag (zeros 32) (hdrOf e.1 e.2.1 1 e.2.2 0) []; let f := parsed e.1 e.2.1 1 e.2.2 [] tag
      s.hears 0 (frameOf e.1 e.2.1 1 e.2.2 [] tag) f ∧ frameTag (session1 0).keyIn f.hdr f.body = f.tag
      ∧ (f.seq < (session1 0).rxNext ∨ (session1 0).rxNext + 255 < f.seq))
    ∧ (∀ e ∈ [(0x10, 0), (0x11, 0xFF), (0x12, 0xFF)], let f := parsed e.1 e.2 1 1 [] (zeros 16)
      (opened (session1 0) .reset).hears 0 (frameOf e.1 e.2 1 1 [] (zeros 16)) f ∧ frameTag (session1 0).keyIn f.hdr f.body ≠ f.tag) := by
  unfold State.hears; decide +kernel

/-- A configuration record that gives port 0 an IPv4 address, an address resolution and an echo request for it, and a frame of neither kind. -/
def addressed : State := State.reset.withSup { State.reset.sup with config := some (zeros 0x28 ++ [1, 2, 3, 4] ++ zeros 84) }
def arpFrame (a : Bytes) : Bytes := zeros 12 ++ [0x08, 0x06] ++ zeros 6 ++ [0, 1] ++ zeros 16 ++ a
def echoFrame (a : Bytes) : Bytes := zeros 12 ++ [0x08, 0x00] ++ zeros 9 ++ [1] ++ zeros 6 ++ a ++ [8]

theorem witness_PortFrames : State.reset.hostPortUp 1 = true ∧ addressed.serviceKind 0 (zeros 60) = none
    ∧ addressed.serviceKind 0 (arpFrame (addressed.hostIp4 0)) = some 0 ∧ addressed.serviceKind 0 (echoFrame (addressed.hostIp4 0)) = some 1
    ∧ addressed.hostPortUp 0 = true ∧ ((addressed.hostPort 0).echoes.filter (fun t => decide (addressed.clk.elapsed < t + cyclesS))).length < 100 := by
  decide +kernel

def frame1 : TxFrame := { seq := 1, typ := 0x10, chan := 0, kind := 0, body := [], slot := none, ledger := [], reset := false }

theorem witness_timers :
    (let s := opened { session1 0 with unacked := [frame1] } .reset
     ((s.advance (4 * cyclesMs)).session 1).map (fun x => decide (x.unacked = [frame1] ∧ x.sentAt + x.timer * cyclesMs ≤ (s.advance (4 * cyclesMs)).clk.elapsed)) = some true
     ∧ ((s.advance (30 * cyclesS)).session 1).map (fun x => decide (x.unacked ≠ [] ∧ x.progress + 30 * cyclesS ≤ (s.advance (30 * cyclesS)).clk.elapsed)) = some true)
    ∧ (let s := (opened (session1 0) .reset).advance (300 * cyclesS)
       (s.session 1).map (fun x => decide (x.lastRx + 300 * cyclesS ≤ s.clk.elapsed)) = some true) := by decide +kernel

/-- A submission that waits with its tenant's next number. -/
def waits0 (op len : Nat) : Submission :=
  { tenant := 0, session := 1, opcode := op, slot := 0, seq := 0, len := len, hostTag := 0, carried := len, payload := zeros len, started := false }
def queued (op len : Nat) : State := (opened (session1 0) .reset).setTenant 0 (fun x => { x with waiting := [waits0 op len] })

theorem witness_submissionTurn :
    (queued 0x0101 8).nextTenant = some 0 ∧ ((queued 0x0101 8).tenant 0).waiting.find? (fun w => w.seq == ((queued 0x0101 8).tenant 0).next) = some (waits0 0x0101 8)
    ∧ ((queued 0x0101 8).turnTaken 0 (waits0 0x0101 8)).session 1 ≠ none
    ∧ (cmdRow 0x0101).map (fun r => ((queued 0x0101 8).turnTaken 0 (waits0 0x0101 8)).turnReject (waits0 0x0101 8) r) = some none
    ∧ (cmdRow 0x0101).map (fun r => ((queued 0x0101 7).turnTaken 0 (waits0 0x0101 7)).turnReject (waits0 0x0101 7) r) = some (some (badLength 0))
    ∧ ((told 0xFFFF 0 [] .reset).tenant 0).running.isSome = true ∧ cmdRow 0xFFFF = none := by decide +kernel

/-- RUN_HOLD outside a run. -/
theorem witness_WrongStateRejected : let s := told 0x0804 0 (zeros 8) .reset
    s.runs 0x0804 0 (zeros 8) = true ∧ s.stateOk 0x0804 = false := by decide +kernel

/-! ## Time -/

def markerWord (e : Nat) : Word := BitVec.ofNat 64 (e + 2 ^ 48 * (crc8Epoch e).toNat)

/-- A run whose next marker is expected at epoch 1. -/
def marked (s : State) : State := s.withClk { s.clk with expect := epochCycles }

theorem witness_markers :
    (let s0 := State.reset.withClk { State.reset.clk with lastMarker := some (0, 4), consistent := 1 }; let s := s0.advance (epochCycles + 2)
     s0.clk.present = true ∧ s.inRun = false ∧ s.clk.lastMarker = some (0, 4) ∧ markerOk (epochCycles + 2) (markerWord 5) (0 + epochCycles) (4 + 1) = true
     ∧ 1 ≤ s.clk.consistent)
    ∧ (let s := (marked (running .reset)).advance (epochCycles - 2)
       s.inRun = true ∧ markerOk (epochCycles - 2) (markerWord 1) s.clk.expect (s.clk.expect / epochCycles) = true
       ∧ markerOk (epochCycles - 3) (markerWord 1) s.clk.expect (s.clk.expect / epochCycles) = false)
    ∧ (running .reset).clk.present = true
    ∧ (let s := (running .reset).withClk { State.reset.clk with present := false, stopped := true }; s.clk.present = false ∧ s.clk.stopped = true ∧ s.inRun = true) := by
  decide +kernel

/-- A window of period 3 under P = 2, with the next comma due at 100. -/
def windowed (clause : Nat) (s : State) : State :=
  let s1 := running s
  (s1.withRun { s1.run with clause := clause, nextComma := some 100 }).withFrame { s1.frame with period := 2, table := some (tableOf tableRecord) }

theorem witness_commas :
    (let s := windowed 0 .reset
     s.run.nextComma = some 100 ∧ s.ticking = true ∧ s.run.kind ≠ .none ∧ s.run.clause + 1 < s.periodLength ∧ (s.advance 100).closeClause.run.stalled = false)
    ∧ (let s := (windowed 0 .reset).withRun { (windowed 0 .reset).run with kind := .none }
       s.run.nextComma = some 100 ∧ s.ticking = true ∧ (s.advance 100).run.kind = .none)
    ∧ (let s0 := windowed 1 .reset; let u := s0.advance 100; let u1 := u.closeClause.missLag0.closeLate
       u.run.kind ≠ .none ∧ u.periodLength ≤ u.run.clause + 1 ∧ u.run.stalled = false ∧ u1.run.record = none)
    ∧ (let s0 := (windowed 1 .reset).withRun { (windowed 1 .reset).run with record := some (zeros 64) }; let u := s0.advance 100; let u1 := u.closeClause.missLag0.closeLate
       u.run.stalled = false ∧ u1.run.record = some (zeros 64) ∧ u1.run.stalled = false) := by decide +kernel

/-! ## The verdict and schedule entries -/

def ent (cls target object lag : Nat) : EntrySt :=
  { entry := { clause := 0, cls := cls, lag := lag, target := target, object := object, budget := 0 }, step := 3 - lag, window := 3, state := .ready, started := [],
    done := [], openRef := 0, startRef := 0, overran := false, interval := 10000 }

/-- Window 3 with one entry at place 0. -/
def withEntry (e : EntrySt) (s : State) : State := let s1 := running s
  s1.withRun { s1.run with entries := [(3 * 65536, e)] }

theorem witness_VerdictEvents :
    (let s := withEntry (ent clsVerdict 0 0 1) (member2 .reset); let others := [s.exchangeBytes 2]
     s.verdictEntry = some (3 * 65536, ent clsVerdict 0 0 1) ∧ s.run.lag1 = some 2 ∧ s.mayStart = true ∧ s.clk.stopped = false ∧ s.run.exchanged = false
     ∧ others.length + 1 = s.memberCount ∧ (∀ b ∈ others, b.length = (s.exchangeBytes 2).length))
    ∧ (let s0 := withEntry (ent clsVerdict 0 0 1) .reset
       let s := (s0.withRun { s0.run with exchanged := true }).advance 100
       s.verdictEntry = some (3 * 65536, ent clsVerdict 0 0 1) ∧ s.mayStart = true ∧ s.clk.present = true ∧ s.clk.stopped = false ∧ s.run.lag1 = some 2
       ∧ s.run.exchanged = true)
    ∧ (let s0 := withEntry (ent clsVerdict 0 0 1) .reset
       let s := s0.withRun { s0.run with lag1 := none }
       s.verdictEntry = some (3 * 65536, ent clsVerdict 0 0 1) ∧ s.mayStart = true ∧ s.clk.present = true ∧ s.clk.stopped = false ∧ s.run.lag1 = none)
    ∧ (let s := running (member2 .reset)
       s.inRun = true ∧ 1 ∈ s.nodePlaces ∧ s.run.sentUp = false ∧ 1 ∉ s.run.cut ∧ s.nodePart 1 = none)
    ∧ (let s0 := running .reset
       let s := s0.withFab { s0.fab with exch := [(0, zeros 64)] }
       s.inRun = true ∧ s.run.kind ≠ .none ∧ (0, zeros 64) ∈ s.fab.exch ∧ s.run.record = none ∧ s.run.stalled = false)
    ∧ (∀ m ∈ [1, 2], let s0 := running .reset
       let s := (s0.withRun { s0.run with stalled := true, missed := m }).withFab { s0.fab with exch := [(0, zeros 64)] }
       s.inRun = true ∧ (0, zeros 64) ∈ s.fab.exch ∧ s.run.record = none ∧ s.run.stalled = true ∧ (s.run.missed < 2 ∨ 2 ≤ s.run.missed)) := by decide +kernel

/-- A run of entry 0 of `endProgram` on core 0. -/
def run0 : EntryRun :=
  { kind := .training 0, step := 3, window := 3, clause := 0, tableKey := 3 * 65536, object := 0, place := 0, seed := 0, limit := 0, issued := 0, ldadds := 0, pc := 0,
    stopped := false, ended := false, image := endProgram, fold := 0, shadow := none }

def onCore (k : Core) (s : State) : State := s.setCore 0 k

def exc0 : ExcRecord :=
  { code := 7, cls := 4, clause := 0, index := 0, word := 0, step := 3, core := 0, entry := 0, detail := 0, ref := 0, window := 3, sregs := [], aregs := [],
    loops := [], calls := [] }

/-- Window 2 has been cleared on every core and unit that core 0 or 511 depends on. -/
def clean (s : State) : State :=
  let s1 := (s.setCore 0 { s.core 0 with cleared := 2 }).setCore 511 { s.core 511 with cleared := 2 }
  s1.withSyncWin [(65536, 2), (65536 + 63, 2), (131072, 2), (131072 + 7, 2)]

theorem witness_CoreEntries :
    (let s := clean (onCore { Core.blank with prog := some endProgram } (withEntry (ent clsCore 0 0 0) .reset)); let e := ent clsCore 0 0 0
     s.run.entries.find? (fun e => keyPlace e.1 == 0 && e.2.entry.cls == clsCore && e.2.state == .ready) = some (3 * 65536, e) ∧ s.mayStart = true
     ∧ s.blocked (3 * 65536) e.entry.target clsCore = false ∧ s.coreFree e.entry.target e.window = true ∧ (e.window, e.step) ∉ (s.core e.entry.target).banned
     ∧ s.dieOff e.entry.target e.window = false ∧ (s.core e.entry.target).prog = some endProgram ∧ endProgram.entries[e.entry.object]? = some (0, 0))
    ∧ (let v := { evalOf 1 (evalBytes 0) with phase := 1, window := 3, image := some endProgram }; let e := ent clsEval 0xFFFF 0 0
       let s := clean ((withEntry e .reset).withEvals [v])
       s.readyKey 0 clsEval 511 = some (3 * 65536) ∧ s.entryAt (3 * 65536) = some e ∧ s.mayStart = true ∧ s.blocked (3 * 65536) 511 clsCore = false
       ∧ s.coreFree 511 e.window = true ∧ s.dieOff 511 e.window = false ∧ s.evalOf e.window = some v ∧ v.image = some endProgram)
    ∧ (let s := onCore { Core.blank with entry := some { run0 with ended := true } } .reset; (s.core 0).entry = some { run0 with ended := true })
    ∧ (∀ k ∈ [EntryKind.training 0, .evaluation 1], let s := onCore { Core.blank with entry := some { run0 with kind := k, stopped := true }, exc := some exc0 } .reset
       (s.core 0).entry = some { run0 with kind := k, stopped := true } ∧ (s.core 0).drained = true ∧ (s.core 0).exc = some exc0) := by decide +kernel

/-- A pending contribution of window 3, clause 0. -/
def pending0 : Pending := { window := 3, clause := 0, core := 0, place := 0, ldadd := 0, index := 0, sa := 0, value := 0, step := 3 }

theorem witness_WindowEnds :
    (let s := (running .reset).withMem { State.reset.mem with adds := [pending0] }
     s.mem.adds.foldl (fun a q => min a (q.window * 65536 + q.clause)) (3 * 65536) = 3 * 65536 ∧ s.segmentsOpen 3 0 = false)
    ∧ (let s := running .reset
       s.inRun = true ∧ s.mem.stagingCleared < s.run.period ∧ s.segmentsOpen s.run.period 65535 = false ∧ (∀ q ∈ s.mem.adds, s.run.period < q.window))
    ∧ (let s := running .reset
       s.inRun = true ∧ (s.core 511).cleared < s.run.period ∧ s.coreDone 511 s.run.period = true)
    ∧ (∀ e ∈ [(1, 63), (2, 7)], let s := running .reset
       (e.1 = 1 ∧ e.2 < 64 ∨ e.1 = 2 ∧ e.2 < 8) ∧ SMap.get 0 s.syncWin (e.1 * 65536 + e.2) < s.run.period
       ∧ (unitCores e.1 e.2).all (fun c => s.coreDone c s.run.period) = true ∧ s.fab.signals = []) := by decide +kernel

/-! ## Jobs, deliveries, mirrors -/

/-- The job of `jobRecord`, as one of two phases, with mirror region 5; its pair holds version 1 in buffer 1 on every M-die. -/
def job0 : Job := { jobOf jobRecord [] with phases := 2, mirror := 5 }
def paired (s : State) : State :=
  let s1 := (List.range 8).foldl (fun st m => st.setPairDie 2 m { PairDie.blank with buf1 := .held 1, wc := .held 1 }) (s.withJobs [(0, job0)])
  s1.withMem { s1.mem with regions := (jobHeap []).mem.regions ++ [(5, { tenant := 0, kind := 2, spill := 0, base := 20 * mib2, size := mib2 })] }

theorem witness_JobEntries :
    (let e := ent clsOpt 0xFF 0 1; let s := paired (withEntry e .reset)
     s.mayBegin 0 7 clsOpt (3 * 65536) e ∧ SMap.find? s.jobs e.entry.object = some job0 ∧ (s.pairDie job0.pair 7).holds (e.step - 1) = some 1
     ∧ s.phaseOf (3 * 65536) e = 1)
    ∧ (let e := ent clsOpt 0xFF 0 1; let s := (paired (withEntry e .reset)).setPairDie 2 7 PairDie.blank
       s.mayBegin 0 7 clsOpt (3 * 65536) e ∧ (s.pairDie job0.pair 7).holds (e.step - 1) = none)
    ∧ (let e := ent clsMirror 0xFF 0 1; let s := paired (withEntry e .reset)
       s.mayBegin 0 0 clsMirror (3 * 65536) e ∧ SMap.find? s.jobs e.entry.object = some job0 ∧ job0.pair ∉ s.recov.refreshing)
    ∧ (let e := ent clsCkpt 0xFF 0 0; let s := withEntry e .reset
       s.mayBegin 0 0 clsCkpt (3 * 65536) e ∧ ((s.startUnit (3 * 65536) 0).finishUnit (3 * 65536) 0).ckpt.run = none)
    ∧ (let e := ent clsCkpt 0xFF 0 0; let s0 := withEntry e .reset
       let r : CkptRun := { version := 1, session := 1, byDigest := true, reading := false, streams := [], allow := [(0, some 0)], sent := 0, verified := 0, resent := 0,
                            pos := 0, lastBack := 0, part := [] }
       let s := s0.withCkpt { s0.ckpt with run := some r, policy := { s0.ckpt.policy with chunks := 1, limits := [1] } }
       s.mayBegin 0 0 clsCkpt (3 * 65536) e ∧ ((s.startUnit (3 * 65536) 0).finishUnit (3 * 65536) 0).ckpt.run = some r
       ∧ (((s.startUnit (3 * 65536) 0).finishUnit (3 * 65536) 0).ckpt.policy.limit e.entry.object).isSome = true ∧ SMap.find? r.allow 0 = some (some 0)) := by
  unfold State.mayBegin; decide +kernel

/-- A phase of `job0` in progress on M-die 0, with its first segment's contributions there. -/
def jobRun0 (phase segs : Nat) : JobRun :=
  { tableKey := 3 * 65536, job := 0, mdie := 0, step := 2, mirror := false, phase := phase, segs := segs, fold := 0, ended := false, stall := none }
def working (phase segs : Nat) : State :=
  let s := paired (withEntry (ent clsOpt 0xFF 0 1) .reset)
  s.withMem { s.mem with jobRuns := [jobRun0 phase segs], segs := SMap.insert [] (segKey 2 0 2 0) { contribs := 1, deliveries := 1 } }

theorem witness_JobSegments :
    (let s := working 1 0; let r := jobRun0 1 0; let env := s.jobEnv r job0 (((s.pairDie job0.pair 0).holds (r.step - 1)).getD 0)
     s.mem.jobRuns.find? (fun r => keyPlace r.tableKey == 0 && r.mdie == 0 && !r.ended && r.stall.isNone) = some r ∧ SMap.find? s.jobs r.job = some job0
     ∧ s.inRun = true ∧ r.mirror = false ∧ r.segs < segCount job0.n ∧ (s.segCounts r.step 0 job0.pair 0).contribs = job0.expected ∧ env.last = false
     ∧ s.guardHit env 0 (s.segElems job0.pair job0.n 0 0) = none ∧ s.badRead env (s.segElems job0.pair job0.n 0 0) = none)
    ∧ (let s0 := working 2 0; let r := jobRun0 2 0
       let s := s0.withMem { s0.mem with guards := [(16, { version := 0, buf := bufOf (s0.v0 2) 2, units := 1, read := [] })] }
       let env := s.jobEnv r job0 (((s.pairDie job0.pair 0).holds (r.step - 1)).getD 0)
       (s.segCounts r.step 0 job0.pair 0).contribs = job0.expected ∧ (s.guardHit env 0 (s.segElems job0.pair job0.n 0 0)).isSome = true)
    ∧ (let s := (working 2 1).advance 5; let r := jobRun0 2 1; let env := s.jobEnv r job0 (((s.pairDie job0.pair 0).holds (r.step - 1)).getD 0)
       s.mem.jobRuns.find? (fun r => keyPlace r.tableKey == 0 && r.mdie == 0 && !r.ended) = some r ∧ SMap.find? s.jobs r.job = some job0
       ∧ r.segs = segCount job0.n ∧ env.last = true ∧ r.mirror = false) := by decide +kernel

def delivery0 (step ordinal : Nat) : Delivery := { mdie := 0, pair := 2, seg := 0, step := step, ordinal := ordinal, count := 1, first := 0, len := 1, vals := [0] }
def delivering (d : Delivery) (s : State) : State := s.withMem { s.mem with outbox := [d] }

theorem witness_Deliveries :
    (let d := delivery0 3 0; let s := delivering d (paired (running .reset))
     d ∈ s.mem.outbox ∧ s.inRun = true ∧ s.run.lag0 = some d.step ∧ d.ordinal ≤ (s.segCounts d.step d.mdie d.pair d.seg).deliveries
     ∧ s.gradInUse d.pair d.mdie d.seg (d.step - 1) = false)
    ∧ (let d := delivery0 3 1; let s := delivering d (paired (running .reset))
       (s.segCounts d.step d.mdie d.pair d.seg).deliveries < d.ordinal ∧ (s.mem.early.filter (fun x => x.mdie == d.mdie)).length < 16)
    ∧ (let d := delivery0 3 0; let s := delivering d (paired (withEntry (ent clsOpt 0xFF 0 1) .reset))
       s.run.lag0 = some d.step ∧ s.gradInUse d.pair d.mdie d.seg (d.step - 1) = true)
    ∧ (let d := delivery0 2 0; let s := delivering d (paired (running .reset)); d ∈ s.mem.outbox ∧ s.run.lag0 = some 3 ∧ 3 ≠ d.step)
    ∧ (let d := delivery0 3 0; let s0 := paired (running .reset); let s := s0.withMem { s0.mem with waiting := [(d, 0)] }
       s.mem.waiting.find? (fun x => x.1.mdie == 0 && x.1.pair == 2 && x.1.seg == 0) = some (d, 0) ∧ s.gradInUse 2 0 0 (d.step - 1) = false) := by decide +kernel

theorem witness_MirrorAndRebuild :
    (let s := (paired .reset).setPairDie 2 0 { PairDie.blank with buf1 := .held 1, rebuild := some 1 }
     (s.pairDie 2 0).rebuild = some 1 ∧ s.pairJob 2 = some job0 ∧ (s.pairDie 2 0).holds 1 = some 1 ∧ s.mem.bad = [])
    ∧ (let s0 := running .reset; let s := s0.withRecov { s0.recov with partner := some 1 }; let b := zeros 8 ++ leBytes 8 2 ++ zeros 16
       s.inRun = true ∧ s.recov.partner = some 1 ∧ b.length = 32 ∧ s.run.sealed < field b 8 8)
    ∧ (let s0 := paired .reset; let s := s0.withRecov { s0.recov with refreshing := [2] }
       let s1 := s.writeShard job0 (s.regionBase job0.mirror) (s.regionBase job0.factor + factorSec job0 2) (zeros 14)
       s.pairJob 2 = some job0 ∧ 2 ∈ s.recov.refreshing ∧ (zeros 14).length = 14 * job0.n + 4 * job0.factorCount ∧ s.mem.bad = []
       ∧ s1.shardFold job0 1 (s.regionBase job0.mirror) (s.regionBase job0.factor + factorSec job0 2) ≠ 1) := by decide +kernel

/-! ## Collectives -/

/-- A reduce-scatter of two elements over axis 0 to a store, from one contributor. -/
def coll0 : CollDesc :=
  { kind := 0, axis := 0, op := 0, inFmt := 6, outFmt := 6, sr := false, nanMode := false, srK := 0, dest := 1, root := 0, first := 0, count := 1, unit := 0, elems := 2,
    base := 0, tid := 0, draw := 0, done := 3, target := 0 }
def axes0 : AxisSet := { axes := [{ size := 1, stride := 1, kind := 0, defined := true }], colls := [coll0], contribs := [{ die := 0, cluster := 0, ready := 5, base := 0 }] }
def collective0 (s : State) : State := let s1 := withEntry (ent clsColl 0 0 0) (member1 s); s1.withFab { s1.fab with axis := some axes0 }
def collRun0 : CollRun := { desc := coll0, step := 3, window := 3, lag := 0, reads := [], ins := [], parts := [], sent2 := false, dead := false, offs := [] }

theorem witness_CollectiveEvents :
    (let s := collective0 .reset; let e := ent clsColl 0 0 0
     s.run.entries.find? (fun e => keyPlace e.1 == 0 && e.2.entry.cls == clsColl && e.2.state == .ready) = some (3 * 65536, e)
     ∧ s.fab.axis.bind (fun x => x.colls[e.entry.object]?) = some coll0 ∧ s.mayStart = true ∧ s.blocked (3 * 65536) e.entry.target clsColl = false
     ∧ s.fab.early = [])
    ∧ (let s := (collective0 .reset).setColl (3 * 65536) collRun0
       s.collAt 0 = some (3 * 65536, collRun0) ∧ s.fab.axis.bind (fun x => x.contribs[collRun0.desc.first + 0]?) = some { die := 0, cluster := 0, ready := 5, base := 0 }
       ∧ s.entryAt (3 * 65536) = some (ent clsColl 0 0 0) ∧ 0 < collRun0.desc.count ∧ SMap.find? collRun0.reads 0 = none ∧ collRun0.desc.kind ≠ 4
       ∧ (s.obj (objKey 2 0 5)).poisoned = false ∧ collRun0.desc.target ≤ (s.obj (objKey 2 0 5)).value ∧ s.mem.badStore = [])
    ∧ (let r := { collRun0 with ins := [(0, [(0, 0), (1, 0)])] }; let s := (collective0 .reset).setColl (3 * 65536) r
       s.collAt 0 = some (3 * 65536, r) ∧ s.collOpen (3 * 65536) = false ∧ s.statsJobs (3 * 65536) r = []
       ∧ (s.collOut r (s.axisOf r.desc.axis).size ((s.axisOf r.desc.axis).pos s.rank)).isSome = true ∧ s.entryAt (3 * 65536) = some (ent clsColl 0 0 0)) := by
  decide +kernel

end Sys2Proof.Tests
end

