-- ==== Sys2Proof/Tests/Cores.lean ====
section
/-!
SUPPORT. Witnesses: for the statements about core instructions, concrete cores and operands that meet the hypotheses of each clause.
-/

namespace Sys2Proof.Tests

set_option Elab.async false

open Sys2Proof Sys2Proof.Machine

/-! ## A core at an instruction -/

/-- The word of an instruction, and the image whose only word it is. -/
def wordOf (i : Instr) : Word := (encodeWord i).getD 0
def imageOf (i : Instr) : Image := { endProgram with resident := [wordOf i] }
def runOf (i : Instr) : EntryRun := { run0 with image := imageOf i }

/-- Core 0 at an instruction, its registers as in `k`. -/
def atInstr (i : Instr) (k : Core) : Core := { k with prog := some (imageOf i), entry := some (runOf i) }
def offer (i : Instr) (k : Core) : State := onCore (atInstr i k) .reset

/-- A tensor of space 0 with extents e0 and e1 and stride s1, as *Tensor descriptor* lays it out. -/
def dscIn (space fmt base e0 e1 s1 : Nat) : Bytes :=
  leBytes 4 5 ++ leBytes 1 fmt ++ zeros 1 ++ leBytes 1 space ++ zeros 1 ++ leBytes 1 0 ++ leBytes 1 2 ++ zeros 2 ++ zeros 4 ++ leBytes 8 base ++ zeros 8
    ++ leBytes 4 e0 ++ leBytes 4 e1 ++ leBytes 4 1 ++ leBytes 4 1 ++ leBytes 4 s1 ++ zeros 12
def dsc : Nat → Nat → Nat → Nat → Nat → Bytes := dscIn 0

/-- FP32 tensors of two by two elements in t1, t2 and t3, an A48 tensor of the staging space in t4, an MX tensor in t5; the lines they lie in valid;
s1 = 2, s2 = 4. -/
def tensors : Core :=
  { Core.blank with sregs := [(1, 2), (2, 4)],
                    descs := [(1, dsc 0 0 2 2 64), (2, dsc 0 128 2 2 64), (3, dsc 0 256 2 2 64), (4, dscIn 3 0xC 0 2 2 64), (5, dsc 3 384 2 2 64)],
                    store := { cells := [], valid := [(0, true), (1, true), (2, true), (3, true), (4, true), (5, true), (6, true), (7, true)] } }

def isOk {ε α : Type} : Except ε α → Bool
  | .ok _ => true
  | .error _ => false

/-! ## Scalars, loops and branches -/

def regs3 (d a b : BitVec 5) : ScalarOp := { d := d, a := a, b := b, imm := false, imm32 := 0 }
def imm3 (d a : BitVec 5) (v : BitVec 32) : ScalarOp := { d := d, a := a, b := 0, imm := true, imm32 := v }

theorem witness_ScalarInstructions : ∀ x ∈ [regs3 3 1 2, imm3 0 1 0xFFFFFFFF], ∀ i ∈ [Instr.add 0 x, .sub 0 x, .mul 0 x, .andOp 0 x, .orOp 0 x, .xor 0 x,
    .shl 0 x, .shr 0 x, .sra 0 x, .minOp 0 x, .maxOp 0 x, .seq 0 x, .slt 0 x, .sltu 0 x, .adda 0 x],
    (offer i tensors).offers 0 i (runOf i) (wordOf i) := by unfold State.offers; decide +kernel

theorem witness_ScalarInstructions_unary : ∀ i ∈ [Instr.lui 0 (imm3 3 1 0x80000000), .mova 0 (regs3 15 1 0), .mova 0 (regs3 0 1 0), .movs 0 (regs3 0 15 0)],
    (offer i tensors).offers 0 i (runOf i) (wordOf i) := by unfold State.offers; decide +kernel

/-- A loop by register and by immediate, at the deepest level that is free. -/
def loop0 (cnt : BitVec 5) (imm : Bool) (count : BitVec 32) : LoopOp := { cnt := cnt, imm := imm, len := 1, count := count }
def level (n stop : Nat) : LoopLevel := { count := n, index := 0, start := 0, stop := stop }
def nested (n : Nat) : Core := { tensors with loops := List.replicate n (level 2 4) }

theorem witness_Loops :
    (∀ x ∈ [loop0 1 false 0, loop0 0 true 1, loop0 0 false 0], (offer (.loopStart 0 x) (nested 3)).offers 0 (.loopStart 0 x) (runOf (.loopStart 0 x)) (wordOf (.loopStart 0 x)))
    ∧ (nested 3).loops.length < 4 ∧ 4 ≤ (nested 4).loops.length
    ∧ (∀ l ∈ [level 2 4, level 1 4], l.index + 1 < l.count ∨ l.count ≤ l.index + 1)
    ∧ (∀ n ∈ [0, 3], let v : BitVec 2 := BitVec.ofNat 2 n; (offer (.lidx 0 3 v) (nested 4)).offers 0 (.lidx 0 3 v) (runOf (.lidx 0 3 v)) (wordOf (.lidx 0 3 v))
        ∧ ((nested 4).loops[v.toNat]?).isSome = true)
    ∧ (offer (.breakLoop 0) (nested 2)).offers 0 (.breakLoop 0) (runOf (.breakLoop 0)) (wordOf (.breakLoop 0)) := by unfold State.offers; decide +kernel

def branch (cond : BitVec 3) (off : BitVec 14) : BranchOp := { a := 1, b := 2, cond := cond, off := off }
def called (n l : Nat) : Core := { tensors with calls := List.replicate n { index := 1, loops := l } }

/-- Taken and not taken; inside a loop's body at its first and past its last index; a call at the last free level; a return at its own depth. -/
theorem witness_Branches :
    (∀ n ∈ [0, 1, 2, 3, 4, 5], let cond : BitVec 3 := BitVec.ofNat 3 n; (offer (.br 0 (branch cond 0)) (nested 1)).offers 0 (.br 0 (branch cond 0)) (runOf (.br 0 (branch cond 0)))
        (wordOf (.br 0 (branch cond 0))))
    ∧ branchTaken 1 (tensors.s 1) (tensors.s 2) = true ∧ branchTaken 0 (tensors.s 1) (tensors.s 2) = false
    ∧ (∀ n ∈ [0, 3, 4], let off : BitVec 14 := BitVec.ofNat 14 n; (offer (.jmp 0 off) (nested 1)).offers 0 (.jmp 0 off) (runOf (.jmp 0 off)) (wordOf (.jmp 0 off)))
    ∧ (nested 1).loops.head? = some (level 2 4) := by
  unfold State.offers; decide +kernel

theorem witness_calls :
    (∀ n ∈ [0, 7, 8], (offer (.callSub 0 8191) (called n 0)).offers 0 (.callSub 0 8191) (runOf (.callSub 0 8191)) (wordOf (.callSub 0 8191))
        ∧ (called n 0).calls.length = n)
    ∧ (∀ n ∈ [0, 1, 8], (offer (.retSub 0) (called n 0)).offers 0 (.retSub 0) (runOf (.retSub 0)) (wordOf (.retSub 0))) := by
  unfold State.offers; decide +kernel

/-- Stops of the sequencer: the instruction limit, an index that holds no word, a loop too many, a level that is not active, a return with more loops
active than at its call, and handles that name nothing. -/
theorem witness_SequencerExceptions :
    (let s := onCore { Core.blank with prog := some endProgram, entry := some { run0 with limit := 5, issued := 5 } } .reset
     (s.core 0).entry = some { run0 with limit := 5, issued := 5 } ∧ (s.core 0).wait = none)
    ∧ (let s := onCore { Core.blank with prog := some endProgram, entry := some { run0 with pc := 8191 } } .reset
       (s.core 0).entry = some { run0 with pc := 8191 } ∧ (s.core 0).word 8191 = none)
    ∧ (offer (.loopStart 0 (loop0 0 true 1)) (nested 4)).offers 0 (.loopStart 0 (loop0 0 true 1)) (runOf (.loopStart 0 (loop0 0 true 1))) (wordOf (.loopStart 0 (loop0 0 true 1)))
    ∧ (offer (.lidx 0 3 1) (nested 1)).offers 0 (.lidx 0 3 1) (runOf (.lidx 0 3 1)) (wordOf (.lidx 0 3 1)) ∧ (nested 1).loops.length ≤ (1 : BitVec 2).toNat
    ∧ (let k := { called 1 0 with loops := [level 2 4] }; (offer (.retSub 0) k).offers 0 (.retSub 0) (runOf (.retSub 0)) (wordOf (.retSub 0)))
    ∧ (let k := { Core.blank with sregs := [(1, 64)] }
       let i : Instr := .wait 0 { reg := 1, target := 0, sleep := true, timeout := 0 }; let j : Instr := .sig 0 { reg := 1, imm := false, count := 1, handle := 0 }
       (offer i k).offers 0 i (runOf i) (wordOf i) ∧ (offer j k).offers 0 j (runOf j) (wordOf j) ∧ k.drained = true ∧ (offer i k).resolveHandle 0 64 = none) := by
  unfold State.offers; decide +kernel

/-- The highest code that has a record. -/
theorem witness_ExceptionRecord : (State.reset.core 0).exc = none ∧ 0x16 < 256 := by decide +kernel

/-! ## Loads, the matrix unit and the lanes -/

def load (dst src : BitVec 6) (signal : Bool) : LoadOp := { dst := dst, src := src, dstRow := 0, srcRow := 0, handle := 0, signal := signal }

/-- Whether a transfer passes its checks, with the values that the statements name. -/
def loadPasses (i : Instr) (x : LoadOp) (k0 : Core) : Bool :=
  let s := offer i k0; let k := s.core 0; let e := runOf i
  let d := Desc.parse (k.desc x.dst.toNat); let r := Desc.parse (k.desc x.src.toNat)
  let is := elems 0 d.count
  !loadHeld k x.dst.toNat (some x.src.toNat) && d.e0 == r.e0 && d.e1 == r.e1 && d.e2 == r.e2 && d.e3 == r.e3
    && isOk (completionKey s 0 x.signal (k.s x.handle))
    && (match destCheck s 0 e x.dst.toNat d 0, srcCheck s 0 e x.src.toNat r 0 with
        | .ok _, .ok ps => !pendingBefore s e ps (r.move 0) is && isOk (s.checkElems ps (r.move 0) is)
        | _, _ => false)

/-- A transfer of like tensors that signals, one that converts FP32 to E4M3, and one into the accumulating staging tensor. -/
theorem witness_LoadInstructions :
    (∀ x ∈ [load 2 1 true, load 5 1 false], (offer (.ld 0 x) tensors).offers 0 (.ld 0 x) (runOf (.ld 0 x)) (wordOf (.ld 0 x)) ∧ loadPasses (.ld 0 x) x tensors = true)
    ∧ sameCodes (Desc.parse (tensors.desc 1)) (Desc.parse (tensors.desc 2)) (.own 0) (.own 0) = true
    ∧ sameCodes (Desc.parse (tensors.desc 1)) (Desc.parse (tensors.desc 5)) (.own 0) (.own 0) = false
    ∧ (let x := load 5 1 false; let s := offer (.ld 0 x) tensors
       isOk (s.storeItems 0 (runOf (.ld 0 x)) (.own 0) (Desc.parse (tensors.desc 5)) 2 5 0 0
         ((elems 0 4).map (fun i => { i := i, v := s.elemValue (.own 0) (Desc.parse (tensors.desc 1)) i, idx := i }))) = true)
    ∧ (let x := load 4 1 false; (offer (.ldadd 0 x) tensors).offers 0 (.ldadd 0 x) (runOf (.ldadd 0 x)) (wordOf (.ldadd 0 x)) ∧ loadPasses (.ldadd 0 x) x tensors = true
       ∧ (Desc.parse (tensors.desc 4)).space = 3 ∧ (Desc.parse (tensors.desc 4)).fmt = .a48 ∧ (offer (.ldadd 0 x) tensors).mem.adds = []) := by
  unfold State.offers; decide +kernel

def transfer (sg : Option Nat) : LoadRun := { dst := 1, src := none, index := 0, space := 0, lines := [0], signal := sg, word := 0 }

theorem witness_ldzero : ∀ n ∈ [1, 4], let t : BitVec 6 := BitVec.ofNat 6 n; let x : ZeroOp := { dst := t, dstRow := 0, handle := 0, signal := true }; let s := offer (.ldzero 0 x) tensors
    s.offers 0 (.ldzero 0 x) (runOf (.ldzero 0 x)) (wordOf (.ldzero 0 x)) ∧ loadHeld (s.core 0) t.toNat none = false
    ∧ isOk (destCheck s 0 (runOf (.ldzero 0 x)) t.toNat (Desc.parse ((s.core 0).desc t.toNat)) 0) = true
    ∧ isOk (completionKey s 0 true ((s.core 0).s 0)) = true := by
  unfold State.offers; decide +kernel

theorem witness_transferComplete : ∀ l ∈ [transfer none, transfer (some 3)], let s := onCore { Core.blank with loadQ := [l], entry := some run0 } .reset
    (s.core 0).loadQ = [l] ∧ (s.core 0).entry = some run0 := by decide +kernel

/-- DSET of an extent that stands, DSET of a base that is no multiple of 64, and DRST. -/
theorem witness_dset :
    (∀ n ∈ [3, 0], let f : BitVec 4 := BitVec.ofNat 4 n; let i : Instr := .dset 0 1 f 1; let s := offer i tensors
      s.offers 0 i (runOf i) (wordOf i) ∧ descBusy (s.core 0) 1 = false
      ∧ (descFault (((s.core 0).desc 1).take (dsetField f.toNat).1 ++ leBytes (dsetField f.toNat).2 ((s.core 0).s 1).toNat
          ++ ((s.core 0).desc 1).drop ((dsetField f.toNat).1 + (dsetField f.toNat).2))).isNone = (f == 3))
    ∧ (let i : Instr := .drst 0 63; let s := offer i tensors; s.offers 0 i (runOf i) (wordOf i) ∧ descBusy (s.core 0) 63 = false) := by
  unfold State.offers; decide +kernel

/-- One pass, cleared, converting into t3; from C; and continuing a half. -/
def mat (mode : BitVec 16) : MatOp :=
  { a := 1, b := 2, c := if mode.extractLsb' 4 2 = 2 then 3 else 0, out := if mode.getLsbD 6 then 3 else 0, mode := mode, ka := 0, kb := 0 }

theorem witness_MatrixInstructions :
    ∀ n ∈ [0x41, 0x22, 0x93], let mode : BitVec 16 := BitVec.ofNat 16 n; let x := mat mode; let s := offer (.mm 0 x) tensors; let q := matShape x (s.core 0)
      s.offers 0 (.mm 0 x) (runOf (.mm 0 x)) (wordOf (.mm 0 x)) ∧ matHeld (s.core 0) x = false ∧ matCheck s 0 x (s.core 0) q = none
      ∧ isOk (s.checkElems (.own 0) q.a (q.aAll x)) = true ∧ isOk (s.checkElems (.own 0) q.b (q.bAll x)) = true
      ∧ (x.mode.extractLsb' 4 2 = 2 → isOk (s.checkElems (.own 0) q.c (elems 0 q.c.count)) = true) := by
  unfold State.offers; decide +kernel

theorem witness_kAlign : let x := mat 0x11; let k := { tensors with closed := [(0, BitVec.allOnes 256)] }; let s := offer (.mm 0 x) k
       s.offers 0 (.mm 0 x) (runOf (.mm 0 x)) (wordOf (.mm 0 x)) ∧ matHeld (s.core 0) x = false ∧ matCheck s 0 x (s.core 0) (matShape x (s.core 0)) = some (0x04, 0) := by
  unfold State.offers; decide +kernel

theorem witness_matrixCompletion : ∀ n ∈ [0x41, 0x01], let mode : BitVec 16 := BitVec.ofNat 16 n
       let m : MatRun := { op := mat mode, rows := 2, cols := 2, index := 0, aId := 5, bId := 5, outDesc := dsc 0 256 2 2 64 }
       let s := onCore { tensors with matQ := [m], entry := some run0 } .reset
       (s.core 0).matQ = [m] ∧ m.converts = (n == 0x41)
       ∧ isOk ((s.setCore 0 { s.core 0 with matQ := [] }).storeItems 0 run0 (.own 0) (Desc.parse m.outDesc) 0 5 5 0
           ((grid 2 2).map (fun p => { i := p.2 + 2 * p.1, v := decA48 ((s.core 0).accAt false p.1 p.2).toNat, idx := p.2 + 2 * p.1 }))) = true := by
  decide +kernel

def vec (vc : BitVec 5) : VecOp := { vd := 3, va := 1, vb := 2, vc := vc, mask := 0, sr := 0, lane := 0 }
def unary : VecOp := { vd := 3, va := 1, vb := 0, vc := 0, mask := 1, sr := 0, lane := 0 }

theorem witness_LaneInstructions : ∀ i ∈ [Instr.vadd 0 (vec 0), .vsub 0 (vec 0), .vmul 0 (vec 0), .vfma 0 (vec 4), .vmin 0 (vec 0), .vmax 0 (vec 0), .vabs 0 unary,
    .vneg 0 unary, .vrcp 0 unary, .vrsq 0 unary, .vexp2 0 unary, .vlog2 0 unary, .vexp 0 unary, .vlog 0 unary, .vsexp 0 (vec 0), .vcmpeq 0 (vec 0),
    .vcmplt 0 (vec 0), .vcmple 0 (vec 0), .vsel 0 (vec 3), .vbcast 0 { unary with va := 0, sr := 1 }, .vextr 0 { unary with vd := 0, mask := 0, sr := 31, lane := 127 },
    .vu2f 0 unary, .vrand 0 { vd := 3, desc := 1, stream := 1, index := 0, draw := 0 }],
    (offer i tensors).offers 0 i (runOf i) (wordOf i) := by unfold State.offers; decide +kernel

def vmem : VMemOp := { vd := 3, desc := 1, off := 0, mask := 0 }
def tap (row : BitVec 5) (vd vs : BitVec 5) : TapOp := { vd := vd, vs := vs, half := true, row := row, mask := 0 }

/-- A vector load and a store, the taps at rows 0 and 254 and at the odd row and the row past the last, and a reduction of two elements. -/
theorem witness_VectorMemoryAndTaps :
    (let s := offer (.vld 0 vmem) tensors; let d := Desc.parse ((s.core 0).desc 1); let is := (activeLanes (s.core 0) 0 0 d.count).map (0 + ·)
     s.offers 0 (.vld 0 vmem) (runOf (.vld 0 vmem)) (wordOf (.vld 0 vmem)) ∧ 0 < d.count ∧ vecHeld (s.core 0) 1 false = false ∧ s.inside (.own 0) d is = true
     ∧ isOk (s.checkElems (.own 0) d is) = true)
    ∧ (let s := offer (.vst 0 vmem) tensors; let d := Desc.parse ((s.core 0).desc 1); let ls := activeLanes (s.core 0) 0 0 d.count
       s.offers 0 (.vst 0 vmem) (runOf (.vst 0 vmem)) (wordOf (.vst 0 vmem)) ∧ vecHeld (s.core 0) 1 true = false ∧ s.inside (.own 0) d (ls.map (0 + ·)) = true
       ∧ isOk (s.storeItems 0 (runOf (.vst 0 vmem)) (.own 0) d 1 0 0 0 (ls.map (fun l => { i := 0 + l, v := decFP32 ((s.core 0).lane 3 l), idx := 0 + l }))) = true) := by
  unfold State.offers; decide +kernel

theorem witness_tapsAndReduction :
    (∀ n ∈ [0, 254, 1, 256], let k := { tensors with sregs := [(1, BitVec.ofNat 64 n)] }
       ∀ i ∈ [Instr.tapr 0 (tap 1 3 0), .tapa 0 (tap 1 3 2), .tapw 0 (tap 1 0 2)], (offer i k).offers 0 i (runOf i) (wordOf i) ∧ tapHeld (offer i k |>.core 0) true = false)
    ∧ (∀ n ∈ [0, 1], let kind : BitVec 2 := BitVec.ofNat 2 n; let x : RedOp := { vd := 3, x := 1, y := if kind = 1 then 2 else 0, kind := kind, a48 := false, len := 1, off := 0 }
       let s := offer (.vred 0 x) tensors
       s.offers 0 (.vred 0 x) (runOf (.vred 0 x)) (wordOf (.vred 0 x)) ∧ ((s.core 0).s 1).toNat = 2 ∧ vecHeld (s.core 0) 1 false = false ∧ vecHeld (s.core 0) 2 false = false
       ∧ isOk (redCheck s 0 1 (Desc.parse ((s.core 0).desc 1)) 0 2) = true ∧ isOk (redCheck s 0 2 (Desc.parse ((s.core 0).desc 2)) 0 2) = true) := by
  unfold State.offers; decide +kernel

/-- A ReLU of two rows on one core, which completes; and the same over two cores, of which the second has no entry. -/
def kern (span : BitVec 2) : KernOp := { code := 1, x := 0, out := 1, aux := 0, span := span, half := false, rows := 1, param := 0 }
def kernDone (x : KernOp) (s : State) : Bool :=
  let qs := [kernSide s 0 x]
  let a := kernAll s qs 1 2 (kernPar s 0 x 2)
  isOk (qs.zipIdx.foldlM (fun (st : State) (p : KernSide × Nat) =>
    match (st.core p.1.c).entry with
    | some f => (kernStore st p.1 f p.2 a).map (fun (v : State) => if p.1.c = 0 then v else v.retired p.1.c)
    | none => .ok st) s.nextFree : Except Nat State)

theorem witness_kernels :
    (let s := offer (.vkern 0 (kern 0)) tensors
     s.offers 0 (.vkern 0 (kern 0)) (runOf (.vkern 0 (kern 0))) (wordOf (.vkern 0 (kern 0))) ∧ isOk (kernCheck s (kernSide s 0 (kern 0))) = true
     ∧ (kernGroup 0 (kern 0)).map (atKernel s (kern 0)) = [some (kernSide s 0 (kern 0))] ∧ kernDone (kern 0) s = true)
    ∧ (let s := offer (.vkern 0 (kern 1)) tensors
       s.offers 0 (.vkern 0 (kern 1)) (runOf (.vkern 0 (kern 1))) (wordOf (.vkern 0 (kern 1))) ∧ isOk (kernCheck s (kernSide s 0 (kern 1))) = true
       ∧ 1 ∈ kernGroup 0 (kern 1) ∧ atKernel s (kern 1) 1 = none) := by
  unfold State.offers; decide +kernel

/-! ## Signals, waits and control -/

/-- A SIG of object 63 of the core by register, of a die object by immediate, and of an object of rank 1. -/
theorem witness_sig :
    (∀ x ∈ [{ reg := 1, imm := false, count := 1, handle := 0 }, ({ reg := 0, imm := true, count := 255, handle := 0x200007FF } : SigOp)],
      let i : Instr := .sig 0 x; let s := offer i { Core.blank with sregs := [(1, 63)] }
      s.offers 0 i (runOf i) (wordOf i) ∧ (s.core 0).drained = true
      ∧ s.resolveHandle 0 (if x.imm then x.handle.toNat else ((s.core 0).s x.reg).toNat % 2 ^ 32) = some (.obj (if x.imm then objKey 2 0 2047 else objKey 0 0 63)))
    ∧ (let x : SigOp := { reg := 0, imm := true, count := 1, handle := 0x30004000 }; let i : Instr := .sig 0 x; let s := member2 (offer i Core.blank)
       s.offers 0 i (runOf i) (wordOf i) ∧ (s.core 0).drained = true ∧ s.resolveHandle 0 0x30004000 = some (.far 1 0 0)) := by
  unfold State.offers; decide +kernel

def signal0 (remote : Bool) : SigRun := { key := 3, remote := remote, count := 2, index := 0, handle := 3, load := false, dyn := false, word := 0 }

/-- A signal that brings its object to the highest value, one that would pass it, and a remote one. -/
theorem witness_signalApplied :
    (∀ remote ∈ [true, false], let s := onCore { Core.blank with sigQ := [signal0 remote], entry := some run0 } .reset
      (s.core 0).sigQ = [signal0 remote] ∧ (s.core 0).entry = some run0)
    ∧ (∀ v ∈ [0xFFFFFFFD, 0xFFFFFFFE], let s := (onCore { Core.blank with sigQ := [signal0 false], entry := some run0 } .reset).setObj 3 { SyncObj.blank with value := v }
        (s.obj 3).poisoned = false ∧ ((s.obj 3).value + (signal0 false).count ≤ 0xFFFFFFFF ↔ v = 0xFFFFFFFD)) := by decide +kernel

/-- A remote signal of a die's window, of the next and of the one before, for object 2,047 of die 7. -/
def remote0 (window : Nat) : SignalIn := { window := window, rank := 1, lag := 0, step := none, data := leBytes 4 (7 * 2048 + 2047) ++ leBytes 4 1 }

theorem witness_remoteSignal : ∀ w ∈ [2, 3, 4], let s0 := clean (running .reset); let s := s0.withFab { s0.fab with signals := [remote0 w] }
    s.fab.signals = [remote0 w] ∧ s.inRun = true ∧ bits (field (remote0 w).data 0 4) 13 11 = 7 ∧ bits (field (remote0 w).data 0 4) 10 0 = 2047
    ∧ s.inReset 7 = false ∧ s.dieWindow 7 % 2 ^ 32 = 3 ∧ s.heldOn 7 < 1024 ∧ (s.obj (objKey 2 7 2047)).poisoned = false
    ∧ (s.obj (objKey 2 7 2047)).value + field (remote0 w).data 4 4 ≤ 0xFFFFFFFF := by decide +kernel

def waitFor (sleep : Bool) : WaitOp := { reg := 1, target := 2, sleep := sleep, timeout := 10 }
def waiting (target : Nat) : WaitRun := { key := 63, target := target, sleep := true, issued := 0, timeout := 10 }

/-- A WAIT for 4 on an object at 4, at 3 and poisoned; a wait standing at its target and short of it; and one whose 10 us have passed. -/
theorem witness_waits :
    (∀ o ∈ [{ SyncObj.blank with value := 4 }, { SyncObj.blank with value := 3 }, { SyncObj.blank with poisoned := true }], ∀ sleep ∈ [true, false],
      let i : Instr := .wait 0 (waitFor sleep); let s := (offer i { Core.blank with sregs := [(1, 63), (2, 4)] }).setObj 63 o
      s.offers 0 i (runOf i) (wordOf i) ∧ (s.core 0).drained = true ∧ s.resolveHandle 0 (((s.core 0).s 1).toNat % 2 ^ 32) = some (.obj 63) ∧ mayWait 0 63 = true
      ∧ s.obj 63 = o)
    ∧ (∀ t ∈ [4, 5], let s := (onCore { Core.blank with wait := some (waiting t), entry := some run0 } .reset).setObj 63 { SyncObj.blank with value := 4 }
        (s.core 0).wait = some (waiting t) ∧ (s.core 0).entry = some run0 ∧ (s.obj 63).poisoned = false ∧ (waiting t).target ≤ 5
        ∧ (waitExpired (s.advance 1000) (waiting t) run0 = true ∧ waitExpired (s.advance 999) (waiting t) run0 = false)) := by
  unfold State.offers; decide +kernel

/-- END and FENCE with nothing outstanding and with a signal outstanding; INFO of each selector; OVL to the last index, and one that reaches back into
the resident part; MARK; RAISE. -/
theorem witness_ClauseControl :
    (∀ k ∈ [Core.blank, { Core.blank with sigQ := [signal0 false] }], ∀ i ∈ [Instr.endEntry 0, .clauseFence 0, .mark 0 1 0xFFFF, .raise 0 7],
      (offer i k).offers 0 i (runOf i) (wordOf i) ∧ ((offer i k).core 0).drained = k.sigQ.isEmpty)
    ∧ (∀ n ∈ [0, 1, 2, 3, 4, 5, 6, 7], let sel : BitVec 4 := BitVec.ofNat 4 n; (offer (.info 0 3 sel) .blank).offers 0 (.info 0 3 sel) (runOf (.info 0 3 sel)) (wordOf (.info 0 3 sel)))
    ∧ (∀ x ∈ [{ dst := 8191, count := 1, src := 8191 }, ({ dst := 0, count := 1, src := 0 } : OvlOp)], let i : Instr := .ovl 0 x
       let m : Image := { imageOf i with overlay := [0] }; let e : EntryRun := { runOf i with image := m }
       let s := onCore { Core.blank with prog := some m, entry := some e } .reset
       s.offers 0 i e (wordOf i) ∧ (ovlBad (s.core 0) e x = false ↔ x.dst = 8191) ∧ x.src.toNat + x.count.toNat ≤ overlayWords e.image) := by
  unfold State.offers; decide +kernel

/-- The status instructions with nothing outstanding and with a transfer outstanding, with a first event and without. -/
theorem witness_StatusInstructions :
    (∀ k ∈ [{ Core.blank with status := 0x00630080, first := some { key := [], bytes := zeros 32 } }, Core.blank, { Core.blank with loadQ := [transfer none] }],
      ∀ i ∈ [Instr.statRd 0 3, .statClr 0 0xFF, .statCap 0 0x7F, .feRd 0 3 7], (offer i k).offers 0 i (runOf i) (wordOf i))
    ∧ (0x00630080 : W32).getLsbD 7 = true ∧ Core.blank.status.getLsbD 7 = false := by unfold State.offers; decide +kernel

end Sys2Proof.Tests
end

