-- ==== Sys2Proof/Tests/Hardware.lean ====
section
/-!
SUPPORT. Witnesses: for the statements about checkpoints, takeovers, the fabric, the memory hardware, resets, power and the sideband, and for those
about every step, concrete states and inputs that meet the hypotheses of each clause.
-/

namespace Sys2Proof.Tests

set_option Elab.async false

open Sys2Proof Sys2Proof.Machine

/-! ## Checkpoints, takeovers and swaps -/

/-- A stream of one guard unit, buffer or factor, and a checkpoint of it. -/
def stream0 (kind len : Nat) : CkptStream :=
  { region := 2, kind := kind, mdie := 0, sec := 0, len := len, own := [], units := [], resent := false, back := [] }
def ckptRun0 (reading : Bool) (x : CkptStream) : CkptRun :=
  { version := 1, session := 1, byDigest := true, reading := reading, streams := [x], allow := [], sent := 0, verified := 0, resent := 0, pos := 0, lastBack := 0,
    part := [] }
def checkpointing (reading : Bool) (x : CkptStream) (s : State) : State := s.withCkpt { s.ckpt with run := some (ckptRun0 reading x) }
def guard0 : Guard := { version := 1, buf := 0, units := 1, read := [] }

/-- A write that waits at unit 0, and the streamer in no run. -/
theorem witness_guardUnits :
    (let s0 := working 2 0; let s := checkpointing false (stream0 0 64) (s0.withMem { s0.mem with jobRuns := [{ jobRun0 2 0 with stall := some (0, 0) }] })
     s.ckpt.run = some (ckptRun0 false (stream0 0 64)) ∧ (stream0 0 64).units_ = 1 ∧ guard0.next (s.stallsAt 2 0) = some 0 ∧ 0 ∈ s.stallsAt 2 0 ∧ s.mem.bad = [])
    ∧ (let s := checkpointing false (stream0 1 64) .reset
       s.inRun = false ∧ (ckptRun0 false (stream0 1 64)).streams.zipIdx.find? (fun y => y.1.mdie == 0 && decide (y.1.units.length < y.1.units_)) = some (stream0 1 64, 0)
       ∧ (ckptRun0 false (stream0 1 64)).allow = [] ∧ guard0.next [] = some 0 ∧ s.mem.bad = []) := by decide +kernel

def chunk0 (kind stream : Nat) : ChunkIn := { kind := kind, stream := stream, off := 0, data := zeros 32 }

/-- A digest that comes back for the stream being read, one for another stream and one outside the read-back, and a restore chunk. -/
theorem witness_streams :
    (∀ k ∈ [0, 1], let s0 := checkpointing true (stream0 1 64) .reset; let s := s0.withCkpt { s0.ckpt with inbox := [chunk0 2 k] }
      s.ckpt.inbox.find? (fun c => c.kind == 2 && c.stream == k && c.data == zeros 32) = some (chunk0 2 k) ∧ s.ckpt.run = some (ckptRun0 true (stream0 1 64)))
    ∧ (let m := zeros 0x54 ++ leBytes 4 1 ++ zeros 8 ++ leBytes 2 2 ++ zeros 6 ++ leBytes 8 (mib2 / 8) ++ zeros 32
       let r : RestoreRun := { version := 1, runId := 7, keyLo := 1, keyHi := 2, session := 1, manifest := m, got := [], state := [], received := 0 }
       let s0 := paired .reset; let s := s0.withCkpt { s0.ckpt with inbox := [chunk0 3 0], restore := some r }; let s1 := s.withCkpt { s.ckpt with inbox := [] }
       s.ckpt.inbox.find? (fun c => c.kind == 3 && c.stream == 0 && c.off == 0 && c.data == zeros 32) = some (chunk0 3 0)
       ∧ (match (s1.restoreStreams m).filterMap id with
          | [x] => decide (32 ≤ x.len ∧ x.kind ≠ 2) && !covered [(0, 32)] x.len
          | _ => false) = true) := by decide +kernel

def route0 (epoch : Nat) : RouteTable := { slice := 1, epoch := epoch, effective := 1000, allow := 1, members := [0, 9], ranges := [] }

/-- A table of another slice that waits for its effective point; a takeover; a pairing that finds no match; and a swap. -/
def pulling (s : State) : State :=
  s.withRecov { s.recov with takeover := some { rank := 0, failed := 1, epoch := 1, runId := 7, keyLo := 1, keyHi := 2, partner := 1, started := true, got := 0, step := 0 } }
def pulled0 (s : State) : Bytes := zeros 0x48 ++ leBytes 8 9 ++ leBytes 8 s.programFold.toNat ++ leBytes 8 s.num.policy.tag ++ zeros 8

theorem witness_EpochsTakeoversSwaps :
    (let x := { SliceTables.blank with pending := some (route0 1) }; let s0 := State.reset.withRoutes [(1, x)]; let s := s0.advance 1000
     s0.sliceTables 1 = x ∧ s0.ownSlice 1 = false ∧ s.recov.takeover = none ∧ (route0 1).effective ≤ s.clk.ref)
    ∧ (let s0 := pulling .reset; let s := s0.withFrame { s0.frame with table := some (tableOf tableRecord) }; let p := s.parsePull (pulled0 s)
       s.recov.takeover.isSome = true ∧ s.tagsAgree p = true ∧ p.own = [] ∧ p.partner = [] ∧ p.shards = [] ∧ p.mirrors = [])
    ∧ (let s0 := State.reset.withRun { State.reset.run with startSeq := some 0 }
       let s := s0.withRecov { s0.recov with partner := some 1, pairRec := some (1, 1, 0) }
       s.unpairedAt = some 1000000000 ∧ s.recov.partner.isSome = true ∧ s.run.startSent = false ∧ s.pairAgrees = false ∧ s.recov.pairRec.isSome = true)
    ∧ (let s := State.reset.withRecov { State.reset.recov with swap := some { logical := 0, failed := 0, spare := 4 } }
       s.recov.swap = some { logical := 0, failed := 0, spare := 4 }) := by decide +kernel

/-! ## The fabric -/

def portUp (x : Port) (s : State) : State := s.setPort 0 { x with state := 2 }

/-- A husk read of slice 1 from rank 1 to this module, in sequence, and the member table that admits it; and the same with a wrong number. -/
def header0 : Bytes :=
  makeHeader { typ := 1, slice := 1, dst := 0, src := 9, epoch := 1, tag := 0, frag := 0, words := 0, object := 0, window := 0, flags := 0, cls := 0, rank := 1, offset := 0 }
def frame0 (seq : Nat) (ok : Bool) : FabricFrame :=
  { fcsOk := ok, stomp := false, bytes := portMac 0 0 ++ zeros 6 ++ [0x88, 0xB5] ++ withLink header0 [] seq 0, checks := [] }
def joined (s : State) : State := (s.withMember (some (1, 0))).withRoutes [(1, { SliceTables.blank with current := some (route0 1) })]

theorem witness_sequencedFrame :
    (∀ q ∈ [0, 1], (frame0 q true).fcsOk = true ∧ (hSeq (slice (frame0 q true).bytes 14 56) = ((portUp .blank .reset).port 0).rxSeq ↔ q = 0))
    ∧ ((portUp .blank .reset).port 0).state = 2 ∧ (frame0 0 false).fcsOk = false
    ∧ (let s := portUp .blank (joined .reset); let h := slice (frame0 0 true).bytes 14 56; let x := s.port 0
       let s1 := (s.setPort 0 (((({ x with rxSeq := 1, nakSent := false, accepted := addAt x.accepted (hVc h) 2,
                                           owed := addAt x.owed (hVc h) 2 } : Port).credit h).acknowledge (hAck h) s.clk.elapsed).count 0x10 1)).flushPort 0
       ceilDiv (14 + 56 + 18 * hWords ((fixHeader h).getD h) + 4) 64 = 2 ∧ (match s1.dropReason 0 ((frame0 0 true).bytes.take 14) h with
         | .ok y => decide (hDst y.1 = s1.modId)
         | .error _ => false) = true) := by decide +kernel

theorem witness_LinkEvents :
    (∀ k ∈ [16, 17], let s := (portUp { Port.blank with nakAt := some (3, k) } .reset).advance 10; (s.port 0).state = 2 ∧ (s.port 0).nakAt = some (3, k)
      ∧ (s.port 0).retrain = none)
    ∧ (let s := (portUp { Port.blank with retrain := some 0 } .reset).advance 10; (s.port 0).retrain = some 0 ∧ s.clk.elapsed < 0 + 100000000)
    ∧ (∀ n ∈ [0, 1], ((State.reset.setPort 15 { Port.blank with state := n }).port 15).state = n) ∧ State.reset.nDieUp (15 / 8) = true
    ∧ field (zeros 3 ++ [1] ++ zeros 60) 3 1 = 1 ∧ field (zeros 64) 3 1 ≠ 1 := by decide +kernel

def op0 (tag : Nat) : OpSlot :=
  { tag := tag, typ := 1, cls := 0, object := 0, window := 0, lag := 0, slice := 1, epoch := 1, dstRank := 1, dstMod := 9, frags := [[]], sends := [1], lastSent := 0,
    nak := false, step := none, coll := none, husk := none }

/-- An acknowledgement and a NAK of an open operation and of none, at the last slot of N-die 1. -/
theorem witness_operations :
    (∀ n ∈ [none, some 0], let s0 := State.reset.setNDie 1 { NDie.blank with slots := [(8191, op0 16383)] }
      let s := s0.withFab { s0.fab with acks := [(16383, n), (0, n)] }
      (16383, n) ∈ s.fab.acks ∧ SMap.find? (s.ndie (bits 16383 13 13)).slots (bits 16383 12 0) = some (op0 16383)
      ∧ (0, n) ∈ s.fab.acks ∧ SMap.find? (s.ndie (bits 0 13 13)).slots (bits 0 12 0) = none)
    ∧ (let s := (State.reset.setNDie 1 { NDie.blank with slots := [(8191, op0 16383)] }).advance 100000
       SMap.find? (s.ndie 1).slots 8191 = some (op0 16383) ∧ (op0 16383).lastSent + 100000 ≤ s.clk.elapsed) := by decide +kernel

/-- A tick check at the skew limit, and one whose frame count differs. -/
theorem witness_tickCheck : ∀ n ∈ [0, 1], let b := zeros 0x10 ++ leBytes 8 n ++ zeros 56; let t : TickIn := { port := 0, data := b, accepted := [0, 0, 0, 0], back := [0, 0, 0, 0] }
    let s := State.reset.withFab { State.reset.fab with ticks := [t] }
    s.fab.ticks.find? (fun t => t.port == 0 && t.data == b) = some t ∧ absDiff (s.frame.skewLimit * 8) (field b 8 8 + (s.port 0).delay) * 5 ≤ s.frame.skewLimit * 40
    ∧ ((∀ v < 4, t.accepted.getD v 0 = field b (0x10 + 8 * v) 8 ∧ t.back.getD v 0 = field b (0x30 + 8 * v) 8
          ∧ (s.port 0).accepted.getD v 0 - (s.port 0).returned.getD v 0 ≤ vcGrant v) ↔ n = 0) := by decide +kernel

/-! ## Memory hardware, resets and power -/

theorem witness_MemoryHardware :
    (∀ l ∈ [{ rx := 0, tx := 1 }, ({ rx := 0x30, tx := 0x10 } : LinkId)], linkExists l = true ∧ (State.reset.link (linkKey l)).failed = false
      ∧ ((State.reset.setLink (linkKey l) { Link.blank with failRun := 8 }).link (linkKey l)).failRun = 8)
    ∧ (let d := SMap.get MDie.blank State.reset.mem.mdies 7
       d.corrQueue = [] ∧ SMap.get false State.reset.mem.bad (maOf 7 (d.scrubNext * 256) / 256) = false ∧ (d.scrubNext + 1) % (State.reset.memBytes / 2048) ≠ 0) := by
  decide +kernel

/-- A reset at a level and a stage. -/
def resetAt (level stage : Nat) (s : State) : State :=
  s.withSup { s.sup with reset := some { level := level, source := 0, targets := [], stage := stage, began := 0, opens := 0, merged := [], refLost := false, noKeep := [],
                                         esc := false } }

theorem witness_ResetEvents :
    ((State.reset.advance 5).sup.resetNLow = none ∧ (State.reset.advance 5).sup.pwrEn = true)
    ∧ (let s0 := resetAt 1 0 .reset; let s := s0.withSup { s0.sup with resetNLow := some 0 }
       s.sup.resetNLow = some 0 ∧ s.sup.reset.isSome = true ∧ (s.advanceTo 200000000).mapLevel fuResetLong < 1)
    ∧ (State.reset.withSup { State.reset.sup with askReset := some (1, 0) }).sup.askReset = some (1, 0)
    ∧ (∀ l ∈ [0, 1], ∀ k ∈ [0, 1, 2, 3, 4, 5, 6, 7, 8], let s := (resetAt l k .reset).advance 5
        s.sup.stopped = false ∧ s.sup.pwrEn = true ∧ s.sup.standby = true ∧ s.resetHeld = false ∧ s.clk.present = true
        ∧ (s.sup.reset.map (fun r => decide (r.level = l ∧ r.opens ≤ s.clk.elapsed ∧ (r.next.isSome = true ↔ k < 8)))) = some true)
    ∧ State.reset.sup.reset = none := by decide +kernel

theorem witness_HangsAndWatchdogs :
    (∀ p ∈ [(0, 0), (8, 4), (0x17, 0x17), (0x21, 0x21)], (running .reset).targetOf p.1 = (if p.1 = 8 then some 4 else some p.2) ∧ (running .reset).inReset p.2 = false
      ∧ (running .reset).swapping p.2 = false)
    ∧ (running .reset).commasFall = true
    ∧ (let s := onCore { Core.blank with entry := some run0 } .reset; (s.core 0).entry = some run0 ∧ run0.stopped = false ∧ (s.core 0).wait = none)
    ∧ (∀ old ∈ [[], [5]], (2 ≤ (twice 6 old).length) = (old = [5]))
    ∧ State.reset.sup.pwrEn = true ∧ State.reset.sup.stopped = false ∧ State.reset.sup.standby = true := by decide +kernel

def supply (input : Nat) (en up : Bool) : State := State.reset.withSup { State.reset.sup with input := input, pwrEn := en, standby := up }

theorem witness_PowerEvents :
    (∀ n ∈ [0, 1, 2], (supply n true true).sup.pwrEn = true ∧ (supply n true true).sup.input ≠ 3)
    ∧ (∀ n ∈ [0, 3], (supply n false true).sup.pwrEn = false ∧ (supply n false true).sup.standby = true ∧ ((supply n false true).sup.input < 3 ↔ n = 0))
    ∧ (∀ en ∈ [true, false], (supply 3 en false).sup.standby = false ∧ (supply 3 en false).sup.pwrEn = en ∧ (supply 3 en false).sup.reset = none)
    ∧ State.reset.sup.reverse = false := by decide +kernel

/-- A sample at the current limit and one above it, and requests that the safety partition grants and refuses, at the ends of their ranges. -/
def sample0 (ma : Nat) : PowerSample := { mv := 52000, ma := ma, watts := List.replicate 8 100, temps := List.replicate 20 1280, mems := List.replicate 8 1280 }
def asking (item value : Nat) : State :=
  State.reset.withSup { State.reset.sup with asks := [{ item := item, value := value, tenant := some 0 }] }

def nutEntry0 : NutEntry := { ref := 0, seq := 0, code := 0x1003, source := 0, flags := 0, tenant := 0, window := 0, step := 0, detail := [] }

theorem witness_GovernorAndSafety :
    (∀ ma ∈ [75000, 75001], (sample0 ma).watts.length = 8 ∧ (sample0 ma).temps.length = 20 ∧ (sample0 ma).mems.length = 8 ∧ ((sample0 ma).ma ≤ 75000 ↔ ma = 75000))
    ∧ State.reset.sup.ceiling ≤ State.reset.ceilingMax 52000
    ∧ (∀ v ∈ [1199, 1200, 3000, 3001], let s := (asking 0 v).withSup { (asking 0 v).sup with asks := [] }
        s.allows { item := 0, value := v, tenant := some 0 } = decide (1200 ≤ v ∧ v ≤ 3000))
    ∧ (State.reset.withNut { State.reset.nut with archiving := some nutEntry0 }).nut.archiving = some nutEntry0 := by decide +kernel

theorem witness_Sideband : State.reset.sup.standby = true ∧ (supply 0 false true).sup.pwrEn = false := by decide +kernel

/-! ## Every step -/

/-- A step that answers a next state, over a queue of two, from a state whose memory is in form and lists a cell. -/
theorem witness_steps : let s := (State.reset.writeMem 8 [1]).withPending [.smbusWrite 0, .bypass 1]
    s.memWf = true ∧ s.mem.cells ≠ [] ∧ (match Machine.step s with
      | .next t => t.pending == [.bypass 1] && t.memWf
      | _ => false) = true := by decide +kernel

end Sys2Proof.Tests
end

