-- ==== Sys2Proof/Tests/Slice0.lean ====
section
/-!
SUPPORT. Tests of the syntax: for every check of WellFormed a term that it refuses, and for every layout of 06_core_instruction_set a word written out
from its fields, place by place, that decodes to the instruction it stands for.
-/

namespace Sys2Proof.Tests

set_option Elab.async false

open Sys2Proof Sys2Proof.Machine

/-! ## Ill-formed terms, one for each check -/

def scalar0 : ScalarOp := { d := 0, a := 0, b := 0, imm := false, imm32 := 0 }
def vec0 : VecOp := { vd := 0, va := 0, vb := 0, vc := 0, mask := 0, sr := 0, lane := 0 }
def mat0 : MatOp := { a := 0, b := 0, c := 0, out := 0, mode := 0x11, ka := 0, kb := 0 }
def sig0 : SigOp := { reg := 0, imm := false, count := 1, handle := 0 }

/-- Address registers are a0 to a15 (R123). -/
theorem test_wf_addr : (Instr.adda 0 { scalar0 with d := 16 }).wellFormed = false ∧ (Instr.adda 0 { scalar0 with a := 16 }).wellFormed = false
    ∧ (Instr.adda 0 { scalar0 with b := 16 }).wellFormed = true ∧ (Instr.mova 0 { scalar0 with d := 16 }).wellFormed = false
    ∧ (Instr.movs 0 { scalar0 with a := 16 }).wellFormed = false ∧ (Instr.adda 0 { scalar0 with d := 15 }).wellFormed = true := by decide

/-- A loop body of length zero, the reserved conditions, a DSET of a reserved field, a selector above 7, an OVL and a SIG of count zero. -/
theorem test_wf_fields : (Instr.loopStart 0 { cnt := 0, imm := true, len := 0, count := 1 }).wellFormed = false
    ∧ (Instr.br 0 { a := 0, b := 0, cond := 6, off := 0 }).wellFormed = false ∧ (Instr.dset 0 0 8 0).wellFormed = false
    ∧ (Instr.info 0 0 8).wellFormed = false ∧ (Instr.ovl 0 { dst := 0, count := 0, src := 0 }).wellFormed = false
    ∧ (Instr.sig 0 { sig0 with count := 0 }).wellFormed = false := by decide

/-- MM: no pass, init 0b11, a reserved mode bit, C without init 0b10, an output without convert (R72, R131). -/
theorem test_wf_matrix : (Instr.mm 0 { mat0 with mode := 0x10 }).wellFormed = false ∧ (Instr.mm 0 { mat0 with mode := 0x31 }).wellFormed = false
    ∧ (Instr.mm 0 { mat0 with mode := 0x111 }).wellFormed = false ∧ (Instr.mm 0 { mat0 with c := 1 }).wellFormed = false
    ∧ (Instr.mm 0 { mat0 with out := 1 }).wellFormed = false ∧ (Instr.mm 0 mat0).wellFormed = true := by decide

/-- A compare names a mask, VSEL takes one, VRAND's stream is at least 1, VRED's y is zero unless product-sum, kernel codes run from 1 to 6. -/
theorem test_wf_vector : (Instr.vcmpeq 0 { vec0 with vd := 4 }).wellFormed = false ∧ (Instr.vcmplt 0 { vec0 with vd := 4 }).wellFormed = false
    ∧ (Instr.vcmple 0 { vec0 with vd := 4 }).wellFormed = false ∧ (Instr.vsel 0 { vec0 with vc := 4 }).wellFormed = false
    ∧ (Instr.vrand 0 { vd := 0, desc := 0, stream := 0, index := 0, draw := 0 }).wellFormed = false
    ∧ (Instr.vred 0 { vd := 0, x := 0, y := 1, kind := 0, a48 := false, len := 0, off := 0 }).wellFormed = false
    ∧ (Instr.vkern 0 { code := 0, x := 0, out := 0, aux := 0, span := 0, half := false, rows := 0, param := 0 }).wellFormed = false
    ∧ (Instr.vkern 0 { code := 7, x := 0, out := 0, aux := 0, span := 0, half := false, rows := 0, param := 0 }).wellFormed = false := by decide

/-- Handle immediates (R232 to R234): a scope above 3, a reserved bit, an index of its scope too high, a field of another scope. -/
theorem test_wf_handle : handleLayoutOk 0x40000000 = false ∧ handleLayoutOk 0x00000800 = false ∧ handleLayoutOk 64 = false
    ∧ handleLayoutOk 0x10000100 = false ∧ handleLayoutOk 0x10040000 = false ∧ handleLayoutOk 0x00040000 = false ∧ handleLayoutOk 63 = true
    ∧ handleLayoutOk 0x100000FF = true ∧ handleLayoutOk 0x200007FF = true := by decide

/-! ## Words written out from the layouts -/

/-- ADD s3 = s1 + s2, MIN s3 = min(s1, −1), ADDA a2 = a1 + s3 (*Scalar layout*). -/
theorem test_decode_scalar :
    decodeWord 5 (BitVec.ofNat 64 (0x0 * 2 ^ 60 + 0x01 * 2 ^ 52 + 3 * 2 ^ 47 + 1 * 2 ^ 42 + 2 * 2 ^ 37))
        = some (.add 5 { d := 3, a := 1, b := 2, imm := false, imm32 := 0 })
    ∧ decodeWord 5 (BitVec.ofNat 64 (0x0A * 2 ^ 52 + 3 * 2 ^ 47 + 1 * 2 ^ 42 + 1 * 2 ^ 36 + 0xFFFFFFFF))
        = some (.minOp 5 { d := 3, a := 1, b := 0, imm := true, imm32 := 0xFFFFFFFF })
    ∧ decodeWord 5 (BitVec.ofNat 64 (0x20 * 2 ^ 52 + 2 * 2 ^ 47 + 1 * 2 ^ 42 + 3 * 2 ^ 37))
        = some (.adda 5 { d := 2, a := 1, b := 3, imm := false, imm32 := 0 }) := by decide +kernel

/-- LOOP of 4 iterations over 9 instructions, BR GE s1 s2 by −2, CALL to 100, LIDX s4 of level 1 (*Loop and branch layout*). -/
theorem test_decode_loops :
    decodeWord 0 (BitVec.ofNat 64 (0x1 * 2 ^ 60 + 0x01 * 2 ^ 52 + 1 * 2 ^ 46 + 9 * 2 ^ 33 + 4))
        = some (.loopStart 0 { cnt := 0, imm := true, len := 9, count := 4 })
    ∧ decodeWord 0 (BitVec.ofNat 64 (0x1 * 2 ^ 60 + 0x03 * 2 ^ 52 + 1 * 2 ^ 47 + 2 * 2 ^ 42 + 3 * 2 ^ 39 + 0x3FFE))
        = some (.br 0 { a := 1, b := 2, cond := 3, off := 0x3FFE })
    ∧ decodeWord 0 (BitVec.ofNat 64 (0x1 * 2 ^ 60 + 0x05 * 2 ^ 52 + 100)) = some (.callSub 0 100)
    ∧ decodeWord 0 (BitVec.ofNat 64 (0x1 * 2 ^ 60 + 0x07 * 2 ^ 52 + 4 * 2 ^ 47 + 1 * 2 ^ 45)) = some (.lidx 0 4 1) := by decide +kernel

/-- LD t2 row a1 from t3 row a4 with a signal by s5, LDZERO t2, DSET t6 extent[1] from s7 (*Load-engine layout*). -/
theorem test_decode_load :
    decodeWord 1 (BitVec.ofNat 64 (0x2 * 2 ^ 60 + 0x01 * 2 ^ 52 + 2 * 2 ^ 46 + 3 * 2 ^ 40 + 1 * 2 ^ 36 + 4 * 2 ^ 32 + 5 * 2 ^ 27 + 1 * 2 ^ 26))
        = some (.ld 1 { dst := 2, src := 3, dstRow := 1, srcRow := 4, handle := 5, signal := true })
    ∧ decodeWord 1 (BitVec.ofNat 64 (0x2 * 2 ^ 60 + 0x03 * 2 ^ 52 + 2 * 2 ^ 46 + 1 * 2 ^ 36)) = some (.ldzero 1 { dst := 2, dstRow := 1, handle := 0, signal := false })
    ∧ decodeWord 1 (BitVec.ofNat 64 (0x2 * 2 ^ 60 + 0x04 * 2 ^ 52 + 6 * 2 ^ 46 + 4 * 2 ^ 42 + 7 * 2 ^ 37)) = some (.dset 1 6 4 7) := by decide +kernel

/-- The worked encoding of *Matrix class*. -/
theorem test_decode_matrix : decodeWord 0 0x3011060080051300#64 = some (.mm 0 { a := 4, b := 6, c := 0, out := 8, mode := 0x51, ka := 3, kb := 0 }) := by
  decide +kernel

/-- VFMA, VEXTR, VRAND, VST, TAPA, VRED and VKERN (*Vector layouts*). -/
theorem test_decode_vector :
    decodeWord 0 (BitVec.ofNat 64 (0x4 * 2 ^ 60 + 0x04 * 2 ^ 52 + 1 * 2 ^ 47 + 2 * 2 ^ 42 + 3 * 2 ^ 37 + 4 * 2 ^ 32 + 1 * 2 ^ 30))
        = some (.vfma 0 { vd := 1, va := 2, vb := 3, vc := 4, mask := 1, sr := 0, lane := 0 })
    ∧ decodeWord 0 (BitVec.ofNat 64 (0x4 * 2 ^ 60 + 0x15 * 2 ^ 52 + 2 * 2 ^ 42 + 9 * 2 ^ 25 + 127 * 2 ^ 18))
        = some (.vextr 0 { vd := 0, va := 2, vb := 0, vc := 0, mask := 0, sr := 9, lane := 127 })
    ∧ decodeWord 0 (BitVec.ofNat 64 (0x4 * 2 ^ 60 + 0x17 * 2 ^ 52 + 1 * 2 ^ 47 + 5 * 2 ^ 41 + 0x7F * 2 ^ 34 + 2 * 2 ^ 29 + 3 * 2 ^ 24))
        = some (.vrand 0 { vd := 1, desc := 5, stream := 0x7F, index := 2, draw := 3 })
    ∧ decodeWord 0 (BitVec.ofNat 64 (0x4 * 2 ^ 60 + 0x21 * 2 ^ 52 + 1 * 2 ^ 47 + 5 * 2 ^ 41 + 6 * 2 ^ 37 + 2 * 2 ^ 30))
        = some (.vst 0 { vd := 1, desc := 5, off := 6, mask := 2 })
    ∧ decodeWord 0 (BitVec.ofNat 64 (0x4 * 2 ^ 60 + 0x31 * 2 ^ 52 + 1 * 2 ^ 47 + 2 * 2 ^ 42 + 1 * 2 ^ 41 + 7 * 2 ^ 36))
        = some (.tapa 0 { vd := 1, vs := 2, half := true, row := 7, mask := 0 })
    ∧ decodeWord 0 (BitVec.ofNat 64 (0x4 * 2 ^ 60 + 0x40 * 2 ^ 52 + 1 * 2 ^ 47 + 5 * 2 ^ 41 + 6 * 2 ^ 35 + 1 * 2 ^ 33 + 1 * 2 ^ 32 + 3 * 2 ^ 27 + 2 * 2 ^ 23))
        = some (.vred 0 { vd := 1, x := 5, y := 6, kind := 1, a48 := true, len := 3, off := 2 })
    ∧ decodeWord 0 (BitVec.ofNat 64 (0x4 * 2 ^ 60 + 0x41 * 2 ^ 52 + 6 * 2 ^ 44 + 1 * 2 ^ 38 + 2 * 2 ^ 32 + 3 * 2 ^ 26 + 1 * 2 ^ 24 + 1 * 2 ^ 23 + 4 * 2 ^ 18 + 5 * 2 ^ 13))
        = some (.vkern 0 { code := 6, x := 1, out := 2, aux := 3, span := 1, half := true, rows := 4, param := 5 }) := by decide +kernel

/-- SIG of a die object by immediate, WAIT asleep for 50 µs (*Sync layouts*); INFO, OVL (*Clause control layouts*); FE_RD, MARK, RAISE (*Event layouts*). -/
theorem test_decode_control :
    decodeWord 0 (BitVec.ofNat 64 (0x5 * 2 ^ 60 + 0x01 * 2 ^ 52 + 1 * 2 ^ 46 + 255 * 2 ^ 38 + 0x20000007))
        = some (.sig 0 { reg := 0, imm := true, count := 255, handle := 0x20000007 })
    ∧ decodeWord 0 (BitVec.ofNat 64 (0x5 * 2 ^ 60 + 0x02 * 2 ^ 52 + 1 * 2 ^ 47 + 2 * 2 ^ 42 + 1 * 2 ^ 41 + 50 * 2 ^ 16))
        = some (.wait 0 { reg := 1, target := 2, sleep := true, timeout := 50 })
    ∧ decodeWord 0 (BitVec.ofNat 64 (0x6 * 2 ^ 60 + 0x01 * 2 ^ 52)) = some (.endEntry 0)
    ∧ decodeWord 0 (BitVec.ofNat 64 (0x6 * 2 ^ 60 + 0x03 * 2 ^ 52 + 4 * 2 ^ 47 + 7 * 2 ^ 43)) = some (.info 0 4 7)
    ∧ decodeWord 0 (BitVec.ofNat 64 (0x6 * 2 ^ 60 + 0x04 * 2 ^ 52 + 10 * 2 ^ 39 + 20 * 2 ^ 26 + 30 * 2 ^ 8)) = some (.ovl 0 { dst := 10, count := 20, src := 30 })
    ∧ decodeWord 0 (BitVec.ofNat 64 (0x7 * 2 ^ 60 + 0x04 * 2 ^ 52 + 4 * 2 ^ 47 + 7 * 2 ^ 44)) = some (.feRd 0 4 7)
    ∧ decodeWord 0 (BitVec.ofNat 64 (0x7 * 2 ^ 60 + 0x05 * 2 ^ 52 + 4 * 2 ^ 47 + 0xABCD)) = some (.mark 0 4 0xABCD)
    ∧ decodeWord 0 (BitVec.ofNat 64 (0x7 * 2 ^ 60 + 0x06 * 2 ^ 52 + 0xABCD)) = some (.raise 0 0xABCD) := by decide +kernel

/-- What PROGRAM_LOAD rejects does not decode (R121): a reserved class, an operation not listed, a nonzero reserved bit, and an ill-formed field. -/
theorem test_decode_rejects : decodeWord 0 (BitVec.ofNat 64 (0x8 * 2 ^ 60)) = none ∧ decodeWord 0 (BitVec.ofNat 64 (0x10 * 2 ^ 52)) = none
    ∧ decodeWord 0 (BitVec.ofNat 64 (0x01 * 2 ^ 52 + 1 * 2 ^ 32)) = none ∧ decodeWord 0 (BitVec.ofNat 64 (0x6 * 2 ^ 60 + 0x01 * 2 ^ 52 + 1)) = none
    ∧ decodeWord 0 (BitVec.ofNat 64 (0x20 * 2 ^ 52 + 16 * 2 ^ 47)) = none := by decide +kernel


end Sys2Proof.Tests
end

section
/-!
PROOFS. The module right after a power-on reset: what its cores, sync objects, memory and die map read as.
-/

namespace Sys2Proof.Machine

/-! Reads of a core that no entry has touched: the sparse register maps are empty, so every register reads zero (log entry 64). -/

@[simp] theorem Core.blank_s (r : BitVec 5) : Core.blank.s r = 0 := ite_self 0

@[simp] theorem Core.blank_a (r : BitVec 4) : Core.blank.a r = 0 := ite_self 0

@[simp] theorem Core.blank_lane (r : BitVec 5) (l : Nat) : Core.blank.lane r l = 0 := rfl

/-! The state after reset lists no core and no sync object, so each reads as its blank (R87, R231). -/

@[simp] theorem State.reset_core (c : Nat) : State.reset.core c = Core.blank := rfl
@[simp] theorem State.reset_obj (key : Nat) : State.reset.obj key = SyncObj.blank := rfl

theorem State.reset_memWf : State.reset.memWf = true := Memory.wf_nil

/-- The fuse default of *Default logical die map (spare C4)* names eight different physical C-dies (R13). -/
theorem State.reset_dieMapLegal : State.reset.dieMapLegal = true := by decide

/-- The status word of every core after reset is CAPTURE_MASK 0x63 in bits 22:16 and nothing else (R87), with nothing to run and every register at zero. -/
theorem State.reset_core_idle (c : Nat) :
    (State.reset.core c).status = 0x00630000 ∧ (State.reset.core c).entry = none ∧ (State.reset.core c).prog = none ∧ (State.reset.core c).exc = none
    ∧ (∀ r, (State.reset.core c).s r = 0) ∧ (∀ r, (State.reset.core c).a r = 0) ∧ (∀ r l, (State.reset.core c).lane r l = 0) := by
  rw [State.reset_core]
  exact ⟨rfl, rfl, rfl, rfl, Core.blank_s, Core.blank_a, Core.blank_lane⟩

/-- Every sync object after reset has value 0 and is not poisoned (R231). -/
theorem State.reset_obj_zero (key : Nat) : (State.reset.obj key).value = 0 ∧ (State.reset.obj key).poisoned = false := by
  rw [State.reset_obj]
  exact ⟨rfl, rfl⟩

/-- Settles O60: the cores, the sync objects, the memory and the die map by the lemmas above, and each other field by its value in `State.reset`. -/
theorem resetState : Obligations.ResetState :=
  ⟨rfl, State.reset_memWf, rfl, State.reset_dieMapLegal, rfl, State.reset_core_idle, State.reset_obj_zero, rfl, rfl, rfl, rfl⟩

end Sys2Proof.Machine
end

section
/-!
PROOFS. What the shared operations leave: the clock, the run and the fabric after a nutshell entry, an alert or a report, and the frame after a response.
-/

namespace Sys2Proof.Machine

/-! A nutshell entry, an alert and a report touch the nutshell, the alert causes and the trace only. -/

@[simp] theorem State.log_clk (s : State) (n : Note) : (s.log n).clk = s.clk := rfl
@[simp] theorem State.log_run (s : State) (n : Note) : (s.log n).run = s.run := rfl

@[simp] theorem State.alert_clk (s : State) (c : Nat) : (s.alert c).clk = s.clk := by
  unfold State.alert
  split <;> rfl

@[simp] theorem State.alert_run (s : State) (c : Nat) : (s.alert c).run = s.run := by
  unfold State.alert
  split <;> rfl

@[simp] theorem State.alert_fab (s : State) (c : Nat) : (s.alert c).fab = s.fab := by
  unfold State.alert
  split <;> rfl

@[simp] theorem State.report_clk (s : State) (st c : Nat) (d : Bytes) : (s.report st c d).clk = s.clk := rfl
@[simp] theorem State.report_run (s : State) (st c : Nat) (d : Bytes) : (s.report st c d).run = s.run := rfl

/-! A response leaves the frame: it ends the tenant's turn, may log the first rejection, and sends frames of the host transport. -/

@[simp] theorem State.flushFrames_frame (n : Nat) (s : State) (id : Nat) : (State.flushFrames n s id).frame = s.frame := by
  induction n generalizing s with
  | zero => rfl
  | succ n ih =>
    unfold State.flushFrames
    split
    · rfl
    · split
      · rfl
      · split
        · rfl
        · rw [ih]
          rfl

@[simp] theorem State.sendFrames_frame (s : State) (id : Nat) (fs : List TxFrame) : (s.sendFrames id fs).frame = s.frame := by
  unfold State.sendFrames
  split
  · rfl
  · exact State.flushFrames_frame _ _ _

@[simp] theorem State.respond_frame (s : State) (t : Nat) (r : Reply) : (s.respond t r).frame = s.frame := by
  unfold State.respond
  split
  · rfl
  · simp only [State.sendFrames_frame]
    split <;> rfl

/-! A host command at its turn whose body answers. -/

theorem hostCmd_answers {op t : Nat} {p : Bytes} {s s' : State} {r : Reply} {body : State → State × Option Reply} (h : s.ready op t p)
    (hb : body s = (s', some r)) : hostCmd op t p body s = .next (s'.respond t r) := by
  rw [hostCmd_ready h, hb]

end Sys2Proof.Machine
end

section
/-!
PROOFS. Frame commands (02_clause_frame R26, R29, R46; 16_vuhal_command_reference R397): what FRAME_SET and SCHEDULE_LOAD answer, outside a run and in one.
-/

namespace Sys2Proof.Machine

/-! Fields of a payload: their bound, and what they read as where the bytes are zero. -/

theorem leNat_lt (b : Bytes) : leNat b < 256 ^ b.length := by
  induction b with
  | nil => decide
  | cons x b ih =>
    have hx : x.toNat < 256 := x.isLt
    simp only [leNat, List.length_cons, pow_succ]
    omega

theorem field_lt (p : Bytes) (off len : Nat) : field p off len < 256 ^ len :=
  (leNat_lt _).trans_le (Nat.pow_le_pow_right (by decide) (List.length_take_le _ _))

theorem leNat_zeros (n : Nat) : leNat (zeros n) = 0 := by
  induction n with
  | zero => rfl
  | succ n ih => simpa [zeros, List.replicate_succ, leNat] using ih

/-- A stretch that begins in the zeros a payload ends with holds zeros. -/
theorem slice_of_drop_zeros {p : Bytes} {a n : Nat} (h : p.drop a = zeros n) (k len : Nat) : slice p (a + k) len = zeros (min len (n - k)) := by
  rw [slice, ← List.drop_drop, h, zeros, List.drop_replicate, List.take_replicate, zeros]

theorem field_of_drop_zeros {p : Bytes} {a n : Nat} (h : p.drop a = zeros n) (k len : Nat) : field p (a + k) len = 0 := by
  rw [field, slice_of_drop_zeros h, leNat_zeros]

theorem allZero_of_drop_zeros {p : Bytes} {a n : Nat} (h : p.drop a = zeros n) (k len : Nat) : allZero p (a + k) len = true := by
  rw [allZero, slice_of_drop_zeros h, zeros, List.all_replicate]
  split <;> rfl

/-! The checks on an effective period: none outside a run, and one still to come in a run (R383). -/

theorem State.passed_outside {s : State} (h : s.inRun = false) (eff : Nat) : (s.passed eff).1 = false := by simp [State.passed, h]

theorem State.passed_of_mayStage {α : Type} {s : State} {m : SMap α} {eff : Nat} (h : s.mayStage m eff) : (s.passed eff).1 = false := by
  obtain ⟨-, hlate, -⟩ := h
  have hnot : ¬ (0 < eff ∧ eff ≤ s.run.period) := by omega
  simp [State.passed, hnot]

theorem State.mayStage_names {α : Type} {s : State} {m : SMap α} {eff : Nat} (h : s.mayStage m eff) : s.inRun = !decide (eff = 0) := by
  obtain ⟨hrun, hlate, -⟩ := h
  have hne : eff ≠ 0 := by omega
  simp [hrun, hne]

/-! FRAME_SET. -/

/-- The fields of FRAME_SET apart from its effective period are in their ranges (R26, R397). -/
def frameFieldsOk (p : Bytes) : Prop :=
  1000 ≤ field p 0 4 ∧ field p 0 4 ≤ 50000 ∧ 1 ≤ field p 4 2 ∧ allZero p 6 2 = true
    ∧ (field p 8 4 = 0 ∨ 40 ≤ field p 8 4 ∧ field p 8 4 ≤ 10000) ∧ allZero p 0xC 4 = true

/-- The frame that FRAME_SET puts in force at once. -/
def frameNow (f : Frame) (expert : Bool) (p : Bytes) : Frame :=
  { f with interval := field p 0 4, configured := field p 0 4, period := field p 4 2,
           skewLimit := if field p 8 4 = 0 then f.skewLimit else field p 8 4, expert := expert, loaded := true, quietSeals := 0 }

/-- The frame with FRAME_SET staged for its effective period. -/
def frameStaged (f : Frame) (expert : Bool) (p : Bytes) : Frame :=
  { f with staged := SMap.insert f.staged (field p 0x10 8) (field p 0 4, field p 4 2, field p 8 4, expert) }

/-- FRAME_SET whose checks all pass takes effect at once outside a run and is staged in one. -/
theorem frameSet_of_ok {expert : Bool} {p : Bytes} {s : State} (hf : frameFieldsOk p) (hp : (s.passed (field p 0x10 8)).1 = false)
    (he : s.inRun = !decide (field p 0x10 8 = 0)) (hs : (stageFull s.frame.staged (field p 0x10 8)).1 = false) :
    frameSet expert p s
      = (s.withFrame (if s.inRun then frameStaged s.frame expert p else frameNow s.frame expert p), some okReply) := by
  obtain ⟨hlo, hhi, hper, hr6, hskew, hrC⟩ := hf
  have hchecks : ∀ e ∈ [ s.passed (field p 0x10 8), wrong (!decide (1000 ≤ field p 0 4 ∧ field p 0 4 ≤ 50000)) 0, wrong (field p 4 2 == 0) 4,
      reserved p 6 2, wrong (field p 8 4 != 0 && !decide (40 ≤ field p 8 4 ∧ field p 8 4 ≤ 10000)) 8, reserved p 0xC 4,
      s.effField (field p 0x10 8) 0x10, stageFull s.frame.staged (field p 0x10 8) ], e.1 = false := by
    have hskew' : ¬ field p 8 4 = 0 → 40 ≤ field p 8 4 ∧ field p 8 4 ≤ 10000 := by omega
    have hper' : ¬ field p 4 2 = 0 := by omega
    simpa [wrong, reserved, State.effField, hp, hs, hr6, hrC, he, hlo, hhi, hper'] using hskew'
  rw [frameSet, checked_none hchecks]
  cases h : s.inRun <;> rfl

/-- A value of I outside its range, or a P of 0, is the first fault of FRAME_SET, at offset 0 or 4 (R26). -/
theorem frameSet_badField {expert : Bool} {p : Bytes} {s : State} (hp : (s.passed (field p 0x10 8)).1 = false)
    (hbad : field p 0 4 < 1000 ∨ 50000 < field p 0 4 ∨ field p 4 2 = 0) : ∃ off, frameSet expert p s = (s, some (badField off)) := by
  by_cases hi : 1000 ≤ field p 0 4 ∧ field p 0 4 ≤ 50000
  · have hper : field p 4 2 = 0 := by omega
    exact ⟨4, by simp [frameSet, checked, firstFail, wrong, hp, hi, hper]⟩
  · exact ⟨0, by simp [frameSet, checked, firstFail, wrong, hp, hi]⟩

/-- Either form of FRAME_SET at its turn answers what its body gives. -/
theorem exec_frameSet {t : Nat} {p : Bytes} {s s' : State} {r : Reply} {expert : Bool} (h : s.ready (if expert then 0x8601 else 0x0601) t p)
    (hb : frameSet expert p s = (s', some r)) : exec (if expert then .frameSetExpert t p else .frameSet t p) s = .next (s'.respond t r) := by
  cases expert with
  | false => exact hostCmd_answers h hb
  | true => exact hostCmd_answers h hb

/-- Outside a run FRAME_SET takes effect at once. -/
theorem exec_frameSet_outside {t : Nat} {p : Bytes} {s : State} {expert : Bool} (h : s.ready (if expert then 0x8601 else 0x0601) t p)
    (hf : frameFieldsOk p) (ho : s.inRun = false) (he : field p 0x10 8 = 0) (hs : (stageFull s.frame.staged 0).1 = false) :
    exec (if expert then .frameSetExpert t p else .frameSet t p) s = .next ((s.withFrame (frameNow s.frame expert p)).respond t okReply) := by
  have hb := frameSet_of_ok (expert := expert) hf (s := s) (State.passed_outside ho _) (by simp [ho, he]) (by rw [he]; exact hs)
  rw [ho] at hb
  exact exec_frameSet h hb

/-- In a run FRAME_SET is staged for its effective period. -/
theorem exec_frameSet_inRun {t : Nat} {p : Bytes} {s : State} {expert : Bool} (h : s.ready (if expert then 0x8601 else 0x0601) t p)
    (hf : frameFieldsOk p) (hm : s.mayStage s.frame.staged (field p 0x10 8)) :
    exec (if expert then .frameSetExpert t p else .frameSet t p) s = .next ((s.withFrame (frameStaged s.frame expert p)).respond t okReply) := by
  have ⟨hrun, _, hroom⟩ := hm
  have hb := frameSet_of_ok (expert := expert) hf (State.passed_of_mayStage hm) (State.mayStage_names hm) hroom
  rw [hrun] at hb
  exact exec_frameSet h hb

/-! SCHEDULE_LOAD. -/

/-- The bytes that a table's header asks for (*Schedule table*). -/
def tableNeed (h : Bytes) : Nat := 0x20 + 16 * min (field h 8 4) 16384

/-- SCHEDULE_LOAD of a table without fault, read under P at its period, puts it in force or stages it. -/
theorem exec_scheduleLoad {t : Nat} {p b : Bytes} {s : State} (h : s.ready 0x0602 t p) (hp : (s.passed (field p 8 8)).1 = false)
    (hr : allZero p 2 6 = true) (he : s.inRun = !decide (field p 8 8 = 0)) (hb : s.holdsAt t (field p 0 2) 0 0x20 tableNeed b)
    (hfault : firstFault (tableFaults b (s.periodAt (field p 8 8))
      ++ ((s.withTable (field p 8 8) (tableOf b)).2.tableRefs (tableOf b)).map badFieldAt) = none)
    (hrun : (s.withTable (field p 8 8) (tableOf b)).2.runChecks (tableOf b) = true)
    (hs : s.inRun = true → (stageFull s.frame.stagedTables (field p 8 8)).1 = false) :
    exec (.scheduleLoad t p) s = .next ((s.withTable (field p 8 8) (tableOf b)).1.respond t okReply) := by
  have hchecks : ∀ e ∈ [s.passed (field p 8 8), reserved p 2 6, s.effField (field p 8 8) 8], e.1 = false := by
    simp [reserved, State.effField, wrong, hp, hr, he]
  have hroom : firstFail [if s.inRun then stageFull s.frame.stagedTables (field p 8 8) else (false, noResource)] = none := by
    refine firstFail_none ?_
    cases hi : s.inRun with
    | false => simp
    | true => simpa using hs hi
  change execScheduleLoad t p s = _
  unfold execScheduleLoad
  refine hostCmd_answers h ?_
  refine (checked_none hchecks).trans ((withSource_of_holdsAt hb _).trans ?_)
  simp only [hfault, hrun, hroom]
  rfl

/-- FRAME_STATUS answers its record (R46). -/
theorem exec_frameStatus {t : Nat} {p : Bytes} {s : State} (h : s.ready 0x0603 t p) :
    exec (.frameStatus t p) s = .next (s.respond t (okWith s.frameStatus)) :=
  readCmd_ready h (fun st => okWith st.frameStatus)

/-- Settles O6: FRAME_SET and SCHEDULE_LOAD pass their checks in both cases, and being in a run decides between the effect and its staging. -/
theorem frameCommands : Obligations.FrameCommands := by
  refine ⟨?setNow, ?setStaged, ?tableNow, ?tableStaged, fun t p s h => exec_frameStatus h⟩
  case setNow =>
    rintro t i per skew p s expert h rfl rfl rfl hlo hhi hper hr6 hskew hrC ho he hs
    exact exec_frameSet_outside h ⟨hlo, hhi, hper, hr6, hskew, hrC⟩ ho he hs
  case setStaged =>
    rintro t i per skew eff p s expert h rfl rfl rfl hlo hhi hper hr6 hskew hrC rfl hm
    exact exec_frameSet_inRun h ⟨hlo, hhi, hper, hr6, hskew, hrC⟩ hm
  case tableNow =>
    intro t p b s h ho hr he hb hfault hrun
    have ho' : s.inRun = false := ho
    have ht : s.withTable (field p 8 8) (tableOf b) = (s.loadTable (tableOf b), s.loadTable (tableOf b)) := by simp [State.withTable, ho']
    have hp : s.periodAt (field p 8 8) = s.frame.period := by simp [State.periodAt, ho']
    have hx := exec_scheduleLoad h (State.passed_outside ho _) hr (by simp [ho', he]) hb (by rw [hp, ht]; exact hfault)
      (by rw [ht]; exact hrun) (by simp [ho'])
    rwa [ht] at hx
  case tableStaged =>
    rintro t eff p b s h hr rfl hm hb hfault hrun
    have ⟨hrun', _, hroom⟩ := hm
    have ht : s.withTable (field p 8 8) (tableOf b)
        = (s.stageTable (field p 8 8) (tableOf b), (s.stageTable (field p 8 8) (tableOf b)).viewAt (field p 8 8)) := by
      simp [State.withTable, hrun']
    have hx := exec_scheduleLoad h (State.passed_of_mayStage hm) hr (State.mayStage_names hm) hb (by rw [ht]; exact hfault)
      (by rw [ht]; exact hrun) (fun _ => hroom)
    rwa [ht] at hx

/-- Settles O55: a payload that is zero from offset 6 on leaves the skew limit and names no effective period, so the clause for the ranges is the one of
FRAME_SET outside a run. -/
theorem frameRanges : Obligations.FrameRanges := by
  refine ⟨⟨rfl, rfl⟩, ?rejects, ?sets, fun p => Nat.le_of_lt_succ (field_lt p 4 2)⟩
  case rejects =>
    intro t p s expert h hp hbad
    obtain ⟨off, hb⟩ := frameSet_badField (expert := expert) hp hbad
    exact ⟨off, exec_frameSet h hb, State.respond_frame _ _ _⟩
  case sets =>
    intro t p s expert h ho hlo hhi hper hz hs
    have hf : frameFieldsOk p :=
      ⟨hlo, hhi, hper, allZero_of_drop_zeros hz 0 2, .inl (field_of_drop_zeros hz 2 4), allZero_of_drop_zeros hz 6 4⟩
    refine ⟨_, exec_frameSet_outside h hf ho (field_of_drop_zeros hz 10 8) hs, ?_, ?_⟩ <;> rw [State.respond_frame] <;> rfl

end Sys2Proof.Machine
end

section
/-!
PROOFS. The tick unit and commas (02_clause_frame R24, R25, R27, R31; 12_step_sealing_and_replay R297; 13_mirror_spares_recovery R324): one equation for
each case of each event.
-/

namespace Sys2Proof.Machine

/-! Markers (R24). -/

/-- A consistent marker stands within 2 cycles of its instant. -/
theorem nearInstant_of_markerOk {at' instant epoch : Nat} {w : Word} (h : markerOk at' w instant epoch = true) : nearInstant at' instant = true := by
  simp only [markerOk, Bool.and_eq_true] at h
  obtain ⟨⟨⟨hnear, -⟩, -⟩, -⟩ := h
  exact hnear

/-- A slip changes the clock's slip counts alone, whether or not it is the one that asserts ALERT_N. -/
theorem State.slip_clk (s : State) :
    s.slip.clk = { s.clk with slips := sat32 (s.clk.slips + 1), slipRun := s.clk.slipRun + 1,
                              slipLogged := s.clk.slipLogged || s.clk.slipRun + 1 == 3 } := by
  unfold State.slip
  simp only
  split
  · rw [State.alert_clk]
    rfl
  · rfl

/-- Outside a run the second consistent marker in a row sets the count from its epoch number. -/
theorem execTickEpochMarker_adopts {at' t e : Nat} {w : Word} {s0 : State} (hp : s0.clk.present = true) (ho : (s0.advance at').inRun = false)
    (hl : (s0.advance at').clk.lastMarker = some (t, e)) (hok : markerOk at' w (t + epochCycles) (e + 1) = true)
    (hc : 1 ≤ (s0.advance at').clk.consistent) :
    execTickEpochMarker at' w s0 = .next ((s0.advance at').withClk { (s0.advance at').clk with
      ref := markerEpoch w * epochCycles, adopted := true, lastMarker := some (markerEpoch w * epochCycles, markerEpoch w),
      consistent := (s0.advance at').clk.consistent + 1 }) := by
  simp [execTickEpochMarker, hp, ho, hl, hok, hc]

/-- In a run a consistent marker ends the run of slips, and the next is expected one epoch on. -/
theorem execTickEpochMarker_consistent {at' : Nat} {w : Word} {s0 : State} (hp : s0.clk.present = true) (hr : (s0.advance at').inRun = true)
    (hok : markerOk at' w (s0.advance at').clk.expect ((s0.advance at').clk.expect / epochCycles) = true) :
    execTickEpochMarker at' w s0 = .next ((s0.advance at').withClk { (s0.advance at').clk with
      lastMarker := some (at', markerEpoch w), consistent := (s0.advance at').clk.consistent + 1,
      expect := (s0.advance at').clk.expect + epochCycles, slipRun := 0, slipLogged := false }) := by
  simp [execTickEpochMarker, hp, hr, hok, nearInstant_of_markerOk hok, State.withClk]

/-- In a run an inconsistent marker is a slip. -/
theorem execTickEpochMarker_slips {at' : Nat} {w : Word} {s0 : State} (hp : s0.clk.present = true) (hr : (s0.advance at').inRun = true)
    (hok : markerOk at' w (s0.advance at').clk.expect ((s0.advance at').clk.expect / epochCycles) = false) :
    execTickEpochMarker at' w s0 = .next ((s0.advance at').withClk { (s0.advance at').clk with
      lastMarker := some (at', markerEpoch w), consistent := 0,
      expect := if nearInstant at' (s0.advance at').clk.expect then (s0.advance at').clk.expect + epochCycles
        else (s0.advance at').clk.expect }).slip := by
  simp [execTickEpochMarker, hp, hr, hok]

/-- In a run a missing marker is a slip, and the next is expected one epoch on. -/
theorem execMarkerMissing_inRun {s : State} (hp : s.clk.present = true) (hr : s.inRun = true) :
    execMarkerMissing s = .next ((s.advance (s.clk.expect + 3)).withClk
      { (s.advance (s.clk.expect + 3)).clk with expect := s.clk.expect + epochCycles }).slip := by
  simp [execMarkerMissing, hp, hr]

/-- Outside a run a missing marker ends the row of consistent markers. -/
theorem execMarkerMissing_outside {s : State} {t e : Nat} (hp : s.clk.present = true) (ho : s.inRun = false) (hl : s.clk.lastMarker = some (t, e)) :
    execMarkerMissing s = .next ((s.advance (t + epochCycles + 3)).withClk { (s.advance (t + epochCycles + 3)).clk with consistent := 0 }) := by
  simp [execMarkerMissing, hp, ho, hl]

/-- Advancing the count leaves the slips. -/
theorem State.advance_slips (s : State) (t : Nat) : (s.advance t).clk.slips = s.clk.slips := by
  unfold State.advance
  split <;> rfl

/-! REFCLK (R25). -/

/-- The loss of REFCLK stops the commas, is logged and reported. -/
theorem execRefclkLost_present {s : State} (hp : s.clk.present = true) :
    execRefclkLost s = .next ((((s.withClk { s.clk with present := false, stopped := true, oscPeriods := 0 }).log { code := 0x5006, alert := true }).alert
      1).report 0x0601 0x5006 []) := by
  simp [execRefclkLost, hp]

theorem execRefclkReturned_absent {s : State} (hp : s.clk.present = false) :
    execRefclkReturned s = .next (s.withClk { s.clk with present := true }) := by
  simp [execRefclkReturned, hp]

theorem execOscillatorPeriod_stopped {s : State} (hs : s.clk.stopped = true) (hr : s.inRun = true) :
    execOscillatorPeriod s = .next (s.withClk { s.clk with oscPeriods := s.clk.oscPeriods + 1 }).missPeriod := by
  simp [execOscillatorPeriod, hs, hr]

/-! Commas (R27, R31, R35). -/

/-- A comma inside a window of a run that is not stalled closes its clause and opens the next. -/
theorem execComma_inside {s : State} {t : Nat} (hn : s.run.nextComma = some t) (ht : s.ticking = true) (hk : s.run.kind ≠ .none)
    (hc : s.run.clause + 1 < s.periodLength) (hst : (s.advance t).closeClause.run.stalled = false) :
    execComma s = .next (((s.advance t).closeClause.withRun { (s.advance t).closeClause.run with
      comma := (s.advance t).closeClause.run.comma + 1,
      nextComma := some (t + (s.advance t).closeClause.frame.interval * 100) }).openClause ((s.advance t).run.clause + 1) t) := by
  have hin : ¬ (s.ticking = false ∨ s.run.kind = .none ∨ s.periodLength ≤ s.run.clause + 1) := by
    rintro (h | h | h)
    · simp [ht] at h
    · exact hk h
    · omega
  simp [execComma, hn, hin, hst]

/-- Comma 0 of a run. -/
theorem execPeriod_first {s : State} {t : Nat} (hn : s.run.nextComma = some t) (ht : s.ticking = true) (hk : (s.advance t).run.kind = .none) :
    execPeriod s
      = .next (((s.advance t).withRun { (s.advance t).run with comma := 0, period := 0, startRef := t, periodRef := t }).turnPeriod none t) := by
  simp [execPeriod, hn, ht, hk]

/-- The state at a comma that ends a window, before the combined record is looked at: the last clause has closed, and the period is counted. -/
def State.windowClosed (u : State) (t : Nat) : State :=
  let v := u.closeClause.missLag0.closeLate
  v.withRun { v.run with comma := v.run.comma + 1, period := v.run.period + 1, periodRef := t }

/-- Counting the period leaves the combined record and the stall. -/
theorem State.windowClosed_record (u : State) (t : Nat) :
    (u.windowClosed t).run.record = u.closeClause.missLag0.closeLate.run.record
      ∧ (u.windowClosed t).run.stalled = u.closeClause.missLag0.closeLate.run.stalled := by
  simp [State.windowClosed]

section

variable {s : State} {t : Nat} (hn : s.run.nextComma = some t) (ht : s.ticking = true) (hk : (s.advance t).run.kind ≠ .none)
  (hc : (s.advance t).periodLength ≤ (s.advance t).run.clause + 1) (hst : (s.advance t).run.stalled = false)

include hn ht hk hc hst

/-- At a comma that ends a window of a run that is not stalled, the combined record is applied where it has come. -/
theorem execPeriod_applies {b : Bytes} (hrec : ((s.advance t).windowClosed t).run.record = some b)
    (hgo : ((s.advance t).windowClosed t).run.stalled = false) : execPeriod s = .next (((s.advance t).windowClosed t).turnPeriod (some b) t) := by
  have hlast : ¬ (s.advance t).run.clause + 1 < (s.advance t).periodLength := by omega
  simp only [State.windowClosed_record] at hrec hgo
  simp [execPeriod, hn, ht, hk, hlast, hst, hrec, hgo, State.windowClosed]

/-- And where it has not come, the run stalls. -/
theorem execPeriod_stalls (hrec : ((s.advance t).windowClosed t).run.record = none) : execPeriod s = .next (((s.advance t).windowClosed t).stall t) := by
  have hlast : ¬ (s.advance t).run.clause + 1 < (s.advance t).periodLength := by omega
  simp only [State.windowClosed_record] at hrec
  simp [execPeriod, hn, ht, hk, hlast, hst, hrec, State.windowClosed]

end

/-- Settles O21: each clause is the equation of its event in its case, read at the fields that the clause names. -/
theorem tickUnitAndCommas : Obligations.TickUnitAndCommas := by
  refine ⟨⟨?adopts, ?consistent, ?slips, ?missing, ?missingOutside, ?lost, fun s => execRefclkReturned_absent,
    fun s => execOscillatorPeriod_stopped⟩, ?comma, ?first, ?record, ?noRecord⟩
  case adopts =>
    rintro at' t e w s0 s hp rfl ho hl hok hc
    exact ⟨_, execTickEpochMarker_adopts hp ho hl hok hc, rfl, rfl, rfl⟩
  case consistent =>
    rintro at' w s0 s hp rfl hr hok
    exact ⟨_, execTickEpochMarker_consistent hp hr hok, rfl, rfl, rfl⟩
  case slips =>
    rintro at' w s0 s hp rfl hr hok
    refine ⟨_, execTickEpochMarker_slips hp hr hok, ?_, ?_, ?_⟩ <;> rw [State.slip_clk] <;> rfl
  case missing =>
    intro s hp hr
    refine ⟨_, execMarkerMissing_inRun hp hr, ?_, ?_⟩ <;> rw [State.slip_clk]
    · simp [State.advance_slips]
    · rfl
  case missingOutside =>
    intro s t e hp ho hl
    exact ⟨_, execMarkerMissing_outside hp ho hl, rfl⟩
  case lost =>
    intro s hp
    exact ⟨_, execRefclkLost_present hp, by simp⟩
  case comma =>
    rintro s s1 t hn ht hk hc rfl hst
    exact execComma_inside hn ht hk hc hst
  case first =>
    rintro s u t hn ht rfl hk
    exact execPeriod_first hn ht hk
  case record =>
    rintro s u u1 u2 t b hn ht rfl hk hc hst rfl rfl hrec hst2
    exact execPeriod_applies hn ht hk hc hst hrec hst2
  case noRecord =>
    rintro s u u1 u2 t hn ht rfl hk hc hst rfl rfl hrec
    exact execPeriod_stalls hn ht hk hc hst hrec

end Sys2Proof.Machine
end

section
/-!
PROOFS. End-to-end operations and tick checks (02_clause_frame R43; 11_fabric_and_collectives R261 to R264): one equation for each case of each event, and
what sending leaves of a port.
-/

namespace Sys2Proof.Machine

/-! Acknowledgements and resends (R262, R263). -/

section

variable {tag : Nat} {nak : Option Nat} {s : State}

/-- The state with an acknowledgement that has been delivered taken. -/
def State.ackTaken (s : State) (tag : Nat) (nak : Option Nat) : State := s.withFab { s.fab with acks := s.fab.acks.erase (tag, nak) }

/-- The operation that a tag names: the one in its slot of its N-die. -/
def State.opAt (s : State) (tag : Nat) : Option OpSlot := SMap.find? (s.ndie (bits tag 13 13)).slots (bits tag 12 0)

/-- An acknowledgement of an open operation completes it. -/
theorem execE2eAck_completes {o : OpSlot} (ha : (tag, none) ∈ s.fab.acks) (ho : (s.ackTaken tag none).opAt tag = some o) (ht : o.tag = tag) :
    execE2eAck tag none s = .next ((s.ackTaken tag none).finishOp (bits tag 13 13) (bits tag 12 0)) := by
  unfold State.opAt State.ackTaken at ho
  simp [execE2eAck, ha, ho, ht, State.ackTaken]

/-- A NAK of an open operation has its fragment sent again. -/
theorem execE2eAck_resends {f : Nat} {o : OpSlot} (ha : (tag, some f) ∈ s.fab.acks) (ho : (s.ackTaken tag (some f)).opAt tag = some o)
    (ht : o.tag = tag) :
    execE2eAck tag (some f) s = .next ((s.ackTaken tag (some f)).resend (bits tag 13 13) (bits tag 12 0) f true) := by
  unfold State.opAt State.ackTaken at ho
  simp [execE2eAck, ha, ho, ht, State.ackTaken]

/-- An acknowledgement whose tag names no open operation is taken and does nothing. -/
theorem execE2eAck_stale (ha : (tag, nak) ∈ s.fab.acks) (hno : ∀ o, (s.ackTaken tag nak).opAt tag = some o → o.tag ≠ tag) :
    execE2eAck tag nak s = .next (s.ackTaken tag nak) := by
  unfold State.opAt State.ackTaken at hno
  cases ho : SMap.find? ((s.withFab { s.fab with acks := s.fab.acks.erase (tag, nak) }).ndie (bits tag 13 13)).slots (bits tag 12 0) with
  | none => simp [execE2eAck, ha, ho, State.ackTaken]
  | some o => simp [execE2eAck, ha, ho, hno o ho, State.ackTaken]

end

/-- An operation unacknowledged for 1 ms has every fragment sent again. -/
theorem execOperationResend_due {ndie slot at' : Nat} {s0 : State} {o : OpSlot} (ho : SMap.find? ((s0.advance at').ndie ndie).slots slot = some o)
    (hd : o.lastSent + 100000 ≤ (s0.advance at').clk.elapsed) :
    execOperationResend ndie slot at' s0
      = .next ((List.range o.frags.length).foldl (fun st f => st.resend ndie slot f false) (s0.advance at')) := by
  have hdue : ¬ (s0.advance at').clk.elapsed < o.lastSent + 100000 := by omega
  simp [execOperationResend, ho, hdue]

/-! What a port is to the credit audit: its state and the instant of its last audit failure. Sending on any port leaves them. -/

@[simp] theorem State.port_setPort_same (s : State) (p : Nat) (x : Port) : (s.setPort p x).port p = x := SMap.get_insert_same _ _ _ _

theorem State.port_setPort (s : State) (p q : Nat) (x : Port) : (s.setPort p x).port q = if q = p then x else s.port q := SMap.get_insert _ _ _ _ _

@[simp] theorem State.log_port (s : State) (n : Note) (p : Nat) : (s.log n).port p = s.port p := rfl
@[simp] theorem State.report_port (s : State) (st c : Nat) (d : Bytes) (p : Nat) : (s.report st c d).port p = s.port p := rfl

@[simp] theorem State.alert_port (s : State) (c p : Nat) : (s.alert c).port p = s.port p := by
  rw [State.port, State.alert_fab, State.port]

/-- The part of a port that the credit audit sets and a full bring-up reports. -/
def Port.link (x : Port) : Nat × Option Nat := (x.state, x.auditBad)

theorem State.setPort_link {s : State} {p : Nat} {x : Port} (h : x.link = (s.port p).link) (q : Nat) :
    ((s.setPort p x).port q).link = (s.port q).link := by
  rw [State.port_setPort]
  split
  · next hq => rw [h, hq]
  · rfl

theorem State.pushFrame_link (s : State) (p : Nat) (o : OutFrame) (q : Nat) : ((s.pushFrame p o).port q).link = (s.port q).link :=
  State.setPort_link (by rfl) q

theorem State.flushPort_link (s : State) (p q : Nat) : ((s.flushPort p).port q).link = (s.port q).link := by
  unfold State.flushPort
  refine (State.setPort_link (by rfl) q).trans ?_
  refine List.foldlRecOn (motive := fun acc : State × List OutFrame × List Nat => (acc.1.port q).link = (s.port q).link) _ _ rfl ?_
  intro acc hacc o _
  split
  · exact (State.pushFrame_link _ _ _ _).trans hacc
  · exact hacc

theorem State.sendOn_link (s : State) (p : Nat) (f : HFrame) (q : Nat) : ((s.sendOn p f).port q).link = (s.port q).link :=
  (State.flushPort_link _ p q).trans (State.setPort_link (by rfl) q)

theorem State.abandonOp_port (s : State) (n slot q : Nat) : (s.abandonOp n slot).port q = s.port q := by
  unfold State.abandonOp
  split
  · rfl
  · dsimp only
    split <;> rfl

theorem State.reroute_link (s : State) (fs : List OutFrame) (q : Nat) : ((s.reroute fs).port q).link = (s.port q).link := by
  unfold State.reroute
  refine List.foldlRecOn (motive := fun st : State => (st.port q).link = (s.port q).link) _ _ rfl ?_
  intro st hst o _
  dsimp only
  split
  · exact hst
  · split
    · exact (State.sendOn_link _ _ _ _).trans hst
    · split
      · split
        · rw [State.abandonOp_port]
          exact hst
        · exact hst
      · exact hst

/-- A full bring-up leaves its port TRAINING, or FAILED where it is the fourth within 600 s, and keeps the instant of the audit failure (R258, R268). -/
theorem State.bringUp_link (s : State) (p : Nat) :
    ((s.bringUp p).port p).auditBad = (s.port p).auditBad ∧ (((s.bringUp p).port p).state = 1 ∨ ((s.bringUp p).port p).state = 4) := by
  have hlink : ∃ n, (n = 1 ∨ n = 4) ∧ ((s.bringUp p).port p).link = (n, (s.port p).auditBad) := by
    unfold State.bringUp
    simp only [State.reroute_link]
    split
    · exact ⟨4, .inr rfl, by simp [Port.link, Port.count]⟩
    · exact ⟨1, .inl rfl, by simp [Port.link, Port.count]⟩
  obtain ⟨n, hn, h⟩ := hlink
  simp only [Port.link, Prod.mk.injEq] at h
  obtain ⟨hstate, haudit⟩ := h
  exact ⟨haudit, hstate ▸ hn⟩

/-! Tick checks (R43, R261). -/

section

variable {port at' : Nat} {payload : Bytes} {s : State} {t : TickIn}
  (hf : s.fab.ticks.find? (fun t => t.port == port && t.data == payload) = some t)

include hf

/-- A tick check whose counts agree and whose skew is within ten times the limit changes the skew counts alone. -/
theorem execTickCheck_agrees
    (hok : ∀ v, v < 4 → t.accepted.getD v 0 = field payload (0x10 + 8 * v) 8 ∧ t.back.getD v 0 = field payload (0x30 + 8 * v) 8
      ∧ (s.port port).accepted.getD v 0 - (s.port port).returned.getD v 0 ≤ vcGrant v)
    (hnear : absDiff at' (field payload 8 8 + (s.port port).delay) * 5 ≤ s.frame.skewLimit * 40) :
    execTickCheck port at' payload s = .next ((s.withFab { s.fab with ticks := s.fab.ticks.erase t }).withFrame { s.frame with
      skews := if s.frame.skewLimit * 4 < absDiff at' (field payload 8 8 + (s.port port).delay) * 5 then sat32 (s.frame.skews + 1) else s.frame.skews,
      skewRuns := SMap.insert s.frame.skewRuns port 0 }) := by
  have hfar : ¬ s.frame.skewLimit * 40 < absDiff at' (field payload 8 8 + (s.port port).delay) * 5 := by omega
  have hbad : ((List.range 4).any fun v => t.accepted.getD v 0 != field payload (0x10 + 8 * v) 8 || t.back.getD v 0 != field payload (0x30 + 8 * v) 8
      || decide (vcGrant v < (s.port port).accepted.getD v 0 - (s.port port).returned.getD v 0)) = false := by
    rw [List.any_eq_false]
    intro v hv
    obtain ⟨hacc, hback, hgrant⟩ := hok v (List.mem_range.mp hv)
    simp only [hacc, hback, bne_self_eq_false, Bool.false_or, decide_eq_true_eq, not_lt]
    exact hgrant
  have hport : (s.withFab { s.fab with ticks := s.fab.ticks.erase t }).port port = s.port port := rfl
  unfold execTickCheck
  simp only [hf, hport, State.withFab_frame, hfar, hbad, decide_false, Bool.false_eq_true, if_false, Nat.reduceBEq, Bool.or_false,
    decide_eq_true_eq, OfNat.zero_ne_ofNat]

/-- A tick check whose count of accepted credits differs fails the audit: its instant is kept, and a full bring-up of the port starts. -/
theorem execTickCheck_audit {v : Nat} (hv : v < 4) (hbad : t.accepted.getD v 0 ≠ field payload (0x10 + 8 * v) 8) :
    ∃ s1 : State, s1.clk = s.clk ∧ execTickCheck port at' payload s
      = .next (((s1.setPort port ({ s1.port port with auditBad := some s1.clk.ref }.count 0x54 1)).log
          { code := 0x3005, source := srcN (port / 8), detail := leBytes 1 port }).bringUp port) := by
  have hany : ∀ g : Nat → Bool, ((List.range 4).any fun v => t.accepted.getD v 0 != field payload (0x10 + 8 * v) 8 || g v) = true := by
    intro g
    rw [List.any_eq_true]
    exact ⟨v, List.mem_range.mpr hv, by rw [bne_iff_ne.mpr hbad, Bool.true_or]⟩
  unfold execTickCheck
  simp only [hf, Bool.or_assoc, hany, if_true]
  refine ⟨_, ?_, rfl⟩
  simp only [apply_ite State.clk, State.alert_clk, State.log_clk, State.withFrame_clk, State.withFab_clk, ite_self]

end

/-- Settles O48: the equations above, and for a failed audit what the full bring-up leaves of its port, whatever frames it sends again. -/
theorem operationsAndTickChecks : Obligations.OperationsAndTickChecks := by
  refine ⟨?completes, ?resends, ?stale, ?due, ?agrees, ?audit⟩
  case completes =>
    rintro tag s s1 o ha rfl ho ht
    exact execE2eAck_completes ha ho ht
  case resends =>
    rintro tag f s s1 o ha rfl ho ht
    exact execE2eAck_resends ha ho ht
  case stale =>
    rintro tag nak s s1 ha rfl hno
    exact execE2eAck_stale ha hno
  case due =>
    rintro ndie slot at' s0 s o rfl ho hd
    exact execOperationResend_due ho hd
  case agrees =>
    rintro port at' off payload s t x hf rfl rfl hok hnear
    exact execTickCheck_agrees hf hok hnear
  case audit =>
    intro port at' v payload s t hf hv hbad
    obtain ⟨s1, hclk, hx⟩ := execTickCheck_audit hf (at' := at') hv hbad
    obtain ⟨haudit, hstate⟩ := State.bringUp_link ((s1.setPort port ({ s1.port port with auditBad := some s1.clk.ref }.count 0x54 1)).log
      { code := 0x3005, source := srcN (port / 8), detail := leBytes 1 port }) port
    refine ⟨_, hx, haudit.trans ?_, hstate⟩
    simp [Port.count, hclk]

end Sys2Proof.Machine
end

section
/-!
PROOFS. Collectives (02_clause_frame R31; 11_fabric_and_collectives R273 to R276): the start of an entry, the read of a contributor, and the end.
-/

namespace Sys2Proof.Machine

/-- Starting a unit leaves the fabric. -/
theorem State.startUnit_fab (s : State) (k u : Nat) : (s.startUnit k u).fab = s.fab := by
  unfold State.startUnit
  split <;> rfl

/-- A collective as it starts: nothing read, nothing arrived. -/
def CollRun.started (d : CollDesc) (e : EntrySt) : CollRun :=
  { desc := d, step := e.step, window := e.window, lag := e.entry.lag, reads := [], ins := [], parts := [], sent2 := false, dead := false, offs := [] }

/-- A collective for which nothing has arrived early starts with nothing in it. -/
theorem execCollective_starts {idx at' k : Nat} {s0 s : State} {e : EntrySt} {d : CollDesc} (hs : s = s0.advance at')
    (hf : s.run.entries.find? (fun e => keyPlace e.1 == idx && e.2.entry.cls == clsColl && e.2.state == .ready) = some (k, e))
    (hd : s.fab.axis.bind (fun x => x.colls[e.entry.object]?) = some d) (hstart : s.mayStart = true) (hb : s.blocked k e.entry.target clsColl = false)
    (hearly : s.fab.early = []) :
    execCollective idx at' s0 = .next ((s.startUnit k e.entry.target).setColl k (CollRun.started d e)) := by
  subst hs
  have hnone : (((s0.advance at').startUnit k e.entry.target).setColl k (CollRun.started d e)).fab.early = [] := by
    simp [State.setColl, State.startUnit_fab, hearly]
  have hsame : ∀ t : State, t.fab.early = [] → t.withFab { t.fab with early := [] } = t := by
    intro t ht
    rw [← ht]
    rfl
  have hgo : ¬ ((s0.advance at').mayStart = false ∨ (s0.advance at').blocked k e.entry.target clsColl = true) := by simp [hstart, hb]
  simp only [execCollective, hf, hd, hgo, if_false]
  rw [← CollRun.started, hnone]
  exact congrArg _ (hsame _ hnone)

/-- A contributor's input as it is read: each element decoded exactly into A48 (R274). -/
def State.contribValues (s : State) (r : CollRun) (c : Contrib) : List (BitVec 48) :=
  (elems 0 r.desc.share).map (fun i => encA48 (s.elemValue (.cluster (c.die * 8 + c.cluster))
    (collTensor (s.collFormat r r.desc.inFmt).1 (s.collFormat r r.desc.inFmt).2 c.base r.desc.share 0 r.desc) i))

/-- A contributor whose ready object has reached its target is read, where no stored line is uncorrectable; the last one read spreads the module value. -/
theorem execContributorRead_reads {idx n k : Nat} {s : State} {r r1 : CollRun} {c : Contrib} {e : EntrySt} (hk : s.collAt idx = some (k, r))
    (hc : s.fab.axis.bind (fun x => x.contribs[r.desc.first + n]?) = some c) (he : s.entryAt k = some e) (hn : n < r.desc.count)
    (hnew : SMap.find? r.reads n = none) (hkind : r.desc.kind ≠ 4) (hpois : (s.obj (objKey 2 c.die c.ready)).poisoned = false)
    (hval : r.desc.target ≤ (s.obj (objKey 2 c.die c.ready)).value) (hbad : s.mem.badStore = [])
    (h1 : r1 = { r with reads := SMap.insert r.reads n (s.contribValues r c) }) :
    execContributorRead idx n s
      = .next (if r1.reads.length < r.desc.count then s.setColl k r1 else s.spread k r1 e.entry.object r1.moduleValue) := by
  subst h1
  have hread : ¬ r.desc.count ≤ n := by omega
  have hreached : ¬ (s.obj (objKey 2 c.die c.ready)).value < r.desc.target := by omega
  have hclean : ∀ key, SMap.get false s.mem.badStore key = false := by
    intro key
    rw [hbad]
    rfl
  have hdue : ¬ (r.desc.count ≤ n ∨ (SMap.find? r.reads n).isSome = true
      ∨ r.desc.kind = 4 ∧ r.desc.root ≠ (s.axisOf r.desc.axis).pos s.rank) := by
    simp [hread, hnew, hkind]
  have hany : ∀ (l : List Nat) (f : Nat → List (Nat × Nat)) (u : Nat),
      (l.any fun i => (f i).any fun x => (linesOf x.1 x.2).any fun m => SMap.get false s.mem.badStore (u * 2 ^ 32 + m)) = false := by
    simp [hclean]
  simp only [execContributorRead, hk, hc, he, hdue, hpois, hreached, hany, if_false, Bool.false_eq_true]
  rw [apply_ite Host.Outcome.next]
  rfl

/-- The outputs of a collective in place: as deliveries to near-memory engines, or in a store (R212, R275). -/
def State.collPlaced (s : State) (idx : Nat) (r : CollRun) (n p : Nat) (out : List (BitVec 48)) : State :=
  if r.desc.dest = 2 then s.withMem { s.mem with outbox := s.mem.outbox ++ s.deliveriesOf idx r n p out } else s.writeOutput r out

/-- A collective whose output is complete, whose operations are acknowledged and which runs no statistics exchange: the output is placed, the done object
signalled, and the entry finishes. -/
theorem execCollectiveDone_done {idx at' k n p : Nat} {s0 s s2 : State} {r : CollRun} {e : EntrySt} {out : List (BitVec 48)} (hs : s = s0.advance at')
    (hk : s.collAt idx = some (k, r)) (hopen : s.collOpen k = false) (hstats : s.statsJobs k r = []) (hn : n = (s.axisOf r.desc.axis).size)
    (hp : p = (s.axisOf r.desc.axis).pos s.rank) (hout : s.collOut r n p = some out) (he : s.entryAt k = some e)
    (h2 : s2 = ((s.collPlaced idx r n p out).signalDone r.step r.desc).countLast r) :
    execCollectiveDone idx [] at' s0 = .next ((s2.withFab { s2.fab with colls := SMap.erase s2.fab.colls k }).finishUnit k e.entry.target) := by
  subst hs hn hp h2
  simp [execCollectiveDone, hk, hopen, hstats, hout, he, State.collPlaced]

/-- Settles O29: the three equations above. -/
theorem collectiveEvents : Obligations.CollectiveEvents := by
  refine ⟨?starts, ?reads, ?done⟩
  case starts =>
    intro idx at' k s0 s e d hs hf hd hstart hb hearly
    exact execCollective_starts hs hf hd hstart hb hearly
  case reads =>
    rintro idx n k s r r1 c e tn hk hc he hn hnew hkind hpois hval hbad rfl h1
    exact execContributorRead_reads hk hc he hn hnew hkind hpois hval hbad h1
  case done =>
    rintro idx at' k n p s0 s s1 s2 r e out hs hk hopen hstats hn hp hout he rfl h2
    exact execCollectiveDone_done hs hk hopen hstats hn hp hout he h2

end Sys2Proof.Machine
end

section
/-!
PROOFS. Core segments and evaluation slots (02_clause_frame R33; 06_core_instruction_set R119, R137, R145; 16_vuhal_command_reference R415): how an entry
starts on its core, and how it leaves it.
-/

namespace Sys2Proof.Machine

/-! Starts. -/

/-- A core segment that may begin starts at its record's first instruction, with its record's limit. -/
theorem execCoreSegment_starts {idx at' k : Nat} {s0 s : State} {e : EntrySt} {p : Image} {r : Nat × Nat} (hs : s = s0.advance at')
    (hf : s.run.entries.find? (fun e => keyPlace e.1 == idx && e.2.entry.cls == clsCore && e.2.state == .ready) = some (k, e))
    (hstart : s.mayStart = true) (hb : s.blocked k e.entry.target clsCore = false) (hfree : s.coreFree e.entry.target e.window = true)
    (hban : (e.window, e.step) ∉ (s.core e.entry.target).banned) (hdie : s.dieOff e.entry.target e.window = false)
    (hp : (s.core e.entry.target).prog = some p) (hr : p.entries[e.entry.object]? = some r) :
    execCoreSegment idx at' s0 = .next ((s.startUnit k e.entry.target).startCore e.entry.target
      (entryRun s k e e.entry.target (.training e.entry.lag) s.seed p r.1 r.2)) := by
  subst hs
  simp [execCoreSegment, hf, hstart, hb, hfree, hban, hdie, hp, hr]

/-- The state in which an evaluation slot starts: the image lies over the core's words (log entry 95), and the evaluation reads the slot's version. -/
def State.evalLoaded (s : State) (core : Nat) (v : Eval) (p : Image) (version : Nat) : State :=
  (s.setCore core { s.core core with overlay := placeImage (s.core core).overlay v.loadIndex p.resident }).setEval v.id
    (fun y => { y with version := version })

/-- An evaluation slot that may begin starts at its record's first instruction in the image. -/
theorem execEvaluationSlot_starts {idx core at' k : Nat} {s0 s : State} {e : EntrySt} {v : Eval} {p : Image} {r : Nat × Nat} (hs : s = s0.advance at')
    (hk : s.readyKey idx clsEval core = some k) (he : s.entryAt k = some e) (hstart : s.mayStart = true) (hb : s.blocked k core clsCore = false)
    (hfree : s.coreFree core e.window = true) (hdie : s.dieOff core e.window = false) (hv : s.evalOf e.window = some v) (hp : v.image = some p)
    (hr : p.entries[e.entry.object]? = some r) :
    execEvaluationSlot idx core at' s0 = .next (((s.evalLoaded core v p e.step).startUnit k core).startCore core
      (entryRun s k e core (.evaluation v.id) v.seed p (v.loadIndex + r.1) r.2)) := by
  subst hs
  simp [execEvaluationSlot, hk, he, hstart, hb, hfree, hdie, hv, hp, hr, State.evalLoaded]

/-! Ends. -/

/-- An entry that has reached its END leaves its core; the last slot entry of an evaluation closes it. -/
theorem execEntryEnd_ended {core at' : Nat} {s0 s : State} {e : EntryRun} (hs : s = s0.advance at') (he : (s.core core).entry = some e)
    (hend : e.ended = true) :
    execEntryEnd core at' s0 = .next (if e.isEval then (((s.compareShadow core e).clearEntry core).finishUnit e.tableKey core).closeEval e.window
      else ((s.compareShadow core e).clearEntry core).finishUnit e.tableKey core) := by
  subst hs
  simp [execEntryEnd, he, hend]

/-- The state after an entry that an exception has stopped has left its core: its objects are poisoned and its unit is finished (R145, R243). -/
def State.entryStopped (s : State) (core : Nat) (e : EntryRun) : State :=
  (((s.compareShadow core e).clearEntry core).poisonOwned core).finishUnit e.tableKey core

section

variable {core at' : Nat} {s0 s : State} {e : EntryRun} (hs : s = s0.advance at') (he : (s.core core).entry = some e) (hstop : e.stopped = true)
  (hdrain : (s.core core).drained = true)

include hs he hstop hdrain

/-- A stopped training entry bans its step on the core for the window, and the step has failed. -/
theorem execEntryAborted_training {lag : Nat} (hkind : e.kind = .training lag) :
    execEntryAborted core at' s0 = .next ((((s.entryStopped core e).setCore core { (s.entryStopped core e).core core with
      banned := (e.window, e.step) :: ((s.entryStopped core e).core core).banned }).failStep e.step fEntry).failWornCore core) := by
  subst hs
  simp [execEntryAborted, he, hstop, hdrain, hkind, State.entryStopped]

/-- A stopped evaluation entry fails its evaluation with the code of the core's exception. -/
theorem execEntryAborted_evaluation {i : Nat} {x : ExcRecord} (hkind : e.kind = .evaluation i) (hx : (s.core core).exc = some x) :
    execEntryAborted core at' s0 = .next ((((s.entryStopped core e).failEval i 3 x.code).closeEval e.window).failWornCore core) := by
  subst hs
  simp [execEntryAborted, he, hstop, hdrain, hkind, hx, State.entryStopped]

end

/-- Settles O23: the two starts and the three ends above. -/
theorem coreEntries : Obligations.CoreEntries := by
  refine ⟨?segment, ?slot, ?ended, ?training, ?evaluation⟩
  case segment =>
    intro idx at' k s0 s e p r hs hf hstart hb hfree hban hdie hp hr
    exact execCoreSegment_starts hs hf hstart hb hfree hban hdie hp hr
  case slot =>
    rintro idx core at' k s0 s s1 e v p r hs hk he hstart hb hfree hdie hv hp hr rfl
    exact execEvaluationSlot_starts hs hk he hstart hb hfree hdie hv hp hr
  case ended =>
    rintro core at' s0 s s1 e hs he hend rfl
    exact execEntryEnd_ended hs he hend
  case training =>
    rintro core at' lag s0 s s1 e hs he hstop hdrain hkind rfl
    exact execEntryAborted_training hs he hstop hdrain hkind
  case evaluation =>
    rintro core at' i s0 s s1 e x hs he hstop hdrain hkind hx rfl
    exact execEntryAborted_evaluation hs he hstop hdrain hkind hx

end Sys2Proof.Machine
end

section
/-!
PROOFS. Hangs and watchdogs (02_clause_frame R34; 13_mirror_spares_recovery R319; 17_reset_power_startup R419, R422; 18_supervision_identity_attestation
R445): one equation for each event in the case in which it acts.
-/

namespace Sys2Proof.Machine

/-- A die that misses the acknowledgement of the last comma is logged, is hung, and is reset (R34). -/
theorem execAckMissed_hung {die code : Nat} {err : BitVec 32} {s s1 s2 : State} (ht : s.targetOf die = some code) (hc : s.commasFall = true)
    (hr : s.inReset code = false) (hw : s.swapping code = false)
    (h1 : s1 = (s.advance (s.run.clauseRef + 2000)).log { code := 0x5009, source := die, detail := leBytes 4 (s.run.comma % 2 ^ 32) })
    (h2 : s2 = (s1.advance (s.run.clauseRef + 2200)).logHang die err (dieLevel (s1.mapLevel fuTick))) :
    execAckMissed die err s = .next (s2.resetDie fuTick code true) := by
  subst h1 h2
  simp [execAckMissed, ht, hc, hr, hw]

/-- A die whose management agent misses two heartbeats is logged, is hung, and is reset (R419). -/
theorem execDieWatchdog_hung {die code : Nat} {err : BitVec 32} {s s1 : State} (ht : s.targetOf die = some code) (hr : s.inReset code = false)
    (h1 : s1 = s.logFreeze { code := 0x1005, source := die }) :
    execDieWatchdog die err s = .next ((s1.logHang die err (dieLevel (s1.mapLevel fuDieWatch))).resetDie fuDieWatch code true) := by
  subst h1
  simp [execDieWatchdog, ht, hr]

/-- The state once the watchdog of a core has been logged and its core is hung (R419, log entry 58). -/
def State.coreHung (s : State) (core : Nat) (err : BitVec 32) : State :=
  let s1 := s.logFreeze { code := 0x1005, source := s.coreSource core, detail := leBytes 2 core }
  s1.logHang (s.coreSource core) err (s1.mapLevel fuCoreWatch)

/-- The expiries of a core within the last 600 s, this one included (R319). -/
def State.expiriesNow (s : State) (core : Nat) : List Nat := twice s.clk.elapsed (SMap.get [] s.recov.expiries core)

/-- The state with an expiry of a core's watchdog kept. -/
def State.expiryKept (s : State) (core : Nat) : State :=
  s.withRecov { s.recov with expiries := SMap.insert s.recov.expiries core (s.expiriesNow core) }

/-- A core whose sequencer stands is reset, or has failed where it also stood within the 600 s before (R319, R419). -/
theorem execCoreWatchdog_stands {core : Nat} {err : BitVec 32} {e : EntryRun} {s : State} (hc : core < 512) (he : (s.core core).entry = some e)
    (hstop : e.stopped = false) (hw : (s.core core).wait = none) :
    execCoreWatchdog core err s
      = .next (if 2 ≤ ((s.coreHung core err).expiriesNow core).length then ((s.coreHung core err).expiryKept core).failCore core
        else ((s.coreHung core err).expiryKept core).resetCore core) := by
  have hcore : ¬ 512 ≤ core := by omega
  simp only [execCoreWatchdog, he, hstop, hw, hcore, Option.isNone_none, Bool.not_false, Bool.and_self, Bool.true_eq_false, or_self, if_false]
  rw [apply_ite Host.Outcome.next]
  rfl

/-- The firmware's watchdog resets the module (R422). -/
theorem execManagementWatchdog_runs {s : State} (hp : s.sup.pwrEn = true) (hs : s.sup.stopped = false) :
    execManagementWatchdog s = .next ((s.logFreeze { code := 0x1005 }).resetWhole fuManage) := by
  simp [execManagementWatchdog, hp, hs]

/-- The safety core's watchdog trips the module (R445). -/
theorem execSafetyWatchdog_runs {s : State} (hp : s.sup.pwrEn = true) (hs : s.sup.standby = true) :
    execSafetyWatchdog s = .next ((s.logFreeze { code := 0x1005 }).safetyTrip 0x1005) := by
  simp [execSafetyWatchdog, hp, hs]

/-- Settles O51: the five equations above; a core's second expiry within 600 s decides between its reset and its failure. -/
theorem hangsAndWatchdogs : Obligations.HangsAndWatchdogs := by
  refine ⟨?acknowledgement, ?heartbeats, ?core, fun s => execManagementWatchdog_runs, fun s => execSafetyWatchdog_runs⟩
  case acknowledgement =>
    intro die code err s s1 s2 ht hc hr hw h1 h2
    exact execAckMissed_hung ht hc hr hw h1 h2
  case heartbeats =>
    intro die code err s s1 ht hr h1
    exact execDieWatchdog_hung ht hr h1
  case core =>
    rintro core err e s s2 s3 hc he hstop hw rfl rfl
    exact execCoreWatchdog_stands hc he hstop hw

end Sys2Proof.Machine
end

section
/-!
PROOFS. The matrix instruction (04_matrix_engine R73 to R78, R85): the half that MM leaves, element by element, K_ALIGN, the output conversion, and the
completion that only frees the queue place.
-/

namespace Sys2Proof.Machine

/-! Runs of writes to a sparse map. -/

section
variable {α β : Type} {d : α} {key : β → Nat} {val : β → α} {i : Nat}

/-- A key that no write of a run names reads as before. -/
theorem SMap.get_foldl_insert_unwritten (l : List β) (m : SMap α) (h : ∀ y ∈ l, key y ≠ i) :
    SMap.get d (l.foldl (fun a y => SMap.insert a (key y) (val y)) m) i = SMap.get d m i := by
  induction l generalizing m with
  | nil => rfl
  | cons y l ih =>
    rw [List.foldl_cons, ih _ (fun z hz => h z (List.mem_cons_of_mem _ hz)), SMap.get_insert_other _ _ _ (h y List.mem_cons_self).symm]

/-- A key that the writes of a run name, all with one value, reads as that value. -/
theorem SMap.get_foldl_insert_written {v : α} (l : List β) (m : SMap α) (hw : ∃ y ∈ l, key y = i) (hv : ∀ y ∈ l, key y = i → val y = v) :
    SMap.get d (l.foldl (fun a y => SMap.insert a (key y) (val y)) m) i = v := by
  induction l generalizing m with
  | nil => simp at hw
  | cons y l ih =>
    rw [List.foldl_cons]
    by_cases hl : ∃ z ∈ l, key z = i
    · exact ih _ hl (fun z hz => hv z (List.mem_cons_of_mem _ hz))
    · have hy : key y = i := by
        obtain ⟨z, hz, hzi⟩ := hw
        rcases List.mem_cons.1 hz with rfl | hz
        · exact hzi
        · exact absurd ⟨z, hz, hzi⟩ hl
      rw [SMap.get_foldl_insert_unwritten l _ (fun z hz hzi => hl ⟨z, hz, hzi⟩), ← hy, SMap.get_insert_same]
      exact hv y List.mem_cons_self hy

end

/-! The places of a half. -/

@[simp] theorem mem_grid {rows cols : Nat} {p : Nat × Nat} : p ∈ grid rows cols ↔ p.1 < rows ∧ p.2 < cols := by
  simp [grid, Prod.ext_iff]

theorem bitNat_inj {h h' : Bool} (hb : bitNat h = bitNat h') : h = h' := by
  revert h h'
  decide

/-- Each row and column of each half has a key of its own (R70). -/
theorem accKey_inj {h h' : Bool} {m m' n n' : Nat} (hm : m < 256) (hm' : m' < 256) (hn : n < 64) (hn' : n' < 64)
    (hk : accKey h m n = accKey h' m' n') : h = h' ∧ m = m' ∧ n = n' := by
  have hparts : bitNat h = bitNat h' ∧ m = m' ∧ n = n' := by
    unfold accKey at hk
    omega
  exact ⟨bitNat_inj hparts.1, hparts.2⟩

/-! The core that MM leaves. -/

/-- The accumulator file with the covered part of the named half taking the reference values (R75). -/
def State.product (s : State) (c : Nat) (x : MatOp) (k : Core) (q : MatShape) : SMap (BitVec 48) :=
  (grid q.m q.n).foldl (fun a p => SMap.insert a (accKey (MatOp.half x) p.1 p.2) (encA48 (matElem s c x q k p.1 p.2).value)) k.acc

/-- The core once MM has multiplied: its half, the half's closed rows, and the queue (R74, R75, R78). -/
def State.multiplied (s : State) (c : Nat) (x : MatOp) (k : Core) (q : MatShape) (e : EntryRun) : Core :=
  { k with acc := s.product c x k q,
           closed := SMap.insert k.closed (bitNat (MatOp.half x)) (closedAfter (k.closedRows (MatOp.half x)) (MatOp.init x) q.k),
           matQ := k.matQ ++ [{ op := x, rows := q.m, cols := q.n, index := e.issued, aId := q.a.tid, bId := q.b.tid, outDesc := k.desc x.out.toNat }] }

section
variable {s : State} {c : Nat} {x : MatOp} {k : Core} {q : MatShape}

/-- An instruction that passes its checks covers no more than a half (R73). -/
theorem bounds_of_matCheck (h : matCheck s c x k q = none) : q.m ≤ 256 ∧ q.n ≤ 64 := by
  have hs : shapeBad x q = false := Bool.eq_false_iff.2 (fun hbad => by simp [matCheck, hbad] at h)
  simp only [shapeBad, Bool.or_eq_false_iff, Bool.not_eq_false', decide_eq_true_eq] at hs
  omega

/-- Every element that the product covers is its reference value. -/
theorem State.product_covered (hq : matCheck s c x k q = none) {m n : Nat} (hm : m < q.m) (hn : n < q.n) :
    SMap.get 0 (s.product c x k q) (accKey (MatOp.half x) m n) = encA48 (matElem s c x q k m n).value := by
  obtain ⟨hM, hN⟩ := bounds_of_matCheck hq
  refine SMap.get_foldl_insert_written _ _ ⟨(m, n), mem_grid.2 ⟨hm, hn⟩, rfl⟩ ?_
  rintro ⟨m', n'⟩ hp hk
  obtain ⟨hm', hn'⟩ := mem_grid.1 hp
  obtain ⟨-, rfl, rfl⟩ := accKey_inj (hm'.trans_le hM) (hm.trans_le hM) (hn'.trans_le hN) (hn.trans_le hN) hk
  rfl

/-- The other half, and the rows and columns past the product, stand. -/
theorem State.product_uncovered (hq : matCheck s c x k q = none) {h : Bool} {m n : Nat} (hm : m < 256) (hn : n < 64)
    (hout : h ≠ MatOp.half x ∨ q.m ≤ m ∨ q.n ≤ n) : SMap.get 0 (s.product c x k q) (accKey h m n) = k.accAt h m n := by
  obtain ⟨hM, hN⟩ := bounds_of_matCheck hq
  refine SMap.get_foldl_insert_unwritten _ _ ?_
  rintro ⟨m', n'⟩ hp hk
  obtain ⟨hm', hn'⟩ := mem_grid.1 hp
  obtain ⟨rfl, rfl, rfl⟩ := accKey_inj (hm'.trans_le hM) hm (hn'.trans_le hN) hn hk
  rcases hout with h | h | h
  · exact h rfl
  · exact absurd hm' h.not_gt
  · exact absurd hn' h.not_gt

end

/-! Numeric events. -/

/-- An event changes only the status word, its count of sets and the first-event record of its core (R87, R89, R248). -/
theorem Core.noteEvent_rest (k : Core) (w : Cause) (ev : Ev) : ∃ st n f, k.noteEvent w ev = { k with status := st, stSets := n, first := f } := by
  by_cases h : (captured k.status ev.kind && takes (k.first.map (fun x => (x.key, x.bytes))) (ev.key w)) = true
  · exact ⟨_, _, _, if_pos h⟩
  · exact ⟨_, _, _, if_neg h⟩

/-- So does a run of events. -/
theorem Core.noteEvents_rest (w : Cause) (evs : List Ev) (k : Core) :
    ∃ st n f, evs.foldl (fun k ev => k.noteEvent w ev) k = { k with status := st, stSets := n, first := f } := by
  induction evs generalizing k with
  | nil => exact ⟨_, _, _, rfl⟩
  | cons ev evs ih =>
    obtain ⟨st, n, f, h⟩ := k.noteEvent_rest w ev
    rw [List.foldl_cons, h]
    exact ih { k with status := st, stSets := n, first := f }

/-- The events of an instruction change no other field of its core. -/
theorem State.noteEvents_core (s : State) (c : Nat) (e : EntryRun) (w : Cause) (evs : List Ev) :
    ∃ st n f, (s.noteEvents c e w evs).core c = { s.core c with status := st, stSets := n, first := f } := by
  obtain ⟨st, n, f, h⟩ := Core.noteEvents_rest w evs (s.core c)
  unfold State.noteEvents
  split
  · exact ⟨_, _, _, rfl⟩
  · refine ⟨st, n, f, ?_⟩
    rw [← h]
    split <;> exact State.core_setCore_same s c _

@[simp] theorem State.noteEvents_mem (s : State) (c : Nat) (e : EntryRun) (w : Cause) (evs : List Ev) : (s.noteEvents c e w evs).mem = s.mem := by
  unfold State.noteEvents
  split
  · rfl
  · split <;> rfl

/-! MM, at its turn. -/

section
variable {s : State} {c : Nat} {x : MatOp} {e : EntryRun} {w : Word} {q : MatShape} (hq : q = matShape x (s.core c))
  (hheld : matHeld (s.core c) x = false)

include hq hheld

section
variable (hcheck : matCheck s c x (s.core c) q = none) (ha : s.checkElems (.own c) q.a (q.aAll x) = .ok ())
  (hb : s.checkElems (.own c) q.b (q.bAll x) = .ok ())
  (hc : MatOp.init x = 2 → s.checkElems (.own c) q.c (elems 0 q.c.count) = .ok ())

include hcheck ha hb hc

/-- With nothing held, every check passed and every operand read, the half takes its values at issue (R75, R91, log entry 15). -/
theorem mmBody_done :
    ∃ cause evs, mmBody c x (s.core c) e s = .done ((s.setCore c (s.multiplied c x (s.core c) q e)).noteEvents c e cause evs) := by
  have hread : (if MatOp.init x = 2 then s.checkElems (.own c) q.c (elems 0 q.c.count) else .ok ()) = .ok () := ite_eq_right_iff.2 hc
  subst hq
  refine ⟨?cause, ?evs, ?done⟩
  case done =>
    simp only [mmBody, hheld, hcheck, ha, hb, hread, List.foldl_map]
    rfl

/-- The core and the memory after MM. -/
theorem execMm_multiplies (h : s.offers c (.mm c x) e w) :
    ∃ t, execMm c x s = .next t ∧ (t.core c).acc = s.product c x (s.core c) q ∧ (t.core c).closed = (s.multiplied c x (s.core c) q e).closed
      ∧ (t.core c).matQ = (s.multiplied c x (s.core c) q e).matQ ∧ (t.core c).sregs = (s.core c).sregs ∧ (t.core c).store = (s.core c).store
      ∧ t.mem = s.mem := by
  obtain ⟨cause, evs, hbody⟩ := mmBody_done (e := e) hq hheld hcheck ha hb hc
  obtain ⟨st, n, f, hcore⟩ := State.noteEvents_core (s.setCore c (s.multiplied c x (s.core c) q e)) c e cause evs
  rw [State.core_setCore_same] at hcore
  obtain ⟨hsregs, -, -, -, -, hacc, hclosed, -, -, -, hstore, -, -, -, hmatQ, -⟩ :=
    Core.retire_rest { s.multiplied c x (s.core c) q e with status := st, stSets := n, first := f } none
  refine ⟨_, by rw [execMm, issue_offers h, hbody], ?_⟩
  rw [State.core_retired, hcore]
  exact ⟨hacc, hclosed, hmatQ, hsregs, hstore, State.noteEvents_mem _ _ _ _ _⟩

end

/-- A MM that fails a check raises its exception and does not execute (R91). -/
theorem execMm_raises {y : Nat × Nat} (h : s.offers c (.mm c x) e w) (hcheck : matCheck s c x (s.core c) q = some y) :
    execMm c x s = .next (s.raiseExc c e y.1 y.2 e.issued w) := by
  subst hq
  have hbody : mmBody c x (s.core c) e s = .raise y.1 y.2 := by simp [mmBody, hheld, hcheck]
  rw [execMm, issue_offers h, hbody]

end

/-! The ends of a MM. -/

/-- The values of the half that an instruction covers, as elements of its output tensor (R85). -/
def MatRun.outItems (m : MatRun) (k : Core) : List Item :=
  (grid m.rows m.cols).map (fun p =>
    { i := p.2 + (Desc.parse m.outDesc).e0 * p.1, v := decA48 (k.accAt m.half p.1 p.2).toNat, idx := p.2 + (Desc.parse m.outDesc).e0 * p.1 })

section
variable {s : State} {c : Nat} {m : MatRun} {rest : List MatRun}

/-- The oldest instruction, which converts, writes the output tensor from the half and leaves its queue place (R85). -/
theorem execMatrixOutputConversion_converts {e : EntryRun} {u : State} (hm : (s.core c).matQ = m :: rest) (he : (s.core c).entry = some e)
    (hconv : m.converts = true)
    (hstore : (s.setCore c { s.core c with matQ := rest }).storeItems c e (.own c) (Desc.parse m.outDesc) 0 m.aId m.bId m.index
      (m.outItems (s.core c)) = .ok u) :
    execMatrixOutputConversion c s = .next u := by
  simp only [he, MatRun.outItems] at hstore
  simp [execMatrixOutputConversion, hm, he, hconv, hstore]

/-- The oldest instruction, which does not convert, only leaves its queue place (R74). -/
theorem execMatrixInstructionComplete_completes (hm : (s.core c).matQ = m :: rest) (hconv : m.converts = false) :
    execMatrixInstructionComplete c s = .next (s.setCore c { s.core c with matQ := rest }) := by
  simp [execMatrixInstructionComplete, hm, hconv]

end

/-- Settles O37: the product that MM leaves in its half, read place by place, and the three equations above. -/
theorem matrixInstructions : Obligations.MatrixInstructions := by
  refine ⟨?multiplies, ?kAlign, ?converts, ?completes⟩
  case multiplies =>
    rintro c x e w s _ q rfl h hq hheld hcheck ha hb hc
    obtain ⟨t, ht, hacc, hclosed, hmatQ, hsregs, hstore, hmem⟩ :=
      execMm_multiplies hq hheld hcheck ha hb (fun hi => hc (BitVec.eq_of_toNat_eq hi)) h
    refine ⟨t, ht, ?covered, ?uncovered, ?rows, by simp [hmatQ, State.multiplied], hsregs, hstore, by rw [hmem]⟩
    case covered =>
      intro m n hm hn
      rw [Core.accAt, hacc]
      exact State.product_covered hcheck hm hn
    case uncovered =>
      intro half m n hm hn hout
      rw [Core.accAt, hacc]
      exact State.product_uncovered hcheck hm hn hout
    case rows =>
      rw [Core.closedRows, hclosed]
      exact SMap.get_insert_same _ _ _ _
  case kAlign =>
    rintro c x e w s _ q rfl h hq hheld hcheck
    exact execMm_raises hq hheld h hcheck
  case converts =>
    intro c e s u m rest hm he hconv hstore
    exact execMatrixOutputConversion_converts hm he hconv hstore
  case completes =>
    intro c s m rest hm hconv
    exact execMatrixInstructionComplete_completes hm hconv

end Sys2Proof.Machine
end

section
/-!
PROOFS. The ends of windows (05_vector_engine R115; 08_memory_system R185, R186; 10_synchronisation R244, R245): the drain of pending contributions, and
what a closed window clears in the staging space, on a core, and of a cluster or die.
-/

namespace Sys2Proof.Machine

section
variable {s : State}

/-- The drain of the oldest clause with pending contributions changes the staging space alone, and leaves the contributions of the other clauses (R186). -/
theorem execAddOnWriteDrain_drains {q : Pending} {rest : List Pending} {k : Nat} (hadds : s.mem.adds = q :: rest)
    (hk : k = s.mem.adds.foldl (fun a q => min a (q.window * 65536 + q.clause)) (q.window * 65536 + q.clause))
    (hclosed : s.segmentsOpen (k / 65536) (k % 65536) = false) :
    ∃ staging, execAddOnWriteDrain s = .next (s.withMem { s.mem with
      adds := s.mem.adds.filter (fun q => q.window * 65536 + q.clause != k), staging := staging, drained := k + 1 }) := by
  subst hk
  rw [hadds] at hclosed ⊢
  refine ⟨?staging, ?drains⟩
  case drains =>
    simp only [execAddOnWriteDrain, hadds, hclosed, Bool.false_eq_true, if_false]
    rfl

/-- The staging valid bits are cleared once the window's core segments have ended and its contributions are drained (R185). -/
theorem execStagingValidBitsClear_clears (hrun : s.inRun = true) (hdue : s.mem.stagingCleared < s.run.period)
    (hclosed : s.segmentsOpen s.run.period 65535 = false) (hdrained : ∀ q ∈ s.mem.adds, s.run.period < q.window) :
    execStagingValidBitsClear s = .next (s.withMem { s.mem with staging := s.mem.staging.clear, stagingCleared := s.run.period }) := by
  have hnone : s.mem.adds.any (fun q => decide (q.window ≤ s.run.period)) = false := by
    simpa [List.any_eq_false] using hdrained
  simp [execStagingValidBitsClear, hrun, hdue.not_ge, hclosed, hnone]

/-- A core whose entries of the window have ended loses its valid bits and its overlay, and its objects return to zero (R115, R138, R244). -/
theorem execValidBitsClear_clears {c w : Nat} (hc : c < 512) (hrun : s.inRun = true) (hw : w = s.run.period) (hdue : (s.core c).cleared < w)
    (hdone : s.coreDone c w = true) :
    execValidBitsClear c s
      = .next ((s.setCore c { s.core c with store := (s.core c).store.clear, overlay := [], cleared := w }).unitToZero w 0 c) := by
  subst hw
  simp [execValidBitsClear, hc.not_ge, hrun, hdue.not_ge, hdone]

/-- The objects of a cluster or die whose cores have ended their entries of the window return to zero, where no remote signal waits (R244). -/
theorem execObjectsReturnToZero_clears {scope unit w : Nat} (hunit : scope = 1 ∧ unit < 64 ∨ scope = 2 ∧ unit < 8) (hrun : s.inRun = true)
    (hw : w = s.run.period) (hdue : SMap.get 0 s.syncWin (scope * 65536 + unit) < w)
    (hdone : (unitCores scope unit).all (fun c => s.coreDone c w) = true) (hsignals : s.fab.signals = []) :
    execObjectsReturnToZero scope unit s
      = .next ((s.unitToZero w scope unit).withSyncWin (SMap.insert s.syncWin (scope * 65536 + unit) w)) := by
  subst hw
  simp only [execObjectsReturnToZero, hunit, hrun, hdue.not_ge, hdone, hsignals, List.any_nil, not_true, Bool.true_eq_false, Bool.false_eq_true, and_false,
    or_self, if_false]

end

/-- Settles O24: the four equations above; what the drain leaves is read off the memory that it writes. -/
theorem windowEnds : Obligations.WindowEnds := by
  refine ⟨?drain, fun s => execStagingValidBitsClear_clears, ?core, ?objects⟩
  case drain =>
    intro s q rest k hadds hk hclosed
    obtain ⟨staging, hx⟩ := execAddOnWriteDrain_drains hadds hk hclosed
    exact ⟨_, hx, rfl, rfl, rfl, rfl⟩
  case core =>
    intro c w s hc hrun hw hdue hdone
    exact execValidBitsClear_clears hc hrun hw hdue hdone
  case objects =>
    intro scope unit w s hunit hrun hw hdue hdone hsignals
    exact execObjectsReturnToZero_clears hunit hrun hw hdue hdone hsignals

end Sys2Proof.Machine
end

section
/-!
PROOFS. Lane instructions (05_vector_engine R92, R93, R95, R104; 06_core_instruction_set R132, R133): a lane operation on its lanes that are on, and the
bits of the mask that a compare leaves.
-/

namespace Sys2Proof.Machine

/-! A lane operation at its turn. -/

section
variable {c : Nat} {e : EntryRun} {w : Word} {s : State}

/-- The operation of a lane instruction on the FP32 operands of one lane. -/
def VecOp.onLane (x : VecOp) (f : Val → Val → Val → LaneOut) (k : Core) (l : Nat) : LaneOut :=
  f (decFP32 (k.lane x.va l)) (decFP32 (k.lane x.vb l)) (decFP32 (k.lane x.vc l))

/-- A lane operation gives each lane that its mask leaves on the result of its own operands, with the kinds of that result (R92, R93). -/
theorem laneOp_offers {x : VecOp} {i : Instr} (f : Bool → Val → Val → Val → LaneOut) (h : s.offers c i e w) :
    laneOp i c x f s = .next (s.laneDone c e x.vd x.mask
      (fun k l => (encFP32 (VecOp.onLane x (f s.num.emu) k l).1, (VecOp.onLane x (f s.num.emu) k l).2))) :=
  issue_offers h _

/-- An instruction that writes lanes gives each lane that its mask leaves on its new word (R92). -/
theorem laneWrite_offers {i : Instr} {vd : BitVec 5} {mask : BitVec 2} (f : Core → Nat → W32 × List Nat) (h : s.offers c i e w) :
    issue c i (fun _ e st => .done (laneWrite c e vd mask f st)) s = .next (s.laneDone c e vd mask f) :=
  issue_offers h _

section
variable {x : VecOp}

theorem execVcmpeq_offers (h : s.offers c (.vcmpeq c x) e w) : execVcmpeq c x s = .next (s.leaves c (cmpMask (s.core c) x vEq)) :=
  issueReg_offers h _

theorem execVcmplt_offers (h : s.offers c (.vcmplt c x) e w) : execVcmplt c x s = .next (s.leaves c (cmpMask (s.core c) x vLt)) :=
  issueReg_offers h _

theorem execVcmple_offers (h : s.offers c (.vcmple c x) e w) :
    execVcmple c x s = .next (s.leaves c (cmpMask (s.core c) x (fun a b => vLt a b || vEq a b))) :=
  issueReg_offers h _

theorem execVsel_offers (h : s.offers c (.vsel c x) e w) :
    execVsel c x s = .next (s.laneDone c e x.vd x.mask
      (fun k l => (if (k.mask (x.vc.setWidth 2)).getLsbD l then k.lane x.va l else k.lane x.vb l, []))) :=
  laneWrite_offers _ h

theorem execVbcast_offers (h : s.offers c (.vbcast c x) e w) :
    execVbcast c x s = .next (s.laneDone c e x.vd x.mask (fun k _ => ((k.s x.sr).setWidth 32, []))) :=
  laneWrite_offers _ h

theorem execVextr_offers (h : s.offers c (.vextr c x) e w) :
    execVextr c x s = .next (s.leaves c ((s.core c).setS x.sr (((s.core c).lane x.va x.lane.toNat).setWidth 64))) :=
  issueReg_offers h _

theorem execVu2f_offers (h : s.offers c (.vu2f c x) e w) :
    execVu2f c x s = .next (s.laneDone c e x.vd x.mask (fun k l => (encFP32 (.fin false ((k.lane x.va l).toNat / 256) (-24)), []))) :=
  laneWrite_offers _ h

end

/-- VRAND draws each lane keyed by seed, step, tensor, stream, index and lane, whatever the masks (R104, R106, R133, R169). -/
theorem execVrand_offers {x : RandOp} (h : s.offers c (.vrand c x) e w) :
    execVrand c x s = .next (s.laneDone c e x.vd 0 (fun k l => (laneRandom s.num.emu e.seed (BitVec.ofNat 64 e.step)
      (Desc.parse ((s.core c).desc x.desc.toNat)).tid ((if s.num.emu then 0 else x.stream.toNat) + (if e.isEval then 128 else 0))
      (k.s x.index + BitVec.ofNat 64 l) ((k.s x.draw).setWidth 32), []))) :=
  issue_offers h _

end

/-! The mask of a compare. -/

/-- The number that a run of bits spells has those bits, the first the lowest. -/
theorem testBit_foldr_bitNat (bs : List Bool) (i : Nat) : (bs.foldr (fun b n => bitNat b + 2 * n) 0).testBit i = bs.getD i false := by
  induction bs generalizing i with
  | nil => simp
  | cons b bs ih =>
    have hbit : ∀ n, bitNat b + 2 * n = Nat.bit b n := by
      intro n
      rw [Nat.bit_val, add_comm]
      cases b <;> rfl
    rw [List.foldr_cons, hbit]
    cases i with
    | zero => exact Nat.testBit_bit_zero b _
    | succ i => rw [Nat.testBit_bit_succ, ih, List.getD_cons_succ]

theorem Core.mask_setMask (k : Core) {m : BitVec 2} (hm : m ≠ 0) (v : BitVec 128) : (k.setMask m v).mask m = v := by
  rw [Core.setMask, if_neg hm, Core.mask, if_neg hm]
  exact SMap.get_insert_same _ _ _ _

/-- A compare writes the bit of each lane that its mask leaves on, and leaves the others, in a mask other than m0 (R92, R93). -/
theorem cmpMask_bit (k : Core) (x : VecOp) (f : Val → Val → Bool) {l : Nat} (hl : l < 128) (hd : (x.vd.setWidth 2 : BitVec 2) ≠ 0) :
    ((cmpMask k x f).mask (x.vd.setWidth 2)).getLsbD l
      = if (k.mask x.mask).getLsbD l then f (decFP32 (k.lane x.va l)) (decFP32 (k.lane x.vb l)) else (k.mask (x.vd.setWidth 2)).getLsbD l := by
  rw [cmpMask, Core.mask_setMask k hd, BitVec.getLsbD_ofNat, testBit_foldr_bitNat]
  simp [hl, lanes]

/-- Settles O38: each lane operation is `laneOp` of its own function, and the rest are equations of `issue` for bodies that always end; the bits of a
compare's mask are those of the number it is built from. -/
theorem laneInstructions : Obligations.LaneInstructions := by
  refine ⟨?laneOps, ?moves, ?mask, ?rand⟩
  case laneOps =>
    rintro c x e w s _ _ _ _ _ rfl rfl rfl rfl rfl
    exact ⟨laneOp_offers (fun em a b _ => lAdd em a b), laneOp_offers (fun em a b _ => lSub em a b), laneOp_offers (fun em a b _ => lMul em a b),
      laneOp_offers lFma, laneOp_offers (fun em a b _ => flushLane em (vMin a b)), laneOp_offers (fun em a b _ => flushLane em (vMax a b)),
      laneOp_offers (fun em a _ _ => flushLane em (vAbs a)), laneOp_offers (fun em a _ _ => flushLane em (vNeg a)),
      laneOp_offers (fun em a _ _ => lRcp em a), laneOp_offers (fun em a _ _ => lRsq em a), laneOp_offers (fun em a _ _ => lExp2 em a),
      laneOp_offers (fun em a _ _ => lLog2 em a), laneOp_offers (fun em a _ _ => lExp em a), laneOp_offers (fun em a _ _ => lLog em a),
      laneOp_offers (fun em a b _ => lSexp em a b)⟩
  case moves =>
    rintro c x e w s _ rfl
    exact ⟨execVcmpeq_offers, execVcmplt_offers, execVcmple_offers, execVsel_offers, execVbcast_offers, execVextr_offers, execVu2f_offers⟩
  case mask =>
    intro k x f l hl
    by_cases hd : (x.vd.setWidth 2 : BitVec 2) = 0
    · exact .inr hd
    · exact .inl (cmpMask_bit k x f hl hd)
  case rand =>
    rintro c _ x e w s h rfl
    exact execVrand_offers h

end Sys2Proof.Machine
end

section
/-!
PROOFS. Vector memory, the accumulator tap and reductions (05_vector_engine R96 to R103; 06_core_instruction_set R133): the lanes that a run of lane
writes leaves, and one equation for each instruction whose checks pass.
-/

namespace Sys2Proof.Machine

/-! Runs of lane writes. -/

theorem Core.lane_setLane (k : Core) (r : BitVec 5) (i l : Nat) (v : W32) : (k.setLane r i v).lane r l = if l = i then v else k.lane r l := by
  simp [Core.lane, Core.setLane, SMap.get_insert]

/-- The core once the listed lanes of one register have been written. -/
def Core.setLanes (k : Core) (r : BitVec 5) (ls : List Nat) (v : Nat → W32) : Core := ls.foldl (fun q l => q.setLane r l (v l)) k

/-- Of the register written, each listed lane reads its new word and every other lane as before. -/
theorem Core.lane_setLanes (k : Core) (r : BitVec 5) (ls : List Nat) (v : Nat → W32) (l : Nat) :
    (k.setLanes r ls v).lane r l = if l ∈ ls then v l else k.lane r l := by
  induction ls generalizing k with
  | nil => rfl
  | cons i ls ih =>
    refine (ih (k.setLane r i (v i))).trans ?_
    rw [Core.lane_setLane]
    by_cases hi : l = i <;> simp [hi]

/-- Writing lanes leaves the accumulators and the store. -/
theorem Core.setLanes_rest (k : Core) (r : BitVec 5) (ls : List Nat) (v : Nat → W32) :
    (k.setLanes r ls v).acc = k.acc ∧ (k.setLanes r ls v).store = k.store := by
  unfold Core.setLanes
  exact List.foldlRecOn (motive := fun q : Core => q.acc = k.acc ∧ q.store = k.store) _ _ ⟨rfl, rfl⟩ (fun _ hq _ _ => hq)

/-! What the events and the count of an instruction leave of its core. -/

/-- The vector registers, the accumulators with their closed rows, and the store of a core. -/
def Core.data (k : Core) : SMap W32 × SMap (BitVec 48) × SMap (BitVec 256) × Store := (k.vregs, k.acc, k.closed, k.store)

/-- Cores with the same data read the same. -/
theorem Core.reads_of_data {t k : Core} (h : t.data = k.data) :
    t.lane = k.lane ∧ t.acc = k.acc ∧ t.closed = k.closed ∧ t.store = k.store := by
  simp only [Core.data, Prod.mk.injEq] at h
  obtain ⟨hvregs, hacc, hclosed, hstore⟩ := h
  refine ⟨?_, hacc, hclosed, hstore⟩
  funext r l
  rw [Core.lane, hvregs, Core.lane]

theorem State.retired_data (s : State) (c : Nat) : ((s.retired c).core c).data = (s.core c).data := by
  obtain ⟨-, -, -, hvregs, -, hacc, hclosed, -, -, -, hstore, -⟩ := (s.core c).retire_rest none
  rw [State.core_retired, Core.data, hvregs, hacc, hclosed, hstore, Core.data]

theorem State.noteEvents_data (s : State) (c : Nat) (e : EntryRun) (w : Cause) (evs : List Ev) :
    ((s.noteEvents c e w evs).core c).data = (s.core c).data := by
  obtain ⟨st, n, f, h⟩ := s.noteEvents_core c e w evs
  rw [h]
  rfl

theorem State.foldl_noteEvents_data {β : Type} (c : Nat) (e : EntryRun) (cause : β → Cause) (evs : β → List Ev) (ps : List β) (s : State) :
    ((ps.foldl (fun q p => q.noteEvents c e (cause p) (evs p)) s).core c).data = (s.core c).data := by
  induction ps generalizing s with
  | nil => rfl
  | cons p ps ih => rw [List.foldl_cons, ih, State.noteEvents_data]

/-! The lanes that an instruction reaches. -/

@[simp] theorem mem_lanes {l : Nat} : l ∈ lanes ↔ l < 128 := List.mem_range

/-- The lanes that a mask leaves on. -/
theorem mem_lanes_filter {m : BitVec 128} {l : Nat} : l ∈ lanes.filter (fun l => m.getLsbD l) ↔ l < 128 ∧ m.getLsbD l = true := by
  rw [List.mem_filter, mem_lanes]

/-- Of those, the lanes that lie within a tensor. -/
theorem mem_activeLanes {k : Core} {mask : BitVec 2} {off count l : Nat} :
    l ∈ activeLanes k mask off count ↔ l < 128 ∧ (k.mask mask).getLsbD l = true ∧ off + l < count := by
  simp [activeLanes]

section
variable {c : Nat} {e : EntryRun} {w : Word} {s : State}

/-! VLD and VST. -/

theorem not_outside {d : Desc} {off : Nat} {is : List Nat} (hin : off < d.count) (hinside : s.inside (.own c) d is = true) :
    ¬ (d.count ≤ off ∨ s.inside (.own c) d is = false) := by
  simp [hin.not_ge, hinside]

section
variable {x : VMemOp} {off : Nat} {d : Desc} (hd : d = Desc.parse ((s.core c).desc x.desc.toNat)) (hoff : off = ((s.core c).a x.off).toNat)
  (hin : off < d.count) (hinside : s.inside (.own c) d ((activeLanes (s.core c) x.mask off d.count).map (off + ·)) = true)

include hd hoff hin hinside

/-- VLD of elements that can be read writes the lanes that are on and lie within the tensor (R96, log entry 19). -/
theorem execVld_loads (h : s.offers c (.vld c x) e w) (hheld : vecHeld (s.core c) x.desc.toNat false = false)
    (hread : s.checkElems (.own c) d ((activeLanes (s.core c) x.mask off d.count).map (off + ·)) = .ok ()) :
    ∃ t, execVld c x s = .next t ∧ (t.core c).data = ((s.core c).setLanes x.vd (activeLanes (s.core c) x.mask off d.count)
      (fun l => encFP32 (laneIn (s.elemValue (.own c) d (off + l))).1)).data := by
  have hrange := not_outside hin hinside
  subst hd hoff
  refine ⟨?t, ?loads, ?data⟩
  case loads =>
    rw [execVld, issue_offers h]
    simp only [hheld, hrange, hread, Bool.false_eq_true, if_false, List.foldl_map]
    rfl
  case data =>
    rw [State.retired_data, State.noteEvents_data, State.core_setCore_same]
    rfl

/-- VST stores the lanes that are on and lie within the tensor (R96, R133). -/
theorem execVst_stores {u : State} (h : s.offers c (.vst c x) e w) (hheld : vecHeld (s.core c) x.desc.toNat true = false)
    (hstore : s.storeItems c e (.own c) d 1 0 0 e.issued ((activeLanes (s.core c) x.mask off d.count).map
      (fun l => { i := off + l, v := decFP32 ((s.core c).lane x.vd l), idx := off + l })) = .ok u) :
    execVst c x s = .next (u.retired c) := by
  have hrange := not_outside hin hinside
  subst hd hoff
  rw [execVst, issue_offers h]
  simp only [hheld, hrange, hstore, Bool.false_eq_true, if_false]

end

/-! The accumulator tap. -/

section
variable {x : TapOp} {r : Nat}

theorem tapRow_even {k : Core} (hrow : (k.s x.row).toNat = r) (heven : r % 2 = 0) (hle : r ≤ 254) : tapRow k x = some r := by
  subst hrow
  exact if_pos ⟨heven, hle⟩

theorem tapRow_odd_or_above {k : Core} (hrow : (k.s x.row).toNat = r) (hbad : r % 2 = 1 ∨ 254 < r) : tapRow k x = none := by
  subst hrow
  exact if_neg (by omega)

/-- The value of the half that a lane of a tap at row r stands for: lanes 0 to 63 in row r and the others in the row after it (R97). -/
def Core.tapValue (k : Core) (half : Bool) (r l : Nat) : Val := decA48 (k.accAt half (r + l / 64) (l % 64)).toNat

/-- A tap that may read its half leaves the half, and gives the lanes that are on their results (R97, R98). -/
theorem tapInto_reads {i : Instr} (f : Bool → Val → Val → LaneOut) (h : s.offers c i e w) (hheld : tapHeld (s.core c) x.half = false)
    (hrow : tapRow (s.core c) x = some r) :
    ∃ t, tapInto i c x f s = .next t ∧ (t.core c).data = ((s.core c).setLanes x.vd (lanes.filter (fun l => ((s.core c).mask x.mask).getLsbD l))
      (fun l => encFP32 (f s.num.emu ((s.core c).tapValue x.half r l) (decFP32 ((s.core c).lane x.vs l))).1)).data := by
  refine ⟨?t, ?reads, ?data⟩
  case reads =>
    rw [tapInto, issue_offers h]
    simp only [hheld, hrow, Bool.false_eq_true, if_false, List.foldl_map]
    rfl
  case data =>
    rw [State.retired_data, tapEvents, State.noteEvents_data, State.core_setCore_same]
    rfl

/-- The same, lane by lane. -/
theorem tapInto_lanes {i : Instr} (f : Bool → Val → Val → LaneOut) (h : s.offers c i e w) (hheld : tapHeld (s.core c) x.half = false)
    (hrow : tapRow (s.core c) x = some r) :
    ∃ t, tapInto i c x f s = .next t ∧ (t.core c).acc = (s.core c).acc ∧ ∀ l, l < 128 → (t.core c).lane x.vd l
      = if ((s.core c).mask x.mask).getLsbD l
        then encFP32 (f s.num.emu ((s.core c).tapValue x.half r l) (decFP32 ((s.core c).lane x.vs l))).1 else (s.core c).lane x.vd l := by
  obtain ⟨t, hx, hdata⟩ := tapInto_reads f h hheld hrow
  obtain ⟨hlane, hacc, -, -⟩ := Core.reads_of_data hdata
  refine ⟨t, hx, hacc.trans (Core.setLanes_rest _ _ _ _).1, ?_⟩
  intro l hl
  rw [hlane, Core.lane_setLanes]
  simp [hl]

/-- A tap whose row is odd or above 254 raises SHAPE (R133). -/
theorem tapInto_raises {i : Instr} (f : Bool → Val → Val → LaneOut) (h : s.offers c i e w) (hheld : tapHeld (s.core c) x.half = false)
    (hrow : tapRow (s.core c) x = none) : tapInto i c x f s = .next (s.raiseExc c e 0x01 0 e.issued w) := by
  rw [tapInto, issue_offers h]
  simp only [hheld, hrow, Bool.false_eq_true, if_false]
  rfl

/-- The accumulator file with the lanes of a TAPW that are on written into rows r and r + 1 of its half. -/
def Core.tapWritten (k : Core) (x : TapOp) (r : Nat) : SMap (BitVec 48) :=
  (lanes.filter (fun l => (k.mask x.mask).getLsbD l)).foldl (fun a l =>
    SMap.insert a (accKey x.half (r + l / 64) (l % 64)) (encA48 (decFP32 (k.lane x.vs l)))) k.acc

/-- The rows of a half that stay closed when rows r and r + 1 become open (R99). -/
def Core.tapClosed (k : Core) (x : TapOp) (r : Nat) : BitVec 256 := k.closedRows x.half &&& ~~~(BitVec.ofNat 256 (3 * 2 ^ r))

/-- The core after a TAPW. -/
def Core.tapOpened (k : Core) (x : TapOp) (r : Nat) : Core :=
  { k with acc := k.tapWritten x r, closed := SMap.insert k.closed (bitNat x.half) (k.tapClosed x r) }

/-- TAPW that may write its half writes two rows of it and opens them (R98, R99). -/
theorem execTapw_writes (h : s.offers c (.tapw c x) e w) (hheld : tapHeld (s.core c) x.half = false) (hrow : tapRow (s.core c) x = some r) :
    ∃ t, execTapw c x s = .next t ∧ (t.core c).acc = (s.core c).tapWritten x r ∧ (t.core c).closedRows x.half = (s.core c).tapClosed x r := by
  have hdata : ((s.leaves c ((s.core c).tapOpened x r)).core c).data = ((s.core c).tapOpened x r).data := by
    rw [State.leaves, State.retired_data, State.core_setCore_same]
  obtain ⟨-, hacc, hclosed, -⟩ := Core.reads_of_data hdata
  refine ⟨_, ?writes, hacc, ?closed⟩
  case writes =>
    rw [execTapw, issue_offers h]
    simp only [hheld, hrow, Bool.false_eq_true, if_false]
    rfl
  case closed =>
    rw [Core.closedRows, hclosed]
    exact SMap.get_insert_same _ _ _ _

/-- Each lane that is on has been written to its own row and column. -/
theorem Core.get_tapWritten (k : Core) (hle : r ≤ 254) {l : Nat} (hl : l < 128) (hon : (k.mask x.mask).getLsbD l = true) :
    SMap.get 0 (k.tapWritten x r) (accKey x.half (r + l / 64) (l % 64)) = encA48 (decFP32 (k.lane x.vs l)) := by
  refine SMap.get_foldl_insert_written _ _ ⟨l, mem_lanes_filter.2 ⟨hl, hon⟩, rfl⟩ ?_
  intro l' hl' hkey
  obtain ⟨hl', -⟩ := mem_lanes_filter.1 hl'
  obtain ⟨-, hrow, hcol⟩ := accKey_inj (by omega) (by omega) (Nat.mod_lt _ (by decide)) (Nat.mod_lt _ (by decide)) hkey
  rw [show l' = l by omega]

/-- Both rows of a TAPW are open. -/
theorem Core.tapClosed_open (k : Core) (x : TapOp) (hle : r ≤ 254) {i : Nat} (hi : i = r ∨ i = r + 1) : (k.tapClosed x r).getLsbD i = false := by
  have hbit : (3 * 2 ^ r).testBit i = true := by
    rw [Nat.testBit_mul_two_pow]
    rcases hi with rfl | rfl
    · simp
    · simp only [Nat.le_add_right, decide_true, Nat.add_sub_cancel_left, Bool.true_and]
      decide
  have hlt : i < 256 := by omega
  rw [Core.tapClosed, BitVec.getLsbD_and, BitVec.getLsbD_not, BitVec.getLsbD_ofNat, hbit, decide_eq_true hlt]
  simp

end

/-! Reductions. -/

/-- The second operand of a reduction: y of a product-sum, and otherwise the first again (R101). -/
def redSecond (s : State) (c : Nat) (kind : RedKind) (d y : Desc) (off len : Nat) : List (Val × List Nat) :=
  if kind = .productSum then redValues s c y off len else redValues s c d off len

/-- The value of a reduction, in the mode's order and format (R101, R102, R169). -/
def redResult (s : State) (c : Nat) (x : RedOp) (kind : RedKind) (d y : Desc) (off len : Nat) : Val :=
  (reduce s.num.emu (x.a48 && !s.num.emu) kind
    (((redValues s c d off len).zip (redSecond s c kind d y off len)).map (fun p => (p.1.1, p.2.1)))).1

/-- VRED of operands that pass their checks leaves its value in every lane (R101, R102). -/
theorem execVred_reduces {x : RedOp} {len off : Nat} {d y : Desc} {kind : RedKind} (h : s.offers c (.vred c x) e w)
    (hlen : ((s.core c).s x.len).toNat = len) (hoff : ((s.core c).a x.off).toNat = off) (hd : d = Desc.parse ((s.core c).desc x.x.toNat))
    (hy : y = Desc.parse ((s.core c).desc x.y.toNat)) (hkind : kind = RedKind.ofCode x.kind.toNat)
    (hheld : vecHeld (s.core c) x.x.toNat false = false) (hlo : 1 ≤ len) (hhi : len ≤ 65536) (hcheck : redCheck s c x.x.toNat d off len = .ok ())
    (hsecond : kind = .productSum → vecHeld (s.core c) x.y.toNat false = false ∧ redCheck s c x.y.toNat y off len = .ok ()) :
    ∃ t, execVred c x s = .next t ∧ (t.core c).data
      = ((s.core c).setLanes x.vd lanes (fun _ => encFP32 (redResult s c x kind d y off len))).data := by
  have hshape : ¬ (len = 0 ∨ 65536 < len) := by omega
  have hfree : (decide (kind = .productSum) && vecHeld (s.core c) x.y.toNat false) = false := by
    simpa using fun hk => (hsecond hk).1
  have hreads : (if decide (kind = .productSum) = true then redCheck s c x.y.toNat y off len else .ok ()) = .ok () := by
    simpa using fun hk => (hsecond hk).2
  subst hlen hoff hd hy hkind
  refine ⟨?t, ?reduces, ?data⟩
  case reduces =>
    rw [execVred, issue_offers h]
    simp only [hheld, hfree, hshape, hcheck, hreads, Bool.or_false, Bool.false_eq_true, if_false, bind, Except.bind]
    rfl
  case data =>
    rw [State.retired_data, State.noteEvents_data, State.foldl_noteEvents_data, State.core_setCore_same]
    simp only [decide_eq_true_eq]
    rfl

end

end Sys2Proof.Machine
end

section
/-!
PROOFS. Fused kernels (05_vector_engine R103, R110; 06_core_instruction_set R133): when a span executes (log entry 21), and the statement of the vector
memory, the taps, the reductions and the kernels.
-/

namespace Sys2Proof.Machine

section
variable {c : Nat} {x : KernOp} {s : State}

/-- What one core of a span does in the step that executes it: it stores its part of the rows, and a core other than c, whose own step this is, counts
its instruction (R103, log entry 21). -/
def kernCore (c : Nat) (a : KernAcc) (st : State) (p : KernSide × Nat) : Except Nat State :=
  match (st.core p.1.c).entry with
  | some f => (kernStore st p.1 f p.2 a).map (fun (v : State) => if p.1.c = c then v else v.retired p.1.c)
  | none => .ok st

/-- A span whose cores all stand at their kernel with their checks passed executes it on every one of them. -/
theorem kernBody_done {u : State} {qs : List KernSide} {a : KernAcc} (hown : kernCheck s (kernSide s c x) = .ok ())
    (hstand : (kernGroup c x).map (atKernel s x) = qs.map some)
    (hready : ∀ p ∈ qs, kernCheck s p = .ok () ∧ p.rows = (kernSide s c x).rows)
    (ha : a = kernAll s qs (kernSide s c x).code (kernSide s c x).rows (kernPar s c x ((kernSide s c x).cols * KernOp.spanCores x)))
    (hstore : qs.zipIdx.foldlM (kernCore c a) s.nextFree = .ok u) :
    kernBody c x s = .done u := by
  have hall : (qs.map some).any (·.isNone) = false := by simp
  have hsides : (qs.map some).filterMap id = qs := by simp [List.filterMap_map]
  unfold kernBody
  simp only [hown, hstand, hall, hsides, Bool.false_eq_true, if_false]
  rw [if_neg ?ready]
  case ready =>
    rw [Bool.not_eq_true, List.any_eq_false]
    intro p hp
    obtain ⟨hcheck, hrows⟩ := hready p hp
    simp [hcheck, hrows]
  have hfold : ∀ f, (∀ st p, f st p = kernCore c a st p) → qs.zipIdx.foldlM f s.nextFree = .ok u := by
    intro f hf
    rwa [funext₂ hf]
  rw [← ha, hfold _ ?cores]
  case cores =>
    intro st p
    unfold kernCore
    cases (st.core p.1.c).entry with
    | none => rfl
    | some f => cases kernStore st p.1 f p.2 a <;> rfl

/-- A span that waits for a core stalls (R110, log entry 21). -/
theorem kernBody_stalls (hown : kernCheck s (kernSide s c x) = .ok ()) (hwait : ∃ d, d ∈ kernGroup c x ∧ atKernel s x d = none) :
    kernBody c x s = .stall := by
  obtain ⟨d, hd, hnone⟩ := hwait
  have hany : ((kernGroup c x).map (atKernel s x)).any (·.isNone) = true :=
    List.any_eq_true.2 ⟨none, List.mem_map.2 ⟨d, hd, hnone⟩, rfl⟩
  simp only [kernBody, hown, hany, if_true]

end

/-- Settles O39: each instruction's equation above, read at the lanes, the accumulators and the store that its clause names. -/
theorem vectorMemoryAndTaps : Obligations.VectorMemoryAndTaps := by
  refine ⟨?vld, ?vst, ?taps, ?shape, ?vred, ?vkern, ?waits⟩
  case vld =>
    rintro c off x e w s _ d rfl h hd hoff hin hheld hinside hread
    obtain ⟨t, hx, hdata⟩ := execVld_loads hd hoff hin hinside h hheld hread
    obtain ⟨hlane, -, -, hstore⟩ := Core.reads_of_data hdata
    refine ⟨t, hx, ?_, hstore.trans (Core.setLanes_rest _ _ _ _).2⟩
    intro l hl
    rw [hlane, Core.lane_setLanes]
    simp [mem_activeLanes, hl]
  case vst =>
    rintro c off x e w s u _ d rfl h hd hoff hin hheld hinside hstore
    exact execVst_stores hd hoff hin hinside h hheld hstore
  case taps =>
    rintro c r x e w s _ rfl hrow heven hle hheld
    have htap := tapRow_even hrow heven hle
    refine ⟨fun h => tapInto_lanes (fun em a _ => toFP32 em a) h hheld htap, fun h => tapInto_lanes lAdd h hheld htap, fun h => ?tapw⟩
    case tapw =>
      obtain ⟨t, hx, hacc, hclosed⟩ := execTapw_writes h hheld htap
      refine ⟨t, hx, ?_, ?_, ?_⟩
      · intro l hl hon
        rw [Core.accAt, hacc]
        exact Core.get_tapWritten _ hle hl hon
      · rw [hclosed]
        exact Core.tapClosed_open _ _ hle (.inl rfl)
      · rw [hclosed]
        exact Core.tapClosed_open _ _ hle (.inr rfl)
  case shape =>
    intro c r x e w s hrow hbad hheld h
    exact tapInto_raises (fun em a _ => toFP32 em a) h hheld (tapRow_odd_or_above hrow hbad)
  case vred =>
    rintro c len off x e w s _ d y kind ys rfl h hlen hoff hd hy hkind rfl hheld hlo hhi hcheck hsecond
    obtain ⟨t, hx, hdata⟩ := execVred_reduces h hlen hoff hd hy hkind hheld hlo hhi hcheck hsecond
    obtain ⟨hlane, -⟩ := Core.reads_of_data hdata
    refine ⟨t, hx, ?_⟩
    intro l hl
    rw [hlane, Core.lane_setLanes, if_pos (mem_lanes.2 hl)]
    rfl
  case vkern =>
    rintro c x e w s u _ qs _ h rfl hown hstand hready rfl hstore
    change execVkern c x s = _
    rw [execVkern, issue_offers h, kernBody_done hown hstand hready rfl hstore]
  case waits =>
    intro c x e w s h hown hwait
    change execVkern c x s = _
    rw [execVkern, issue_offers h, kernBody_stalls hown hwait]

end Sys2Proof.Machine
end

section
/-!
PROOFS. Core words: the layouts, the reader and the encoder (06_core_instruction_set R121 to R140).
-/

namespace Sys2Proof.Machine

section
variable {w : Word}

/-! A word and its fields: a field that is two runs of bits is each of them in its place. -/

/-- The bits of a word from bit `lo` on are those of `v`. -/
def Spells (w : Word) (lo : Nat) {n : Nat} (v : BitVec n) : Prop := fld w lo n = v

theorem spells_append_iff {lo n m : Nat} {a : BitVec n} {b : BitVec m} : Spells w lo (a ++ b) ↔ Spells w (lo + m) a ∧ Spells w lo b := by
  have hjoin : fld w lo (n + m) = fld w (lo + m) n ++ fld w lo m := (BitVec.extractLsb'_append_extractLsb'_eq_extractLsb' rfl).symm
  unfold Spells
  rw [hjoin]
  constructor
  · intro h
    have hlow := congrArg (BitVec.extractLsb' 0 m) h
    have hhigh := congrArg (BitVec.extractLsb' m n) h
    rw [BitVec.extractLsb'_append_eq_right, BitVec.extractLsb'_append_eq_right] at hlow
    rw [BitVec.extractLsb'_append_eq_left, BitVec.extractLsb'_append_eq_left] at hhigh
    exact ⟨hhigh, hlow⟩
  · rintro ⟨rfl, rfl⟩
    rfl

theorem eq_iff_spells {v : Word} : v = w ↔ Spells w 0 v := by
  rw [Spells, fld, BitVec.extractLsb'_eq_self, eq_comm]

theorem fld_one (i : Nat) : fld w i 1 = BitVec.ofBool (flag w i) := by
  refine BitVec.eq_of_getLsbD_eq (fun j hj => ?_)
  obtain rfl : j = 0 := by omega
  simp [fld, flag]

@[simp] theorem fld_eq_ofBool_iff {i : Nat} {b : Bool} : fld w i 1 = BitVec.ofBool b ↔ flag w i = b := by
  rw [fld_one]
  cases flag w i <;> cases b <;> decide

@[simp] theorem fld_one_eq_zero_iff {i : Nat} : fld w i 1 = 0#1 ↔ flag w i = false := fld_eq_ofBool_iff (b := false)

/-- The class and the operation of a word (R121). -/
theorem opOf_eq_iff {k n : Nat} (hk : k < 16) (hn : n < 256) : opOf w = (k, n) ↔ fld w 60 4 = BitVec.ofNat 4 k ∧ fld w 52 8 = BitVec.ofNat 8 n := by
  simp [opOf, ← BitVec.toNat_inj, Nat.mod_eq_of_lt hk, Nat.mod_eq_of_lt hn]

/-! The operand layouts: a word is what a layout spells where its class and operation are the layout's and its reader reads the operands off it. -/

theorem encScalar_eq_iff {op : BitVec 8} {x : ScalarOp} : encScalar op x = w ↔ opOf w = (0, op.toNat) ∧ readScalar w = some x := by
  obtain ⟨d, a, b, imm, imm32⟩ := x
  rw [eq_iff_spells, encScalar, opOf_eq_iff (by decide) op.isLt]
  repeat rw [spells_append_iff]
  simp [Spells, readScalar]
  tauto

theorem encVec_eq_iff {op : BitVec 8} {x : VecOp} : encVec op x = w ↔ opOf w = (4, op.toNat) ∧ readVec w = some x := by
  obtain ⟨vd, va, vb, vc, mask, sr, lane⟩ := x
  rw [eq_iff_spells, encVec, opOf_eq_iff (by decide) op.isLt]
  repeat rw [spells_append_iff]
  simp [Spells, readVec]
  tauto

theorem encLoad_eq_iff {op : BitVec 8} {x : LoadOp} : encLoad op x = w ↔ opOf w = (2, op.toNat) ∧ readLoad w = some x := by
  obtain ⟨dst, src, dstRow, srcRow, handle, signal⟩ := x
  rw [eq_iff_spells, encLoad, opOf_eq_iff (by decide) op.isLt]
  repeat rw [spells_append_iff]
  simp [Spells, readLoad]
  tauto

theorem encVMem_eq_iff {op : BitVec 8} {x : VMemOp} : encVMem op x = w ↔ opOf w = (4, op.toNat) ∧ readVMem w = some x := by
  obtain ⟨vd, desc, off, mask⟩ := x
  rw [eq_iff_spells, encVMem, opOf_eq_iff (by decide) op.isLt]
  repeat rw [spells_append_iff]
  simp [Spells, readVMem]
  tauto

theorem encTap_eq_iff {op : BitVec 8} {x : TapOp} : encTap op x = w ↔ opOf w = (4, op.toNat) ∧ readTap w = some x := by
  obtain ⟨vd, vs, half, row, mask⟩ := x
  rw [eq_iff_spells, encTap, opOf_eq_iff (by decide) op.isLt]
  repeat rw [spells_append_iff]
  simp [Spells, readTap]
  tauto

theorem loopWord_eq_iff {x : LoopOp} :
    (1#4 ++ 1#8 ++ x.cnt ++ BitVec.ofBool x.imm ++ x.len ++ 0#1 ++ x.count : BitVec 64) = w ↔ opOf w = (1, 1) ∧ readLoop w = some x := by
  obtain ⟨cnt, imm, len, count⟩ := x
  rw [eq_iff_spells, opOf_eq_iff (by decide) (by decide)]
  repeat rw [spells_append_iff]
  simp [Spells, readLoop]
  tauto

theorem branchWord_eq_iff {x : BranchOp} :
    (1#4 ++ 3#8 ++ x.a ++ x.b ++ x.cond ++ 0#25 ++ x.off : BitVec 64) = w ↔ opOf w = (1, 3) ∧ readBranch w = some x := by
  obtain ⟨a, b, cond, off⟩ := x
  rw [eq_iff_spells, opOf_eq_iff (by decide) (by decide)]
  repeat rw [spells_append_iff]
  simp [Spells, readBranch]
  tauto

theorem zeroWord_eq_iff {x : ZeroOp} :
    (2#4 ++ 3#8 ++ x.dst ++ 0#6 ++ x.dstRow ++ 0#4 ++ x.handle ++ BitVec.ofBool x.signal ++ 0#26 : BitVec 64) = w ↔ opOf w = (2, 3) ∧ readZero w = some x := by
  obtain ⟨dst, dstRow, handle, signal⟩ := x
  rw [eq_iff_spells, opOf_eq_iff (by decide) (by decide)]
  repeat rw [spells_append_iff]
  simp [Spells, readZero]
  tauto

theorem matWord_eq_iff {x : MatOp} :
    (3#4 ++ 1#8 ++ x.a ++ x.b ++ x.c ++ x.out ++ x.mode ++ x.ka ++ x.kb ++ 0#4 : BitVec 64) = w ↔ opOf w = (3, 1) ∧ readMat w = some x := by
  obtain ⟨a, b, c, out, mode, ka, kb⟩ := x
  rw [eq_iff_spells, opOf_eq_iff (by decide) (by decide)]
  repeat rw [spells_append_iff]
  simp [Spells, readMat]
  tauto

theorem randWord_eq_iff {x : RandOp} :
    (4#4 ++ 23#8 ++ x.vd ++ x.desc ++ x.stream ++ x.index ++ x.draw ++ 0#24 : BitVec 64) = w ↔ opOf w = (4, 23) ∧ readRand w = some x := by
  obtain ⟨vd, desc, stream, index, draw⟩ := x
  rw [eq_iff_spells, opOf_eq_iff (by decide) (by decide)]
  repeat rw [spells_append_iff]
  simp [Spells, readRand]
  tauto

theorem redWord_eq_iff {x : RedOp} :
    (4#4 ++ 64#8 ++ x.vd ++ x.x ++ x.y ++ x.kind ++ BitVec.ofBool x.a48 ++ x.len ++ x.off ++ 0#23 : BitVec 64) = w ↔ opOf w = (4, 64) ∧ readRed w = some x := by
  obtain ⟨vd, x, y, kind, a48, len, off⟩ := x
  rw [eq_iff_spells, opOf_eq_iff (by decide) (by decide)]
  repeat rw [spells_append_iff]
  simp [Spells, readRed]
  tauto

theorem kernWord_eq_iff {x : KernOp} :
    (4#4 ++ 65#8 ++ x.code ++ x.x ++ x.out ++ x.aux ++ x.span ++ BitVec.ofBool x.half ++ x.rows ++ x.param ++ 0#13 : BitVec 64) = w ↔
      opOf w = (4, 65) ∧ readKern w = some x := by
  obtain ⟨code, x, out, aux, span, half, rows, param⟩ := x
  rw [eq_iff_spells, opOf_eq_iff (by decide) (by decide)]
  repeat rw [spells_append_iff]
  simp [Spells, readKern]
  tauto

theorem sigWord_eq_iff {x : SigOp} :
    (5#4 ++ 1#8 ++ x.reg ++ BitVec.ofBool x.imm ++ x.count ++ 0#6 ++ x.handle : BitVec 64) = w ↔ opOf w = (5, 1) ∧ readSig w = some x := by
  obtain ⟨reg, imm, count, handle⟩ := x
  rw [eq_iff_spells, opOf_eq_iff (by decide) (by decide)]
  repeat rw [spells_append_iff]
  simp [Spells, readSig]
  tauto

theorem waitWord_eq_iff {x : WaitOp} :
    (5#4 ++ 2#8 ++ x.reg ++ x.target ++ BitVec.ofBool x.sleep ++ 0#9 ++ x.timeout ++ 0#16 : BitVec 64) = w ↔ opOf w = (5, 2) ∧ readWait w = some x := by
  obtain ⟨reg, target, sleep, timeout⟩ := x
  rw [eq_iff_spells, opOf_eq_iff (by decide) (by decide)]
  repeat rw [spells_append_iff]
  simp [Spells, readWait]
  tauto

theorem ovlWord_eq_iff {x : OvlOp} :
    (6#4 ++ 4#8 ++ x.dst ++ x.count ++ x.src ++ 0#8 : BitVec 64) = w ↔ opOf w = (6, 4) ∧ readOvl w = some x := by
  obtain ⟨dst, count, src⟩ := x
  rw [eq_iff_spells, opOf_eq_iff (by decide) (by decide)]
  repeat rw [spells_append_iff]
  simp [Spells, readOvl]
  tauto

theorem bareWord_eq_iff {k : BitVec 4} {op : BitVec 8} : (k ++ op ++ 0#52 : BitVec 64) = w ↔ opOf w = (k.toNat, op.toNat) ∧ fld w 0 52 = 0 := by
  rw [eq_iff_spells, opOf_eq_iff k.isLt op.isLt]
  repeat rw [spells_append_iff]
  simp [Spells]

theorem jmpWord_eq_iff {off : BitVec 14} : (1#4 ++ 4#8 ++ 0#38 ++ off : BitVec 64) = w ↔ opOf w = (1, 4) ∧ fld w 14 38 = 0 ∧ fld w 0 14 = off := by
  rw [eq_iff_spells, opOf_eq_iff (by decide) (by decide)]
  repeat rw [spells_append_iff]
  simp [Spells]
  tauto

theorem callWord_eq_iff {t : BitVec 13} : (1#4 ++ 5#8 ++ 0#39 ++ t : BitVec 64) = w ↔ opOf w = (1, 5) ∧ fld w 13 39 = 0 ∧ fld w 0 13 = t := by
  rw [eq_iff_spells, opOf_eq_iff (by decide) (by decide)]
  repeat rw [spells_append_iff]
  simp [Spells]
  tauto

theorem lidxWord_eq_iff {d : BitVec 5} {l : BitVec 2} : (1#4 ++ 7#8 ++ d ++ l ++ 0#45 : BitVec 64) = w ↔
    opOf w = (1, 7) ∧ fld w 0 45 = 0 ∧ fld w 47 5 = d ∧ fld w 45 2 = l := by
  rw [eq_iff_spells, opOf_eq_iff (by decide) (by decide)]
  repeat rw [spells_append_iff]
  simp [Spells]
  tauto

theorem dsetWord_eq_iff {t : BitVec 6} {f : BitVec 4} {r : BitVec 5} : (2#4 ++ 4#8 ++ t ++ f ++ r ++ 0#37 : BitVec 64) = w ↔
    opOf w = (2, 4) ∧ fld w 0 37 = 0 ∧ fld w 46 6 = t ∧ fld w 42 4 = f ∧ fld w 37 5 = r := by
  rw [eq_iff_spells, opOf_eq_iff (by decide) (by decide)]
  repeat rw [spells_append_iff]
  simp [Spells]
  tauto

theorem drstWord_eq_iff {t : BitVec 6} : (2#4 ++ 5#8 ++ t ++ 0#46 : BitVec 64) = w ↔ opOf w = (2, 5) ∧ fld w 0 46 = 0 ∧ fld w 46 6 = t := by
  rw [eq_iff_spells, opOf_eq_iff (by decide) (by decide)]
  repeat rw [spells_append_iff]
  simp [Spells]
  tauto

theorem infoWord_eq_iff {d : BitVec 5} {k : BitVec 4} : (6#4 ++ 3#8 ++ d ++ k ++ 0#43 : BitVec 64) = w ↔
    opOf w = (6, 3) ∧ fld w 0 43 = 0 ∧ fld w 47 5 = d ∧ fld w 43 4 = k := by
  rw [eq_iff_spells, opOf_eq_iff (by decide) (by decide)]
  repeat rw [spells_append_iff]
  simp [Spells]
  tauto

theorem statRdWord_eq_iff {d : BitVec 5} : (7#4 ++ 1#8 ++ d ++ 0#47 : BitVec 64) = w ↔ opOf w = (7, 1) ∧ fld w 0 47 = 0 ∧ fld w 47 5 = d := by
  rw [eq_iff_spells, opOf_eq_iff (by decide) (by decide)]
  repeat rw [spells_append_iff]
  simp [Spells]
  tauto

theorem statClrWord_eq_iff {m : BitVec 8} : (7#4 ++ 2#8 ++ 0#44 ++ m : BitVec 64) = w ↔ opOf w = (7, 2) ∧ fld w 8 44 = 0 ∧ fld w 0 8 = m := by
  rw [eq_iff_spells, opOf_eq_iff (by decide) (by decide)]
  repeat rw [spells_append_iff]
  simp [Spells]
  tauto

theorem statCapWord_eq_iff {v : BitVec 7} : (7#4 ++ 3#8 ++ 0#45 ++ v : BitVec 64) = w ↔ opOf w = (7, 3) ∧ fld w 7 45 = 0 ∧ fld w 0 7 = v := by
  rw [eq_iff_spells, opOf_eq_iff (by decide) (by decide)]
  repeat rw [spells_append_iff]
  simp [Spells]
  tauto

theorem feRdWord_eq_iff {d : BitVec 5} {x : BitVec 3} : (7#4 ++ 4#8 ++ d ++ x ++ 0#44 : BitVec 64) = w ↔
    opOf w = (7, 4) ∧ fld w 0 44 = 0 ∧ fld w 47 5 = d ∧ fld w 44 3 = x := by
  rw [eq_iff_spells, opOf_eq_iff (by decide) (by decide)]
  repeat rw [spells_append_iff]
  simp [Spells]
  tauto

theorem markWord_eq_iff {v : BitVec 5} {m : BitVec 16} : (7#4 ++ 5#8 ++ v ++ 0#31 ++ m : BitVec 64) = w ↔
    opOf w = (7, 5) ∧ fld w 16 31 = 0 ∧ fld w 47 5 = v ∧ fld w 0 16 = m := by
  rw [eq_iff_spells, opOf_eq_iff (by decide) (by decide)]
  repeat rw [spells_append_iff]
  simp [Spells]
  tauto

theorem raiseWord_eq_iff {m : BitVec 16} : (7#4 ++ 6#8 ++ 0#36 ++ m : BitVec 64) = w ↔ opOf w = (7, 6) ∧ fld w 16 36 = 0 ∧ fld w 0 16 = m := by
  rw [eq_iff_spells, opOf_eq_iff (by decide) (by decide)]
  repeat rw [spells_append_iff]
  simp [Spells]
  tauto

/-! The table of instructions. -/

/-- The word of an instruction is read as that instruction, on its own core. -/
theorem readWord_of_encodeWord {i : Instr} (h : encodeWord i = some w) : ∃ c, readWord c w = some i := by
  cases i with
  | add c x | sub c x | mul c x | andOp c x | orOp c x | xor c x | shl c x
  | shr c x | sra c x | minOp c x | maxOp c x | seq c x | slt c x | sltu c x | lui c x | adda c x | mova c x | movs c x =>
    obtain ⟨hop, hx⟩ := encScalar_eq_iff.1 (Option.some.inj h)
    exact ⟨c, by rw [readWord, hop]; exact congrArg (Option.map _) hx⟩
  | loopStart c x =>
    obtain ⟨hop, hx⟩ := loopWord_eq_iff.1 (Option.some.inj h)
    exact ⟨c, by rw [readWord, hop]; exact congrArg (Option.map _) hx⟩
  | br c x =>
    obtain ⟨hop, hx⟩ := branchWord_eq_iff.1 (Option.some.inj h)
    exact ⟨c, by rw [readWord, hop]; exact congrArg (Option.map _) hx⟩
  | ld c x | ldadd c x =>
    obtain ⟨hop, hx⟩ := encLoad_eq_iff.1 (Option.some.inj h)
    exact ⟨c, by rw [readWord, hop]; exact congrArg (Option.map _) hx⟩
  | ldzero c x =>
    obtain ⟨hop, hx⟩ := zeroWord_eq_iff.1 (Option.some.inj h)
    exact ⟨c, by rw [readWord, hop]; exact congrArg (Option.map _) hx⟩
  | mm c x =>
    obtain ⟨hop, hx⟩ := matWord_eq_iff.1 (Option.some.inj h)
    exact ⟨c, by rw [readWord, hop]; exact congrArg (Option.map _) hx⟩
  | vadd c x | vsub c x | vmul c x | vfma c x | vmin c x | vmax c x | vabs c x | vneg c x | vcmpeq c x | vcmplt c x | vcmple c x
  | vsel c x | vrcp c x | vrsq c x | vexp2 c x | vlog2 c x | vexp c x | vlog c x
  | vsexp c x | vbcast c x | vextr c x | vu2f c x =>
    obtain ⟨hop, hx⟩ := encVec_eq_iff.1 (Option.some.inj h)
    exact ⟨c, by rw [readWord, hop]; exact congrArg (Option.map _) hx⟩
  | vrand c x =>
    obtain ⟨hop, hx⟩ := randWord_eq_iff.1 (Option.some.inj h)
    exact ⟨c, by rw [readWord, hop]; exact congrArg (Option.map _) hx⟩
  | vld c x | vst c x =>
    obtain ⟨hop, hx⟩ := encVMem_eq_iff.1 (Option.some.inj h)
    exact ⟨c, by rw [readWord, hop]; exact congrArg (Option.map _) hx⟩
  | tapr c x | tapa c x | tapw c x =>
    obtain ⟨hop, hx⟩ := encTap_eq_iff.1 (Option.some.inj h)
    exact ⟨c, by rw [readWord, hop]; exact congrArg (Option.map _) hx⟩
  | vred c x =>
    obtain ⟨hop, hx⟩ := redWord_eq_iff.1 (Option.some.inj h)
    exact ⟨c, by rw [readWord, hop]; exact congrArg (Option.map _) hx⟩
  | vkern c x =>
    obtain ⟨hop, hx⟩ := kernWord_eq_iff.1 (Option.some.inj h)
    exact ⟨c, by rw [readWord, hop]; exact congrArg (Option.map _) hx⟩
  | sig c x =>
    obtain ⟨hop, hx⟩ := sigWord_eq_iff.1 (Option.some.inj h)
    exact ⟨c, by rw [readWord, hop]; exact congrArg (Option.map _) hx⟩
  | wait c x =>
    obtain ⟨hop, hx⟩ := waitWord_eq_iff.1 (Option.some.inj h)
    exact ⟨c, by rw [readWord, hop]; exact congrArg (Option.map _) hx⟩
  | ovl c x =>
    obtain ⟨hop, hx⟩ := ovlWord_eq_iff.1 (Option.some.inj h)
    exact ⟨c, by rw [readWord, hop]; exact congrArg (Option.map _) hx⟩
  | breakLoop c | retSub c | endEntry c | clauseFence c =>
    obtain ⟨hop, hz⟩ := bareWord_eq_iff.1 (Option.some.inj h)
    exact ⟨c, by rw [readWord, hop]; exact if_pos hz⟩
  | jmp c =>
    obtain ⟨hop, hz, rfl⟩ := jmpWord_eq_iff.1 (Option.some.inj h)
    exact ⟨c, by rw [readWord, hop]; exact if_pos hz⟩
  | callSub c =>
    obtain ⟨hop, hz, rfl⟩ := callWord_eq_iff.1 (Option.some.inj h)
    exact ⟨c, by rw [readWord, hop]; exact if_pos hz⟩
  | lidx c =>
    obtain ⟨hop, hz, rfl, rfl⟩ := lidxWord_eq_iff.1 (Option.some.inj h)
    exact ⟨c, by rw [readWord, hop]; exact if_pos hz⟩
  | dset c =>
    obtain ⟨hop, hz, rfl, rfl, rfl⟩ := dsetWord_eq_iff.1 (Option.some.inj h)
    exact ⟨c, by rw [readWord, hop]; exact if_pos hz⟩
  | drst c =>
    obtain ⟨hop, hz, rfl⟩ := drstWord_eq_iff.1 (Option.some.inj h)
    exact ⟨c, by rw [readWord, hop]; exact if_pos hz⟩
  | info c =>
    obtain ⟨hop, hz, rfl, rfl⟩ := infoWord_eq_iff.1 (Option.some.inj h)
    exact ⟨c, by rw [readWord, hop]; exact if_pos hz⟩
  | statRd c =>
    obtain ⟨hop, hz, rfl⟩ := statRdWord_eq_iff.1 (Option.some.inj h)
    exact ⟨c, by rw [readWord, hop]; exact if_pos hz⟩
  | statClr c =>
    obtain ⟨hop, hz, rfl⟩ := statClrWord_eq_iff.1 (Option.some.inj h)
    exact ⟨c, by rw [readWord, hop]; exact if_pos hz⟩
  | statCap c =>
    obtain ⟨hop, hz, rfl⟩ := statCapWord_eq_iff.1 (Option.some.inj h)
    exact ⟨c, by rw [readWord, hop]; exact if_pos hz⟩
  | feRd c =>
    obtain ⟨hop, hz, rfl, rfl⟩ := feRdWord_eq_iff.1 (Option.some.inj h)
    exact ⟨c, by rw [readWord, hop]; exact if_pos hz⟩
  | mark c =>
    obtain ⟨hop, hz, rfl, rfl⟩ := markWord_eq_iff.1 (Option.some.inj h)
    exact ⟨c, by rw [readWord, hop]; exact if_pos hz⟩
  | raise c =>
    obtain ⟨hop, hz, rfl⟩ := raiseWord_eq_iff.1 (Option.some.inj h)
    exact ⟨c, by rw [readWord, hop]; exact if_pos hz⟩
  | _ => cases h

/-- A row of the table: the number is the row's, and the row gives the value, or the number is another and the rows after it give the value. -/
theorem row_or_later {n a : Nat} {row : n = a → Option Instr} {later : n ≠ a → Option Instr} {i : Instr} (h : dite (n = a) row later = some i) :
    (∃ e, row e = some i) ∨ ∃ e, later e = some i := by
  split at h
  · exact .inl ⟨_, h⟩
  · exact .inr ⟨_, h⟩

/-- A row that reads the operands of a layout. -/
theorem encodeWord_of_map {X : Type} {o : Option X} {mk : X → Instr} {i : Instr} (h : o.map mk = some i) (hw : ∀ x, o = some x → encodeWord (mk x) = some w) :
    encodeWord i = some w := by
  obtain ⟨x, hx, rfl⟩ := Option.map_eq_some_iff.1 h
  exact hw x hx

/-- A row whose operands stand as they are, beside bits that must be zero. -/
theorem encodeWord_of_ite {p : Prop} [Decidable p] {j i : Instr} (h : (if p then some j else none) = some i) (hw : p → encodeWord j = some w) :
    encodeWord i = some w := by
  obtain ⟨hz, hj⟩ := Option.ite_none_right_eq_some.1 h
  obtain rfl := Option.some.inj hj
  exact hw hz

/-- A word that is read as an instruction is the word of that instruction. The table is gone through class by class and row by row, along its own
tree of choices: a split of its 74 rows at once costs too much. -/
theorem encodeWord_of_readWord {c : Nat} {i : Instr} (h : readWord c w = some i) : encodeWord i = some w := by
  unfold readWord readWord.match_1 at h
  rcases hop : opOf w with ⟨k, n⟩
  rw [hop] at h
  -- The scalar class.
  obtain ⟨rfl, h⟩ | ⟨-, h⟩ := row_or_later h
  · iterate 18
      obtain ⟨rfl, h⟩ | ⟨-, h⟩ := row_or_later h
      · exact encodeWord_of_map h (fun x hx => congrArg some (encScalar_eq_iff.2 ⟨hop, hx⟩))
    cases h
  -- The sequencer.
  obtain ⟨rfl, h⟩ | ⟨-, h⟩ := row_or_later h
  · obtain ⟨rfl, h⟩ | ⟨-, h⟩ := row_or_later h
    · exact encodeWord_of_map h (fun x hx => congrArg some (loopWord_eq_iff.2 ⟨hop, hx⟩))
    obtain ⟨rfl, h⟩ | ⟨-, h⟩ := row_or_later h
    · exact encodeWord_of_ite h (fun hz => congrArg some (bareWord_eq_iff.2 ⟨hop, hz⟩))
    obtain ⟨rfl, h⟩ | ⟨-, h⟩ := row_or_later h
    · exact encodeWord_of_map h (fun x hx => congrArg some (branchWord_eq_iff.2 ⟨hop, hx⟩))
    obtain ⟨rfl, h⟩ | ⟨-, h⟩ := row_or_later h
    · exact encodeWord_of_ite h (fun hz => congrArg some (jmpWord_eq_iff.2 ⟨hop, hz, rfl⟩))
    obtain ⟨rfl, h⟩ | ⟨-, h⟩ := row_or_later h
    · exact encodeWord_of_ite h (fun hz => congrArg some (callWord_eq_iff.2 ⟨hop, hz, rfl⟩))
    obtain ⟨rfl, h⟩ | ⟨-, h⟩ := row_or_later h
    · exact encodeWord_of_ite h (fun hz => congrArg some (bareWord_eq_iff.2 ⟨hop, hz⟩))
    obtain ⟨rfl, h⟩ | ⟨-, h⟩ := row_or_later h
    · exact encodeWord_of_ite h (fun hz => congrArg some (lidxWord_eq_iff.2 ⟨hop, hz, rfl, rfl⟩))
    cases h
  -- The load class.
  obtain ⟨rfl, h⟩ | ⟨-, h⟩ := row_or_later h
  · iterate 2
      obtain ⟨rfl, h⟩ | ⟨-, h⟩ := row_or_later h
      · exact encodeWord_of_map h (fun x hx => congrArg some (encLoad_eq_iff.2 ⟨hop, hx⟩))
    obtain ⟨rfl, h⟩ | ⟨-, h⟩ := row_or_later h
    · exact encodeWord_of_map h (fun x hx => congrArg some (zeroWord_eq_iff.2 ⟨hop, hx⟩))
    obtain ⟨rfl, h⟩ | ⟨-, h⟩ := row_or_later h
    · exact encodeWord_of_ite h (fun hz => congrArg some (dsetWord_eq_iff.2 ⟨hop, hz, rfl, rfl, rfl⟩))
    obtain ⟨rfl, h⟩ | ⟨-, h⟩ := row_or_later h
    · exact encodeWord_of_ite h (fun hz => congrArg some (drstWord_eq_iff.2 ⟨hop, hz, rfl⟩))
    cases h
  -- The matrix class.
  obtain ⟨rfl, h⟩ | ⟨-, h⟩ := row_or_later h
  · obtain ⟨rfl, h⟩ | ⟨-, h⟩ := row_or_later h
    · exact encodeWord_of_map h (fun x hx => congrArg some (matWord_eq_iff.2 ⟨hop, hx⟩))
    cases h
  -- The vector class.
  obtain ⟨rfl, h⟩ | ⟨-, h⟩ := row_or_later h
  · iterate 22
      obtain ⟨rfl, h⟩ | ⟨-, h⟩ := row_or_later h
      · exact encodeWord_of_map h (fun x hx => congrArg some (encVec_eq_iff.2 ⟨hop, hx⟩))
    obtain ⟨rfl, h⟩ | ⟨-, h⟩ := row_or_later h
    · exact encodeWord_of_map h (fun x hx => congrArg some (randWord_eq_iff.2 ⟨hop, hx⟩))
    iterate 2
      obtain ⟨rfl, h⟩ | ⟨-, h⟩ := row_or_later h
      · exact encodeWord_of_map h (fun x hx => congrArg some (encVMem_eq_iff.2 ⟨hop, hx⟩))
    iterate 3
      obtain ⟨rfl, h⟩ | ⟨-, h⟩ := row_or_later h
      · exact encodeWord_of_map h (fun x hx => congrArg some (encTap_eq_iff.2 ⟨hop, hx⟩))
    obtain ⟨rfl, h⟩ | ⟨-, h⟩ := row_or_later h
    · exact encodeWord_of_map h (fun x hx => congrArg some (redWord_eq_iff.2 ⟨hop, hx⟩))
    obtain ⟨rfl, h⟩ | ⟨-, h⟩ := row_or_later h
    · exact encodeWord_of_map h (fun x hx => congrArg some (kernWord_eq_iff.2 ⟨hop, hx⟩))
    cases h
  -- The synchronization class.
  obtain ⟨rfl, h⟩ | ⟨-, h⟩ := row_or_later h
  · obtain ⟨rfl, h⟩ | ⟨-, h⟩ := row_or_later h
    · exact encodeWord_of_map h (fun x hx => congrArg some (sigWord_eq_iff.2 ⟨hop, hx⟩))
    obtain ⟨rfl, h⟩ | ⟨-, h⟩ := row_or_later h
    · exact encodeWord_of_map h (fun x hx => congrArg some (waitWord_eq_iff.2 ⟨hop, hx⟩))
    cases h
  -- Clause control.
  obtain ⟨rfl, h⟩ | ⟨-, h⟩ := row_or_later h
  · iterate 2
      obtain ⟨rfl, h⟩ | ⟨-, h⟩ := row_or_later h
      · exact encodeWord_of_ite h (fun hz => congrArg some (bareWord_eq_iff.2 ⟨hop, hz⟩))
    obtain ⟨rfl, h⟩ | ⟨-, h⟩ := row_or_later h
    · exact encodeWord_of_ite h (fun hz => congrArg some (infoWord_eq_iff.2 ⟨hop, hz, rfl, rfl⟩))
    obtain ⟨rfl, h⟩ | ⟨-, h⟩ := row_or_later h
    · exact encodeWord_of_map h (fun x hx => congrArg some (ovlWord_eq_iff.2 ⟨hop, hx⟩))
    cases h
  -- The status class.
  obtain ⟨rfl, h⟩ | ⟨-, h⟩ := row_or_later h
  · obtain ⟨rfl, h⟩ | ⟨-, h⟩ := row_or_later h
    · exact encodeWord_of_ite h (fun hz => congrArg some (statRdWord_eq_iff.2 ⟨hop, hz, rfl⟩))
    obtain ⟨rfl, h⟩ | ⟨-, h⟩ := row_or_later h
    · exact encodeWord_of_ite h (fun hz => congrArg some (statClrWord_eq_iff.2 ⟨hop, hz, rfl⟩))
    obtain ⟨rfl, h⟩ | ⟨-, h⟩ := row_or_later h
    · exact encodeWord_of_ite h (fun hz => congrArg some (statCapWord_eq_iff.2 ⟨hop, hz, rfl⟩))
    obtain ⟨rfl, h⟩ | ⟨-, h⟩ := row_or_later h
    · exact encodeWord_of_ite h (fun hz => congrArg some (feRdWord_eq_iff.2 ⟨hop, hz, rfl, rfl⟩))
    obtain ⟨rfl, h⟩ | ⟨-, h⟩ := row_or_later h
    · exact encodeWord_of_ite h (fun hz => congrArg some (markWord_eq_iff.2 ⟨hop, hz, rfl, rfl⟩))
    obtain ⟨rfl, h⟩ | ⟨-, h⟩ := row_or_later h
    · exact encodeWord_of_ite h (fun hz => congrArg some (raiseWord_eq_iff.2 ⟨hop, hz, rfl⟩))
    cases h
  cases h

/-- A word decodes to the instructions that encode to it and whose values are allowed. -/
theorem decodeWord_eq_some_iff {c : Nat} {i : Instr} : decodeWord c w = some i ↔ readWord c w = some i ∧ i.wellFormed = true := by
  unfold decodeWord
  cases readWord c w with
  | none => simp
  | some j =>
    simp only [Option.ite_none_right_eq_some, Option.some.injEq]
    constructor
    · rintro ⟨hj, rfl⟩
      exact ⟨rfl, hj⟩
    · rintro ⟨rfl, hj⟩
      exact ⟨hj, rfl⟩

end

/-- Settles O56: reading and encoding agree layout by layout, so a word that decodes is the one word of its instruction. -/
theorem coreWordsRoundTrip : Obligations.CoreWordsRoundTrip := by
  have hencodes : ∀ (c : Nat) (i : Instr) (w : Word), decodeWord c w = some i → encodeWord i = some w ∧ i.wellFormed = true := by
    intro c i w h
    obtain ⟨hread, hok⟩ := decodeWord_eq_some_iff.1 h
    exact ⟨encodeWord_of_readWord hread, hok⟩
  refine ⟨?decodes, hencodes, ?unique⟩
  case decodes =>
    intro i w h hok
    obtain ⟨c, hread⟩ := readWord_of_encodeWord h
    exact ⟨c, decodeWord_eq_some_iff.2 ⟨hread, hok⟩⟩
  case unique =>
    intro c i v w hv hw
    exact Option.some.inj ((hencodes c i v hv).1.symm.trans (hencodes c i w hw).1)

end Sys2Proof.Machine
end

section
/-!
PROOFS. Scalar instructions (06_core_instruction_set R123): what each writes, and what it leaves.
-/

namespace Sys2Proof.Machine

/-- A choice by a signed comparison of words is the choice by the integers they spell. -/
theorem ite_slt {a b x y : Word} : (if a.slt b then x else y) = if a.toInt < b.toInt then x else y := by
  by_cases h : a.toInt < b.toInt
  · rw [if_pos h, if_pos (BitVec.slt_iff_toInt_lt.2 h)]
  · rw [if_neg h, if_neg (mt BitVec.slt_iff_toInt_lt.1 h)]

/-- The same, unsigned. -/
theorem ite_ult {a b x y : Word} : (if a.ult b then x else y) = if a.toNat < b.toNat then x else y := by
  by_cases h : a.toNat < b.toNat
  · rw [if_pos h, if_pos (BitVec.ult_iff_toNat_lt.2 h)]
  · rw [if_neg h, if_neg (mt BitVec.ult_iff_toNat_lt.1 h)]

/-- An instruction that combines its operands writes the result to its destination. -/
theorem issueReg_scalarOp {s : State} {c : Nat} {i : Instr} {e : EntryRun} {w : Word} {x : ScalarOp} {f : Word → Word → Word} {v : Word} (h : s.offers c i e w)
    (hv : f ((s.core c).s x.a) (secondOf x (s.core c)) = v) : issueReg c i (scalarOp f x) s = .next (s.leaves c ((s.core c).setS x.d v)) := by
  rw [issueReg_offers h, scalarOp, hv]

/-- Settles O30. The comparisons are stated on integers and naturals, and the model makes them on bit vectors; the others are what the model writes. -/
theorem scalarInstructions : Obligations.ScalarInstructions := by
  constructor
  · rintro c x e w s _ _ _ rfl rfl rfl
    exact ⟨fun h => issueReg_scalarOp h rfl, fun h => issueReg_scalarOp h rfl, fun h => issueReg_scalarOp h rfl, fun h => issueReg_scalarOp h rfl,
      fun h => issueReg_scalarOp h rfl, fun h => issueReg_scalarOp h rfl, fun h => issueReg_scalarOp h rfl, fun h => issueReg_scalarOp h rfl,
      fun h => issueReg_scalarOp h rfl⟩
  · rintro c x e w s _ _ _ rfl rfl rfl
    refine ⟨?min, ?max, ?seq, ?slt, ?sltu, fun h => issueReg_offers h _, fun h => issueReg_offers h _, fun h => issueReg_offers h _, fun h => issueReg_offers h _⟩
    case min => exact fun h => issueReg_scalarOp h ite_slt
    case max => exact fun h => issueReg_scalarOp h ite_slt
    case seq => exact fun h => issueReg_scalarOp h (by simp [boolWord, secondOf])
    case slt => exact fun h => issueReg_scalarOp h ite_slt
    case sltu => exact fun h => issueReg_scalarOp h ite_ult

/-- A scalar instruction whose destination is a scalar register writes that register only. -/
theorem exec_scalar_setS {i : Instr} {c : Nat} {x : ScalarOp} {e : EntryRun} {w : Word} {s : State}
    (hi : i ∈ [.add c x, .sub c x, .mul c x, .andOp c x, .orOp c x, .xor c x, .shl c x, .shr c x, .sra c x, .minOp c x, .maxOp c x, .seq c x, .slt c x,
      .sltu c x, .lui c x, .movs c x]) (h : s.offers c i e w) : ∃ v, exec i s = .next (s.leaves c ((s.core c).setS x.d v)) := by
  simp only [List.mem_cons, List.not_mem_nil, or_false] at hi
  rcases hi with rfl | rfl | rfl | rfl | rfl | rfl | rfl | rfl | rfl | rfl | rfl | rfl | rfl | rfl | rfl | rfl <;> exact ⟨_, issueReg_offers h _⟩

/-- ADDA and MOVA write their address register only. -/
theorem exec_address_setA {i : Instr} {c : Nat} {x : ScalarOp} {e : EntryRun} {w : Word} {s : State} (hi : i = .adda c x ∨ i = .mova c x) (h : s.offers c i e w) :
    ∃ v, exec i s = .next (s.leaves c ((s.core c).setA (x.d.setWidth 4) v)) := by
  rcases hi with rfl | rfl <;> exact ⟨_, issueReg_offers h _⟩

/-- Counting an instruction keeps what a scalar register reads. -/
@[simp] theorem Core.s_retire (k : Core) (t : Option Nat) (r : BitVec 5) : (k.retire t).s r = k.s r := by
  obtain ⟨hs, -⟩ := Core.retire_rest k t
  simp [Core.s, hs]

@[simp] theorem Core.a_retire (k : Core) (t : Option Nat) (r : BitVec 4) : (k.retire t).a r = k.a r := by
  obtain ⟨-, ha, -⟩ := Core.retire_rest k t
  simp [Core.a, ha]

/-- What no scalar instruction touches: of its own core, and outside it. -/
def State.keepsBeside (s : State) (c : Nat) (t : State) : Prop :=
  (t.core c).vregs = (s.core c).vregs ∧ (t.core c).masks = (s.core c).masks ∧ (t.core c).descs = (s.core c).descs ∧ (t.core c).acc = (s.core c).acc
    ∧ (t.core c).status = (s.core c).status ∧ (t.core c).first = (s.core c).first ∧ (t.core c).exc = (s.core c).exc ∧ (t.core c).store = (s.core c).store
    ∧ (∀ d, d ≠ c → t.core d = s.core d) ∧ t.mem = s.mem ∧ t.sync = s.sync ∧ t.pending = s.pending

theorem State.keepsBeside_setS (s : State) (c : Nat) (d : BitVec 5) (v : Word) : s.keepsBeside c (s.leaves c ((s.core c).setS d v)) := by
  obtain ⟨-, hdescs, hvregs, hmasks, hacc, hstatus, hfirst, hexc, hstore, -⟩ := Core.setS_rest (s.core c) d v
  obtain ⟨-, -, rdescs, rvregs, rmasks, racc, -, rstatus, rfirst, rexc, rstore, -⟩ := Core.retire_rest ((s.core c).setS d v) none
  refine ⟨?_, ?_, ?_, ?_, ?_, ?_, ?_, ?_, fun _ hd => State.core_leaves_other _ _ hd, rfl, rfl, rfl⟩ <;> simp_all

theorem State.keepsBeside_setA (s : State) (c : Nat) (d : BitVec 4) (v : Word) : s.keepsBeside c (s.leaves c ((s.core c).setA d v)) := by
  obtain ⟨-, hdescs, hvregs, hmasks, hacc, hstatus, hfirst, hexc, hstore, -⟩ := Core.setA_rest (s.core c) d v
  obtain ⟨-, -, rdescs, rvregs, rmasks, racc, -, rstatus, rfirst, rexc, rstore, -⟩ := Core.retire_rest ((s.core c).setA d v) none
  refine ⟨?_, ?_, ?_, ?_, ?_, ?_, ?_, ?_, fun _ hd => State.core_leaves_other _ _ hd, rfl, rfl, rfl⟩ <;> simp_all

/-- Settles O31: sixteen of the eighteen write one scalar register and the other two one address register. -/
theorem scalarFrame : Obligations.ScalarFrame := by
  intro i c x e w s t hi h ht
  by_cases haddr : i = .adda c x ∨ i = .mova c x
  · obtain ⟨v, hv⟩ := exec_address_setA haddr h
    obtain rfl := Host.Outcome.next.inj (hv.symm.trans ht)
    refine ⟨rfl, fun r _ => ?_, fun r hr => ?_, State.keepsBeside_setA ..⟩
    · simp [Core.s_setA]
    · have hne : r ≠ x.d.setWidth 4 := hr.resolve_right (not_not.2 haddr)
      simp [Core.a_setA, hne]
  · obtain ⟨v, hv⟩ := exec_scalar_setS (i := i) (x := x) (by simp only [List.mem_cons] at hi ⊢; tauto) h
    obtain rfl := Host.Outcome.next.inj (hv.symm.trans ht)
    refine ⟨rfl, fun r hr => ?_, fun r _ => ?_, State.keepsBeside_setS ..⟩
    · have hne : r ≠ x.d := hr.resolve_right haddr
      simp [Core.s_setS, hne]
    · simp [Core.a_setS]

end Sys2Proof.Machine
end

section
/-!
PROOFS. What an exception leaves (06_core_instruction_set R145, R146).
-/

namespace Sys2Proof.Machine

@[simp] theorem State.core_log (s : State) (n : Note) (c : Nat) : (s.log n).core c = s.core c := rfl
@[simp] theorem State.core_failStep (s : State) (n mask c : Nat) : (s.failStep n mask).core c = s.core c := rfl
@[simp] theorem State.log_mem (s : State) (n : Note) : (s.log n).mem = s.mem := rfl
@[simp] theorem State.log_sync (s : State) (n : Note) : (s.log n).sync = s.sync := rfl
@[simp] theorem State.failStep_mem (s : State) (n mask : Nat) : (s.failStep n mask).mem = s.mem := rfl
@[simp] theorem State.failStep_sync (s : State) (n mask : Nat) : (s.failStep n mask).sync = s.sync := rfl
@[simp] theorem State.setCore_mem (s : State) (c : Nat) (k : Core) : (s.setCore c k).mem = s.mem := rfl
@[simp] theorem State.setCore_sync (s : State) (c : Nat) (k : Core) : (s.setCore c k).sync = s.sync := rfl

/-- The record of an exception (R146). -/
def excRecord (s : State) (c : Nat) (e : EntryRun) (code detail index : Nat) (w : Word) : ExcRecord :=
  { code := code, cls := bits w.toNat 63 60, clause := e.clause, index := index, word := w, step := e.step, core := c, entry := e.object,
    detail := detail % 2 ^ 32, ref := s.clk.ref, window := e.window, sregs := (s.core c).sregs, aregs := (s.core c).aregs,
    loops := (s.core c).loops, calls := (s.core c).calls }

/-- A core whose entry an exception has stopped (R145), with the record it holds then. -/
def Core.stoppedBy (k : Core) (e : EntryRun) (code : Nat) (record : Option ExcRecord) : Core :=
  { k with exc := record, entry := some { e.digest (mixNat (2 ^ 63 + code)) with stopped := true }, wait := none }

/-- A code below 256 says nothing of an uncorrectable codeword: the exception stops its core's entry, and memory and the sync objects stand. -/
theorem State.raiseExc_spec {s : State} {c : Nat} {e : EntryRun} {code detail index : Nat} {w : Word} (hcode : code < 256) :
    (s.raiseExc c e code detail index w).core c = (s.core c).stoppedBy e code
      (if replacesExc (s.core c).exc e.window e.object index then some (excRecord s c e code detail index w) else (s.core c).exc)
    ∧ (s.raiseExc c e code detail index w).mem = s.mem ∧ (s.raiseExc c e code detail index w).sync = s.sync := by
  have hself : code % 256 = code := Nat.mod_eq_of_lt hcode
  have hwhere : code / 256 % 4 = 0 := by omega
  have hplace : code / 1024 = 0 := by omega
  have hnote : s.noteUeAt c e.step (code / 256 % 4) (code / 1024) = s := by rw [hwhere, hplace]; rfl
  unfold State.raiseExc
  rw [hnote, hself]
  refine ⟨?core, ?mem, ?sync⟩
  case core => simp only [apply_ite (fun u : State => u.core c), State.core_log, State.core_failStep, State.core_setCore_same, ite_self]; rfl
  case mem => simp only [apply_ite State.mem, State.log_mem, State.failStep_mem, State.setCore_mem, ite_self]
  case sync => simp only [apply_ite State.sync, State.log_sync, State.failStep_sync, State.setCore_sync, ite_self]

/-- Issue stops at the instruction (R145). -/
theorem Core.stoppedBy_entry (k : Core) (e : EntryRun) (code : Nat) (record : Option ExcRecord) :
    ∃ e', (k.stoppedBy e code record).entry = some e' ∧ e'.stopped = true ∧ e'.pc = e.pc ∧ e'.issued = e.issued := by
  cases e
  exact ⟨_, rfl, rfl, rfl, rfl⟩

theorem replacesExc_none {window entry index : Nat} : replacesExc none window entry index = true := rfl

/-- Settles O35: the codes of the model are bytes, so an exception writes its core only, and a core without a record takes the new one. -/
theorem exceptionRecord : Obligations.ExceptionRecord := by
  rintro c e code detail index w s _ hcode hnone rfl
  obtain ⟨hcore, hmem, -⟩ := State.raiseExc_spec (s := s) (c := c) (e := e) (detail := detail) (index := index) (w := w) hcode
  rw [hnone, replacesExc_none, if_pos rfl] at hcore
  have hw : w.toNat < 2 ^ 64 := w.isLt
  have hclass : bits w.toNat 63 60 = w.toNat / 2 ^ 60 := by
    rw [bits]
    omega
  rw [hcore, hmem]
  exact ⟨Core.stoppedBy_entry .., rfl,
    ⟨_, rfl, rfl, hclass, rfl, rfl, rfl, rfl, rfl, rfl, rfl, rfl, rfl, rfl, rfl, rfl⟩, rfl, rfl, rfl, rfl⟩

end Sys2Proof.Machine
end

section
/-!
PROOFS. LDZERO on an atom without data (06_core_instruction_set R128; 08_memory_system R194): the statement about load and descriptor instructions fails.
-/

namespace Sys2Proof.Machine

/-- The place whose bytes LDZERO has written, and whose wholly written atoms hold data again (R194). -/
def State.zeroed (s : State) (pd : Place) (d : Desc) (is : List Nat) : State :=
  let v := (is.flatMap d.spans).foldl (fun q sp => q.writePlace pd sp.1 (zeros sp.2)) s
  State.mendPlace (match pd with
    | .recast b _ => v.withMem { v.mem with recast := is.foldl (fun m i => SMap.insert m (b + d.addr i) (0, 0)) v.mem.recast }
    | _ => v) pd (is.flatMap d.spans)

/-- LDZERO on a destination that passes its checks (R128). -/
theorem execLdzero_zeroed {c : Nat} {x : ZeroOp} {e : EntryRun} {w : Word} {s : State} {d : Desc} {pd : Place} {key : Option Nat} (h : s.offers c (.ldzero c x) e w)
    (hd : d = Desc.parse ((s.core c).desc x.dst.toNat)) (hheld : loadHeld (s.core c) x.dst.toNat none = false)
    (hdest : destCheck s c e x.dst.toNat d ((s.core c).a x.dstRow).toNat = .ok pd) (hkey : completionKey s c x.signal ((s.core c).s x.handle) = .ok key) :
    ∃ q : LoadRun, execLdzero c x s = .next (
      (((s.zeroed pd (d.move ((s.core c).a x.dstRow).toNat) (elems 0 d.count)).pushLoad c q).digestLines c d.space pd q.lines).retired c) := by
  subst hd
  rw [execLdzero, issue_offers h]
  simp only [hheld, hdest, hkey]
  exact ⟨_, rfl⟩

@[simp] theorem State.pushLoad_mem (s : State) (c : Nat) (q : LoadRun) : (s.pushLoad c q).mem = s.mem := rfl
@[simp] theorem State.retired_mem (s : State) (c : Nat) : (s.retired c).mem = s.mem := rfl
@[simp] theorem State.digestLines_mem (s : State) (c space : Nat) (p : Place) (lines : List Nat) : (s.digestLines c space p lines).mem = s.mem := by
  unfold State.digestLines
  split
  · rfl
  · split <;> rfl

/-! A core whose LDZERO writes the first 256 bytes of a region, the bytes of an atom that holds no data. -/

def zeroAtom : ZeroOp := { dst := 0, dstRow := 0, handle := 0, signal := false }

/-- 32 A48 elements from the start of region 1, as *Tensor descriptor* lays them out. -/
def zeroAtomDesc : Bytes :=
  leBytes 4 5 ++ leBytes 1 0xC ++ zeros 1 ++ leBytes 1 4 ++ zeros 2 ++ leBytes 1 1 ++ leBytes 2 1 ++ zeros 4 ++ leBytes 8 0 ++ zeros 8
    ++ leBytes 4 32 ++ leBytes 4 1 ++ leBytes 4 1 ++ leBytes 4 1 ++ zeros 16

def zeroAtomWord : Word := (encodeWord (.ldzero 0 zeroAtom)).getD 0

def zeroAtomImage : Image := { tag := 5, entries := [(0, 0)], descs := [], resident := [zeroAtomWord], overlay := [] }

def zeroAtomRun : EntryRun :=
  { kind := .training 0, step := 3, window := 3, clause := 0, tableKey := 3 * 65536, object := 0, place := 0, seed := 0, limit := 0, issued := 0, ldadds := 0, pc := 0,
    stopped := false, ended := false, image := zeroAtomImage, fold := 0, shadow := none }

def zeroAtomState : State :=
  let s := State.reset.setCore 0 { Core.blank with prog := some zeroAtomImage, entry := some zeroAtomRun, descs := [(0, zeroAtomDesc)] }
  s.withMem { s.mem with regions := [(1, { tenant := 0, kind := 0, spill := 0, base := 0, size := 4096 })], bad := [(0, true)] }

theorem zeroAtom_offers : zeroAtomState.offers 0 (.ldzero 0 zeroAtom) zeroAtomRun zeroAtomWord := by
  unfold State.offers
  decide +kernel

theorem zeroAtom_dest :
    destCheck zeroAtomState 0 zeroAtomRun 0 (Desc.parse zeroAtomDesc) 0 = .ok (.mem 0 4096) := by
  decide +kernel

/-- The model's LDZERO: the atom holds data. -/
theorem zeroAtom_mended :
    (zeroAtomState.zeroed (.mem 0 4096) ((Desc.parse zeroAtomDesc).move 0) (elems 0 (Desc.parse zeroAtomDesc).count)).mem.bad = [] := by
  decide +kernel

/-- The writes alone: each writes 8 of the atom's 256 bytes. -/
theorem zeroAtom_unmended :
    ((((elems 0 (Desc.parse zeroAtomDesc).count).flatMap ((Desc.parse zeroAtomDesc).move 0).spans).foldl
      (fun q sp => q.writePlace (.mem 0 4096) sp.1 (zeros sp.2)) zeroAtomState).mem.bad) = [(0, true)] := by
  decide +kernel

/-- Refutes O36: an LDZERO that writes every byte of an uncorrectable atom leaves the atom readable (R194), and the statement's next state does not. -/
theorem not_loadInstructions : ¬ Obligations.LoadInstructions := by
  rintro ⟨-, -, hzero, -⟩
  have hstated := hzero 0 zeroAtom zeroAtomRun zeroAtomWord zeroAtomState _ _ _ _ (.mem 0 4096) _ none _ rfl zeroAtom_offers rfl rfl rfl rfl zeroAtom_dest rfl rfl rfl
  obtain ⟨q, hmodel⟩ := execLdzero_zeroed zeroAtom_offers rfl rfl zeroAtom_dest rfl
  have hbad := congrArg (fun u : State => u.mem.bad) (Host.Outcome.next.inj (hmodel.symm.trans hstated))
  simp only [State.retired_mem, State.digestLines_mem, State.pushLoad_mem] at hbad
  exact absurd (zeroAtom_mended.symm.trans (hbad.trans zeroAtom_unmended)) (by decide)

end Sys2Proof.Machine
end

section
/-!
PROOFS. Signals and the ends of waits (06_core_instruction_set R134, R135; 10_synchronisation R235 to R247).
-/

namespace Sys2Proof.Machine

/-- The word that a core offers is the word at its program counter. -/
theorem State.offers.word {s : State} {c : Nat} {i : Instr} {e : EntryRun} {w : Word} (h : s.offers c i e w) : ((s.core c).word e.pc).getD 0 = w := by
  obtain ⟨-, -, -, -, -, -, hw, -⟩ := h
  rw [hw]
  rfl

/-! Sync objects. -/

@[simp] theorem State.obj_setObj_same (s : State) (key : Nat) (o : SyncObj) : (s.setObj key o).obj key = o := SMap.get_insert_same _ _ _ _

theorem State.obj_setObj_other (s : State) {key y : Nat} (o : SyncObj) (h : y ≠ key) : (s.setObj key o).obj y = s.obj y := SMap.get_insert_other _ _ _ h

/-- What an object reads is of the sync objects alone. -/
theorem State.obj_congr {s t : State} (h : t.sync = s.sync) (key : Nat) : t.obj key = s.obj key := by rw [State.obj, h, State.obj]

/-- An object that has taken a signal (R236). -/
def SyncObj.took (o : SyncObj) (count src who die ref : Nat) : SyncObj :=
  { o with value := o.value + count, lastSrc := src, lastWho := who, lastDie := die, lastCnt := count, lastRef := ref, signals := sat32 (o.signals + 1) }

/-- A signal that fits is added to its object. -/
theorem State.applySignal_added {s : State} {key count src who die : Nat} (hok : (s.obj key).poisoned = false) (hfits : (s.obj key).value + count ≤ 0xFFFFFFFF) :
    s.applySignal key count src who die = (s.setObj key ((s.obj key).took count src who die s.clk.ref), .added) := by
  have hroom : ¬ 0xFFFFFFFF < (s.obj key).value + count := by omega
  unfold State.applySignal
  rw [if_neg (by simp [hok]), if_neg hroom]
  rfl

/-- An object that has not taken a signal. -/
def SyncObj.passedOver (o : SyncObj) : SyncObj := { o with ignored := sat32 (o.ignored + 1) }

/-- A signal that would pass the largest value is refused. -/
theorem State.applySignal_refused {s : State} {key count src who die : Nat} (hok : (s.obj key).poisoned = false) (hover : 0xFFFFFFFF < (s.obj key).value + count) :
    ∃ n, s.applySignal key count src who die = ((s.setObj key (s.obj key).passedOver).log n, .refused) := by
  unfold State.applySignal
  rw [if_neg (by simp [hok]), if_pos hover]
  exact ⟨_, rfl⟩

/-- A state with the sync objects of another, and the same entry on a core. -/
def State.standsAs (s : State) (c : Nat) (t : State) : Prop := t.sync = s.sync ∧ (t.core c).entry = (s.core c).entry

theorem State.standsAs.trans {s t u : State} {c : Nat} (h : s.standsAs c t) (h' : t.standsAs c u) : s.standsAs c u :=
  ⟨h'.1.trans h.1, h'.2.trans h.2⟩

theorem State.standsAs_setCore (s : State) (c d : Nat) (k : Core) (h : k.entry = (s.core d).entry) : s.standsAs c (s.setCore d k) := by
  refine ⟨rfl, ?_⟩
  by_cases hd : c = d
  · subst hd
    rw [State.core_setCore_same, h]
  · rw [State.core_setCore_other _ _ hd]

/-- Bytes written to a place leave the entries and the sync objects. -/
theorem State.standsAs_writePlace (s : State) (c : Nat) (p : Place) (a : Nat) (bs : Bytes) : s.standsAs c (s.writePlace p a bs) := by
  cases p with
  | own d => exact s.standsAs_setCore c d _ rfl
  | _ => exact ⟨rfl, rfl⟩

theorem State.standsAs_foldl {α : Type} {f : State → α → State} {c : Nat} (hf : ∀ (s : State) (a : α), s.standsAs c (f s a)) (l : List α) (s : State) :
    s.standsAs c (l.foldl f s) := by
  induction l generalizing s with
  | nil => exact ⟨rfl, rfl⟩
  | cons a l ih => exact (hf s a).trans (ih (f s a))

/-- A line that an abandoned transfer had written holds free contents (R145 item 2). -/
def State.freeLine (s : State) (l : LoadRun) (a : Nat) : State :=
  let bs := (List.range 64).map (fun j => Config.freeByte s.fresh (64 * a + j))
  if l.space < 512 then s.writePlace (.own l.space) (64 * a) bs
  else if l.space < 576 then s.writePlace (.cluster (l.space - 512)) (64 * a) bs
  else if l.space = 576 then s.writePlace .staging (64 * a) bs
  else s

theorem State.standsAs_freeLine (s : State) (c : Nat) (l : LoadRun) (a : Nat) : s.standsAs c (s.freeLine l a) := by
  unfold State.freeLine
  split_ifs
  · exact s.standsAs_writePlace ..
  · exact s.standsAs_writePlace ..
  · exact s.standsAs_writePlace ..
  · exact ⟨rfl, rfl⟩

theorem State.standsAs_nextFree (s : State) (c : Nat) : s.standsAs c s.nextFree := ⟨rfl, rfl⟩

theorem State.standsAs_ite {s t u : State} {c : Nat} {p : Prop} [Decidable p] (ht : s.standsAs c t) (hu : s.standsAs c u) : s.standsAs c (if p then t else u) := by
  split
  · exact ht
  · exact hu

/-- Work that is abandoned leaves its core's entry and every sync object. -/
theorem State.standsAs_abandonAfter (s : State) (c index : Nat) : s.standsAs c (s.abandonAfter c index) := by
  unfold State.abandonAfter
  extract_lets k lost s1 s2
  have hdropped : s.standsAs c s1 := s.standsAs_setCore c c _ rfl
  have hfreed : s.standsAs c s2 :=
    hdropped.trans (State.standsAs_foldl (fun s l => State.standsAs_foldl (fun s a => s.standsAs_freeLine c l a) l.lines s) lost s1)
  exact State.standsAs_ite hfreed (hfreed.trans (s2.standsAs_nextFree c))

/-! The signals of a core (R134 to R238). -/

/-- A SIG to an object of this module, once everything issued before it has completed. -/
theorem execSig_obj {c key : Nat} {x : SigOp} {e : EntryRun} {w : Word} {s : State} (h : s.offers c (.sig c x) e w) (hdrained : (s.core c).drained = true)
    (hobj : s.resolveHandle c (SigOp.handleOf x (s.core c)) = some (.obj key)) :
    execSig c x s = .next (((s.setCore c { s.core c with sigQ := (s.core c).sigQ ++
      [{ key := key, remote := false, count := x.count.toNat, index := e.issued, handle := SigOp.handleOf x (s.core c), load := false,
         dyn := !x.imm && decide (keyScope key ≠ 0), word := w }] }).signalled c e (SigOp.handleOf x (s.core c)) x.count.toNat).retired c) := by
  rw [execSig, issue_offers h]
  simp only [hdrained, hobj, h.word, Bool.not_true, Bool.false_eq_true, if_false]

/-- A SIG to a die object of another module. -/
theorem execSig_far {c r die i : Nat} {x : SigOp} {e : EntryRun} {w : Word} {s : State} (h : s.offers c (.sig c x) e w) (hdrained : (s.core c).drained = true)
    (hfar : s.resolveHandle c (SigOp.handleOf x (s.core c)) = some (.far r die i)) :
    ∃ e', execSig c x s = .next (s.leaves c { s.core c with entry := some e', sigQ := (s.core c).sigQ ++
      [{ key := 0, remote := true, count := x.count.toNat, index := e.issued, handle := SigOp.handleOf x (s.core c), load := false, dyn := false, word := w }] }) := by
  rw [execSig, issue_offers h]
  simp only [hdrained, hfar, h.word, Bool.not_true, Bool.false_eq_true, if_false]
  exact ⟨_, rfl⟩

/-- A local signal at the head of a core's queue. -/
theorem execSignalApplied_cons {c : Nat} {s : State} {e : EntryRun} {q : SigRun} {rest : List SigRun} (hq : (s.core c).sigQ = q :: rest)
    (he : (s.core c).entry = some e) : execSignalApplied c s = .next (if q.remote then (s.setCore c { s.core c with sigQ := rest }).sendSignal c e q
      else (s.setCore c { s.core c with sigQ := rest }).applyLocal c e q) := by
  simp only [execSignalApplied, hq, he]

@[simp] theorem State.core_setObj (s : State) (key c : Nat) (o : SyncObj) : (s.setObj key o).core c = s.core c := rfl

/-- An object that counts one more core among its owners (R242). -/
def SyncObj.ownedToo (o : SyncObj) (c : Nat) : SyncObj := { o with owners := o.owners ++ [c] }

/-- Whether or not an object gains an owner as it is written, it holds what is written. -/
theorem State.setObj_owned (s : State) (key c : Nat) (o : SyncObj) (own : Bool) :
    let t := if own then (s.setObj key o).setObj key (o.ownedToo c) else s.setObj key o
    (t.obj key).value = o.value ∧ (t.obj key).lastWho = o.lastWho ∧ (t.obj key).lastCnt = o.lastCnt ∧ (∀ y, y ≠ key → t.obj y = s.obj y)
      ∧ t.core c = s.core c := by
  cases own with
  | false => simp +contextual [State.obj_setObj_other]
  | true => simp +contextual [State.obj_setObj_other, SyncObj.ownedToo]

/-- A signal that fits: its object takes the count, the signaller is the last one, and no other object changes. -/
theorem State.applyLocal_added {s : State} {c : Nat} {e : EntryRun} {q : SigRun} (hok : (s.obj q.key).poisoned = false)
    (hfits : (s.obj q.key).value + q.count ≤ 0xFFFFFFFF) :
    ((s.applyLocal c e q).obj q.key).value = (s.obj q.key).value + q.count ∧ ((s.applyLocal c e q).obj q.key).lastWho = c
      ∧ ((s.applyLocal c e q).obj q.key).lastCnt = q.count ∧ (∀ y, y ≠ q.key → (s.applyLocal c e q).obj y = s.obj y)
      ∧ (s.applyLocal c e q).core c = s.core c := by
  unfold State.applyLocal
  simp only [State.applySignal_added hok hfits, State.obj_setObj_same]
  have howned := s.setObj_owned q.key c ((s.obj q.key).took q.count (if q.load then 1 else 0) c (dieOfCore c) s.clk.ref)
    (q.dyn && decide (keyScope q.key ≠ 0) && !(s.obj q.key).owners.contains c)
  split
  · exact howned
  · exact howned

/-- The exception of a refused signal stops the entry and leaves the sync objects. -/
theorem State.abandon_raise {s : State} {c : Nat} {e : EntryRun} {code detail index : Nat} {w : Word} (he : (s.core c).entry = some e) (hcode : code < 256) :
    ((s.abandonAfter c index).core c).entry = some e ∧ ((s.abandonAfter c index).raiseExc c e code detail index w).sync = s.sync
      ∧ ∃ e', (((s.abandonAfter c index).raiseExc c e code detail index w).core c).entry = some e' ∧ e'.stopped = true := by
  obtain ⟨hsync, hentry⟩ := State.standsAs_abandonAfter s c index
  obtain ⟨hcore, -, hraised⟩ := State.raiseExc_spec (s := s.abandonAfter c index) (c := c) (e := e) (detail := detail) (index := index) (w := w) hcode
  exact ⟨hentry.trans he, hraised.trans hsync, by rw [hcore]; exact ⟨_, rfl, rfl⟩⟩

/-- A signal that does not fit: the value stands, and the signaller's entry is stopped. -/
theorem State.applyLocal_refused {s : State} {c : Nat} {e : EntryRun} {q : SigRun} (he : (s.core c).entry = some e) (hok : (s.obj q.key).poisoned = false)
    (hover : 0xFFFFFFFF < (s.obj q.key).value + q.count) :
    ((s.applyLocal c e q).obj q.key).value = (s.obj q.key).value ∧ ∃ e', ((s.applyLocal c e q).core c).entry = some e' ∧ e'.stopped = true := by
  obtain ⟨n, hn⟩ := State.applySignal_refused (src := if q.load then 1 else 0) (who := c) (die := dieOfCore c) hok hover
  obtain ⟨u, husync, hucore, hu⟩ : ∃ u : State, u.sync = (s.setObj q.key (s.obj q.key).passedOver).sync ∧ u.core c = s.core c
      ∧ s.applyLocal c e q = (u.abandonAfter c q.index).raiseExc c e xSaturate q.handle q.index q.word := by
    let t := (s.setObj q.key (s.obj q.key).passedOver).log n
    refine ⟨if e.isEval then t else t.countSignal e.step (dieOfCore c) (fun y => (y.1, y.2.1, y.2.2.1 + q.count, y.2.2.2)), ?_, ?_, ?_⟩
    · split <;> rfl
    · split <;> rfl
    · unfold State.applyLocal
      simp only [hn]
      rw [(State.abandon_raise (detail := 0) (w := 0) (by split <;> exact he) (show 0 < 256 by decide)).1]
  obtain ⟨-, hsync, hstopped⟩ := u.abandon_raise (detail := q.handle) (index := q.index) (w := q.word) (hucore ▸ he) (show xSaturate < 256 by decide)
  rw [hu, State.obj_congr (hsync.trans husync), State.obj_setObj_same]
  exact ⟨rfl, hstopped⟩

/-! Remote signals (R247): `x` is the oldest one delivered, `unit` the die that it names. -/

section
variable {s : State} {x : SignalIn} {rest : List SignalIn} {unit : Nat}

/-- A signal that is not applied is counted for its step: neither the sync objects nor the signals delivered are touched. -/
theorem State.badSignal_rest (s : State) (step : Option Nat) (count : Nat) : (s.badSignal step count).sync = s.sync ∧ (s.badSignal step count).fab = s.fab := by
  cases step <;> exact ⟨rfl, rfl⟩

theorem execRemoteSignal_late (hx : s.fab.signals = x :: rest) (hunit : unit = bits (field x.data 0 4) 13 11) (hlate : x.window < s.dieWindow unit % 2 ^ 32) :
    ∃ t, execRemoteSignal s = .next t ∧ t.fab.signals = rest ∧ t.sync = s.sync := by
  subst hunit
  simp only [execRemoteSignal, hx, hlate, decide_true, Bool.or_true, if_true]
  refine ⟨_, rfl, ?_, ?_⟩
  · rw [(State.badSignal_rest ..).2]; rfl
  · rw [(State.badSignal_rest ..).1]; rfl

theorem execRemoteSignal_held (hx : s.fab.signals = x :: rest) (hrun : s.inRun = true) (hunit : unit = bits (field x.data 0 4) 13 11)
    (hup : s.inReset unit = false) (hlater : s.dieWindow unit % 2 ^ 32 < x.window) (hroom : s.heldOn unit < 1024) :
    let key := objKey 2 unit (bits (field x.data 0 4) 10 0)
    ∃ h : HeldSignal, execRemoteSignal s = .next ((s.withFab { s.fab with signals := rest }).setObj key { s.obj key with held := (s.obj key).held ++ [h] }) := by
  subst hunit
  have hnotlate : ¬ x.window < s.dieWindow (bits (field x.data 0 4) 13 11) % 2 ^ 32 := by omega
  have hheld : ¬ 1024 ≤ s.heldOn (bits (field x.data 0 4) 13 11) := by omega
  simp only [execRemoteSignal, hx, hrun, hup, hlater, hnotlate, decide_false, Bool.not_true, Bool.or_false, Bool.false_eq_true, if_false, if_true]
  rw [if_neg hheld]
  exact ⟨_, rfl⟩

theorem execRemoteSignal_added (hx : s.fab.signals = x :: rest) (hrun : s.inRun = true) (hunit : unit = bits (field x.data 0 4) 13 11)
    (hup : s.inReset unit = false) (hnow : x.window = s.dieWindow unit % 2 ^ 32) (hok : (s.obj (objKey 2 unit (bits (field x.data 0 4) 10 0))).poisoned = false)
    (hfits : (s.obj (objKey 2 unit (bits (field x.data 0 4) 10 0))).value + field x.data 4 4 ≤ 0xFFFFFFFF) :
    let key := objKey 2 unit (bits (field x.data 0 4) 10 0)
    ∃ t, execRemoteSignal s = .next t ∧ t.fab.signals = rest ∧ (t.obj key).value = (s.obj key).value + field x.data 4 4 := by
  subst hunit
  have hadded := State.applySignal_added (s := s.withFab { s.fab with signals := rest }) (src := 2) (who := x.rank) (die := field x.data 8 1) hok hfits
  have hvalue := congrArg SyncObj.value (State.obj_setObj_same (s.withFab { s.fab with signals := rest })
    (objKey 2 (bits (field x.data 0 4) 13 11) (bits (field x.data 0 4) 10 0))
    ((s.obj (objKey 2 (bits (field x.data 0 4) 13 11) (bits (field x.data 0 4) 10 0))).took (field x.data 4 4) 2 x.rank (field x.data 8 1) s.clk.ref))
  simp only [execRemoteSignal, hx, hrun, hup, ← hnow, lt_irrefl, decide_false, Bool.not_true, Bool.or_false, Bool.false_eq_true, if_false, hadded]
  cases x.step with
  | none => exact ⟨_, rfl, rfl, hvalue⟩
  | some n => exact ⟨_, rfl, rfl, hvalue⟩

end

/-- Settles O40: a clause for each way a signal can go, from its SIG to its object. -/
theorem signalInstructions : Obligations.SignalInstructions := by
  refine ⟨?sig, ?far, ?added, ?refused, ?remote, ?delivered⟩
  case sig =>
    rintro c key h x e w s _ _ rfl hoff hdrained rfl hobj rfl
    exact execSig_obj hoff hdrained hobj
  case far =>
    rintro c h r die i x e w s _ _ rfl hoff hdrained rfl hfar rfl
    obtain ⟨e', he'⟩ := execSig_far hoff hdrained hfar
    refine ⟨_, he', ?_⟩
    rw [State.core_leaves]
    obtain ⟨-, -, -, -, -, -, -, -, -, -, -, -, -, -, -, -, hsig⟩ := Core.retire_rest { s.core c with entry := some e', sigQ := (s.core c).sigQ ++ [_] } none
    exact hsig
  case added =>
    rintro c s e q rest _ hq he hlocal rfl hok hfits
    obtain ⟨hvalue, hwho, hcnt, hother, hcore⟩ := State.applyLocal_added (s := s.setCore c { s.core c with sigQ := rest }) (c := c) (e := e) hok hfits
    refine ⟨_, (execSignalApplied_cons hq he).trans (by rw [hlocal]; rfl), hvalue, hwho, hcnt, hother, ?_⟩
    rw [hcore, State.core_setCore_same]
  case refused =>
    rintro c s e q rest _ hq he hlocal rfl hok hover
    obtain ⟨hvalue, e', hentry, hstopped⟩ := State.applyLocal_refused (s := s.setCore c { s.core c with sigQ := rest })
      ((congrArg Core.entry (State.core_setCore_same ..)).trans he) hok hover
    exact ⟨_, e', (execSignalApplied_cons hq he).trans (by rw [hlocal]; rfl), hvalue, hentry, hstopped⟩
  case remote =>
    intro c s e q rest hq he hremote
    exact (execSignalApplied_cons hq he).trans (by rw [hremote]; rfl)
  case delivered =>
    rintro s _ x rest _ hsignals hrun rfl hup rfl
    refine ⟨fun hnow hok hfits => execRemoteSignal_added hsignals hrun rfl hup hnow hok hfits, ?held, fun hlate => execRemoteSignal_late hsignals rfl hlate⟩
    case held =>
      intro hlater hroom
      obtain ⟨h, hnext⟩ := execRemoteSignal_held hsignals hrun rfl hup hlater hroom
      refine ⟨_, hnext, rfl, ?_, ?_⟩
      · rw [State.obj_setObj_same]
      · rw [State.obj_setObj_same, List.length_append, List.length_singleton]

/-! Waits that end in an exception. -/

/-- A WAIT on a poisoned object raises at issue (R135). -/
theorem execWait_poisoned {c key : Nat} {x : WaitOp} {e : EntryRun} {w : Word} {s : State} (h : s.offers c (.wait c x) e w)
    (hdrained : x.sleep = false ∨ (s.core c).drained = true) (hobj : s.resolveHandle c (((s.core c).s x.reg).toNat % 2 ^ 32) = some (.obj key))
    (hmay : mayWait c key = true) (hpoisoned : (s.obj key).poisoned = true) :
    execWait c x s = .next (s.raiseExc c e xPoisoned (objHandle key) e.issued w) := by
  have hgo : (x.sleep && !(s.core c).drained) = false := by rcases hdrained with hx | hk <;> simp [*]
  rw [execWait, issue_offers h]
  simp only [hgo, hobj, hmay, hpoisoned, Bool.not_true, Bool.false_eq_true, if_false, if_true]

/-- The exception of a wait names its object's handle, and leaves the sync objects. -/
theorem State.failWait_spec {s : State} {c code : Nat} {e : EntryRun} {w : WaitRun} (he : (s.core c).entry = some e) (hw : (s.core c).wait = some w)
    (hcode : code < 256) :
    (∃ e', ((s.failWait c code).core c).entry = some e' ∧ e'.stopped = true) ∧ ((s.failWait c code).core c).wait = none
      ∧ (∀ r, (s.core c).exc = none → ((s.failWait c code).core c).exc = some r → r.code = code ∧ r.detail = objHandle w.key % 2 ^ 32)
      ∧ (s.failWait c code).sync = s.sync := by
  have hfail : s.failWait c code = s.raiseExc c e code (objHandle w.key) (e.issued - 1) (((s.core c).word e.pc).getD 0) := by
    simp only [State.failWait, he, hw]
  obtain ⟨hcore, -, hsync⟩ := State.raiseExc_spec (s := s) (c := c) (e := e) (detail := objHandle w.key) (index := e.issued - 1)
    (w := ((s.core c).word e.pc).getD 0) hcode
  rw [hfail, hcore, hsync]
  refine ⟨⟨_, rfl, rfl⟩, rfl, fun r hnone hr => ?_, rfl⟩
  rw [hnone, replacesExc_none, if_pos rfl] at hr
  obtain rfl := Option.some.inj hr
  exact ⟨rfl, rfl⟩

/-- Settles O42: a poisoned object at issue, an expired timeout later. -/
theorem waitExceptions : Obligations.WaitExceptions := by
  refine ⟨?poisoned, ?expired⟩
  case poisoned =>
    rintro c key x e w s _ rfl h hdrained hobj hmay hpoisoned
    exact execWait_poisoned h hdrained hobj hmay hpoisoned
  case expired =>
    rintro c at' s0 _ w e _ rfl hw he rfl hok hshort hexpired
    have hnot : ¬ w.target ≤ ((s0.advance at').obj w.key).value := by omega
    have hnext : ∃ n, execWaitTimeout c at' s0 = .next (((s0.advance at').log n).failWait c xTimeout) := by
      simp only [execWaitTimeout, hw, he, hok, hnot, hexpired, decide_false, Bool.not_true, Bool.or_false, Bool.false_eq_true, if_false]
      exact ⟨_, rfl⟩
    obtain ⟨n, hn⟩ := hnext
    obtain ⟨⟨e', hentry, hstopped⟩, hwait, hrecord, hsync⟩ := State.failWait_spec (s := (s0.advance at').log n) (code := xTimeout) he hw (by decide)
    exact ⟨_, e', hn, hentry, hstopped, hwait, hrecord, hsync⟩

end Sys2Proof.Machine
end

section
/-!
PROOFS. Status instructions (06_core_instruction_set R139).
-/

namespace Sys2Proof.Machine

/-! Instructions that wait until every issued one has completed (R137, R139). -/

theorem Core.drained_iff {k : Core} : k.drained = true ↔ k.matQ = [] ∧ k.loadQ = [] ∧ k.sigQ = [] := by
  simp [Core.drained, and_assoc]

/-- The status instructions of a core. -/
inductive StatusOf (c : Nat) : Instr → Prop
  | statRd (d : BitVec 5) : StatusOf c (.statRd c d)
  | statClr (m : BitVec 8) : StatusOf c (.statClr c m)
  | statCap (v : BitVec 7) : StatusOf c (.statCap c v)
  | feRd (d : BitVec 5) (x : BitVec 3) : StatusOf c (.feRd c d x)

theorem StatusOf.of_mem {c : Nat} {i : Instr} {d : BitVec 5} {w3 : BitVec 3} {m : BitVec 8} {v : BitVec 7}
    (hi : i ∈ [.statRd c d, .statClr c m, .statCap c v, .feRd c d w3]) : StatusOf c i := by
  simp only [List.mem_cons, List.not_mem_nil, or_false] at hi
  rcases hi with rfl | rfl | rfl | rfl
  · exact .statRd d
  · exact .statClr m
  · exact .statCap v
  · exact .feRd d w3

/-- What a status instruction does to its core. -/
def statusWrite : Instr → Core → Core
  | .statRd _ d, k => k.setS d (k.status.setWidth 64)
  | .statClr _ m, k => clearStatus k m
  | .statCap _ v, k => setCapture k v
  | .feRd _ d x, k => k.setS d (BitVec.ofNat 64 (firstWord k x.toNat))
  | _, k => k

/-- An instruction that waits for the others and then writes its own core. -/
theorem issue_afterDrain {s : State} {c : Nat} {i : Instr} {e : EntryRun} {w : Word} (h : s.offers c i e w) (f : Core → Core) :
    issue c i (fun k _ st => if !k.drained then .stall else .done (st.setCore c (f k))) s
      = .next (if (s.core c).drained then s.leaves c (f (s.core c)) else s) := by
  rw [issue_offers h]
  cases (s.core c).drained <;> rfl

/-- A status instruction stalls, or writes its own core. -/
theorem exec_status {s : State} {c : Nat} {i : Instr} {e : EntryRun} {w : Word} (hi : StatusOf c i) (h : s.offers c i e w) :
    exec i s = .next (if (s.core c).drained then s.leaves c (statusWrite i (s.core c)) else s) := by
  cases hi with
  | statRd d => exact issue_afterDrain h (statusWrite (.statRd c d))
  | statClr m => exact issue_afterDrain h (statusWrite (.statClr c m))
  | statCap v => exact issue_afterDrain h (statusWrite (.statCap c v))
  | feRd d x => exact issue_afterDrain h (statusWrite (.feRd c d x))

/-- A word of the first-event record, while FE_VALID is 1. -/
theorem firstWord_valid {k : Core} {f : FirstEvent} (n : Nat) (hf : k.first = some f) (hv : k.status.getLsbD 7 = true) : firstWord k n = field f.bytes (4 * n) 4 := by
  simp [firstWord, hf, hv]

theorem firstWord_invalid {k : Core} (n : Nat) (hv : k.status.getLsbD 7 = false) : firstWord k n = 0 := by
  unfold firstWord
  split
  · rw [if_neg (by rw [hv]; decide)]
  · rfl

/-- Settles O44: the four differ only in what they write to their core. -/
theorem statusInstructions : Obligations.StatusInstructions := by
  refine ⟨?stalls, ?writes, ?frame⟩
  case stalls =>
    intro c i d w3 m v e w s hi h hqueued
    have hundrained : ¬ (s.core c).drained = true := by
      rw [Core.drained_iff]
      tauto
    rw [exec_status (.of_mem hi) h, if_neg hundrained]
  case writes =>
    rintro c e w s _ rfl hmat hload hsig
    have hdrained : (s.core c).drained = true := Core.drained_iff.2 ⟨hmat, hload, hsig⟩
    have hwrites {i : Instr} (hi : StatusOf c i) (h : s.offers c i e w) : exec i s = .next (s.leaves c (statusWrite i (s.core c))) := by
      rw [exec_status hi h, if_pos hdrained]
    refine ⟨fun d h => hwrites (.statRd d) h, fun m h => hwrites (.statClr m) h, fun v h => hwrites (.statCap v) h, fun d x f h hf hv => ?valid,
      fun d x h hv => ?invalid⟩
    case valid =>
      rw [← firstWord_valid x.toNat hf hv]
      exact hwrites (.feRd d x) h
    case invalid =>
      refine (hwrites (.feRd d x) h).trans ?_
      rw [statusWrite, firstWord_invalid x.toNat hv]
      rfl
  case frame =>
    intro c i d w3 m v e w s t hi h ht
    obtain rfl := Host.Outcome.next.inj ((exec_status (.of_mem hi) h).symm.trans ht)
    split
    · exact ⟨rfl, rfl, rfl, fun q hq => State.core_leaves_other _ _ hq⟩
    · exact ⟨rfl, rfl, rfl, fun _ _ => rfl⟩

end Sys2Proof.Machine
end

section
/-!
PROOFS. Clause control and the event class (06_core_instruction_set R137, R138, R140).
-/

namespace Sys2Proof.Machine

/-! Clause control (R137, R138) and the event class (R140). -/

/-- FENCE and END wait until everything issued has completed. -/
theorem execEndEntry_offers {s : State} {c : Nat} {e : EntryRun} {w : Word} (h : s.offers c (.endEntry c) e w) :
    execEndEntry c s = .next (if (s.core c).drained then s.jumps c { s.core c with entry := some { e with ended := true } } e.pc else s) := by
  rw [execEndEntry, issue_offers h]
  cases (s.core c).drained <;> rfl

theorem execClauseFence_offers {s : State} {c : Nat} {e : EntryRun} {w : Word} (h : s.offers c (.clauseFence c) e w) :
    execClauseFence c s = .next (if (s.core c).drained then s.retired c else s) := by
  rw [execClauseFence, issue_offers h]
  cases (s.core c).drained <;> rfl

/-- The table of *INFO selectors*, as a chain of choices. -/
theorem infoValue_eq (s : State) (c : Nat) (e : EntryRun) (sel : BitVec 4) :
    infoValue s c e sel.toNat = if sel = 0 then e.step else if sel = 1 then e.lag else if sel = 2 then e.clause else if sel = 3 then c
      else if sel = 4 then s.frame.period else if sel = 5 then e.object else if sel = 6 then bitNat e.isEval else s.rank := by
  obtain ⟨⟨n, hn⟩⟩ := sel
  interval_cases n <;> rfl

/-- A map after one insertion at each of the indices from `base` on. -/
theorem SMap.find?_foldl_insert_range {α : Type} (f : Nat → α) (m : SMap α) (base n i : Nat) :
    SMap.find? ((List.range n).foldl (fun m j => SMap.insert m (base + j) (f j)) m) i
      = if base ≤ i ∧ i < base + n then some (f (i - base)) else SMap.find? m i := by
  induction n with
  | zero => rw [if_neg (by omega)]; rfl
  | succ n ih =>
    rw [List.range_succ, List.foldl_append, List.foldl_cons, List.foldl_nil]
    by_cases hlast : i = base + n
    · rw [hlast, SMap.find?_insert_same, if_pos (by omega), Nat.add_sub_cancel_left]
    · rw [SMap.find?_insert_other (h := hlast), ih]
      exact if_congr (by omega) rfl rfl

/-- The overlay part after an OVL. -/
def ovlWritten (k : Core) (e : EntryRun) (x : OvlOp) : SMap Word :=
  (List.range x.count.toNat).foldl (fun m j =>
    SMap.insert m (x.dst.toNat + j) ((e.image.overlay[x.src.toNat + j]?).getD (Config.freeWord (x.src.toNat + j)))) k.overlay

/-- OVL raises OVERLAY, or copies its words. -/
theorem execOvl_offers {s : State} {c : Nat} {x : OvlOp} {e : EntryRun} {w : Word} (h : s.offers c (.ovl c x) e w) :
    execOvl c x s = .next (if ovlBad (s.core c) e x || decide (overlayWords e.image < x.src.toNat + x.count.toNat) then s.raiseExc c e xOverlay 0 e.issued w
      else s.leaves c { s.core c with overlay := ovlWritten (s.core c) e x }) := by
  rw [execOvl, issue_offers h]
  cases ovlBad (s.core c) e x || decide (overlayWords e.image < x.src.toNat + x.count.toNat) <;> rfl

theorem Core.overlay_retire (k : Core) (t : Option Nat) : (k.retire t).overlay = k.overlay := by
  obtain ⟨-, -, -, -, -, -, -, -, -, -, -, -, hoverlay, -⟩ := Core.retire_rest k t
  exact hoverlay

theorem execInfo_offers {s : State} {c : Nat} {d : BitVec 5} {sel : BitVec 4} {e : EntryRun} {w : Word} (h : s.offers c (.info c d sel) e w) :
    execInfo c d sel s = .next (s.leaves c ((s.core c).setS d (BitVec.ofNat 64 (infoValue s c e sel.toNat)))) := by
  rw [execInfo, issue_offers h]
  rfl

/-- MARK appends its record, and only the last 256 stay. -/
theorem execMark_offers {s : State} {c : Nat} {v : BitVec 5} {code : BitVec 16} {e : EntryRun} {w : Word} (h : s.offers c (.mark c v code) e w) :
    execMark c v code s = .next (s.leaves c { s.core c with trace := List.drop ((s.core c).trace.length + 1 - 256) ((s.core c).trace ++
      [{ code := code.toNat, value := (s.core c).s v, clause := e.clause, index := e.issued, ref := s.clk.ref }]) }) := by
  rw [execMark, issue_offers h]
  simp only [List.length_append, List.length_singleton]
  rfl

theorem execRaise_offers {s : State} {c : Nat} {code : BitVec 16} {e : EntryRun} {w : Word} (h : s.offers c (.raise c code) e w) :
    execRaise c code s = .next (s.raiseExc c e xRaise code.toNat e.issued w) := by
  rw [execRaise, issue_offers h]

/-- Settles O43: the words that an OVL copies are those of the image's overlay, and no other word changes. -/
theorem clauseControl : Obligations.ClauseControl := by
  refine ⟨?control, ?mark, ?raise⟩
  case control =>
    rintro c e w s _ rfl
    refine ⟨fun h hk => ?_, fun h hk => ?_, fun h hk => ?_, fun h hk => ?_, fun d sel h => ?info, fun x h hok hsrc => ?copies, fun x h hbad => ?refuses⟩
    · exact (execEndEntry_offers h).trans (by rw [if_pos hk])
    · exact (execClauseFence_offers h).trans (by rw [if_pos hk])
    · exact (execEndEntry_offers h).trans (by rw [if_neg (by simp [hk])])
    · exact (execClauseFence_offers h).trans (by rw [if_neg (by simp [hk])])
    case info =>
      rw [← infoValue_eq s c e sel]
      exact execInfo_offers h
    case copies =>
      refine ⟨_, (execOvl_offers h).trans (by rw [if_neg (by simp [hok]; omega)]), fun j hj hlen => ?_, fun i hi => ?_⟩
      · rw [State.core_leaves, Core.overlay_retire]
        refine (SMap.find?_foldl_insert_range _ _ _ _ _).trans ?_
        rw [if_pos (by omega), Nat.add_sub_cancel_left, List.getElem?_eq_getElem hlen]
        rfl
      · rw [State.core_leaves, Core.overlay_retire]
        refine (SMap.find?_foldl_insert_range _ _ _ _ _).trans ?_
        rw [if_neg (by omega)]
    case refuses => exact (execOvl_offers h).trans (by rw [hbad]; rfl)
  case mark =>
    rintro c v code e w s _ _ rfl h rfl
    exact execMark_offers h
  case raise =>
    intro c code e w s h
    exact execRaise_offers h

end Sys2Proof.Machine
end

section
/-!
PROOFS. Loops, branches and calls, and where the sequencer stops (06_core_instruction_set R124, R125, R144).
-/

namespace Sys2Proof.Machine

/-! The sequencer (R124, R125): one equation for each instruction that moves the program counter. -/

section
variable {s : State} {c : Nat} {e : EntryRun} {w : Word}

theorem execLoopStart_offers {x : LoopOp} (h : s.offers c (.loopStart c x) e w) :
    execLoopStart c x s = .next (
      if 4 ≤ (s.core c).loops.length then s.raiseExc c e xLoopDepth 0 e.issued w
      else if loopCount x (s.core c) = 0 then
        s.jumps c { s.core c with loops := (settle (s.core c).loops (e.pc + 1 + x.len.toNat)).1 } (settle (s.core c).loops (e.pc + 1 + x.len.toNat)).2
      else s.jumps c { s.core c with loops :=
        { count := loopCount x (s.core c), index := 0, start := e.pc + 1, stop := e.pc + 1 + x.len.toNat } :: (s.core c).loops } (e.pc + 1)) := by
  rw [execLoopStart, issue_offers h]
  split_ifs <;> rfl

theorem execLidx_some {d : BitVec 5} {v : BitVec 2} {l : LoopLevel} (h : s.offers c (.lidx c d v) e w) (hl : (s.core c).loops[v.toNat]? = some l) :
    execLidx c d v s = .next (s.leaves c ((s.core c).setS d (BitVec.ofNat 64 l.index))) := by
  rw [execLidx, issue_offers h]
  simp only [hl]
  rfl

theorem execLidx_none {d : BitVec 5} {v : BitVec 2} (h : s.offers c (.lidx c d v) e w) (hl : (s.core c).loops[v.toNat]? = none) :
    execLidx c d v s = .next (s.raiseExc c e xLoopExit 0 e.issued w) := by
  rw [execLidx, issue_offers h]
  simp only [hl]

theorem execBreakLoop_cons {l : LoopLevel} {ls : List LoopLevel} (h : s.offers c (.breakLoop c) e w) (hl : (s.core c).loops = l :: ls) :
    execBreakLoop c s = .next (s.jumps c { s.core c with loops := (settle ls l.stop).1 } (settle ls l.stop).2) := by
  rw [execBreakLoop, issue_offers h]
  simp only [hl]
  rfl

theorem execCallSub_offers {target : BitVec 13} (h : s.offers c (.callSub c target) e w) :
    execCallSub c target s = .next (
      if 8 ≤ (s.core c).calls.length then s.raiseExc c e xCallDepth 0 e.issued w
      else s.jumps c { s.core c with calls := { index := e.pc + 1, loops := (s.core c).loops.length } :: (s.core c).calls } target.toNat) := by
  rw [execCallSub, issue_offers h]
  split_ifs <;> rfl

theorem execRetSub_nil (h : s.offers c (.retSub c) e w) (hcalls : (s.core c).calls = []) :
    execRetSub c s = .next (s.raiseExc c e xCallDepth 0 e.issued w) := by
  rw [execRetSub, issue_offers h]
  simp only [hcalls]

theorem execRetSub_cons {r : Return} {rs : List Return} (h : s.offers c (.retSub c) e w) (hcalls : (s.core c).calls = r :: rs) :
    execRetSub c s = .next (
      if r.loops < (s.core c).loops.length then s.raiseExc c e xLoopExit 0 e.issued w
      else s.jumps c { s.core c with calls := rs, loops := (settle (s.core c).loops r.index).1 } (settle (s.core c).loops r.index).2) := by
  rw [execRetSub, issue_offers h]
  simp only [hcalls]
  split_ifs <;> rfl

/-! Branches. -/

/-- A branch target that the innermost loop's body holds, where a loop is active. -/
theorem branchTo_inside {t : Nat} {off : BitVec 14} {k : Core} (ht : (t : Int) = e.pc + off.toInt)
    (hin : ∀ l, k.loops.head? = some l → l.start ≤ t ∧ t < l.stop) : branchTo s k e off = .goto s t := by
  unfold branchTo
  simp only [← ht]
  cases hl : k.loops with
  | nil => simp
  | cons l ls =>
    have hbody := hin l (by rw [hl]; rfl)
    simp [hbody]

/-- A branch target outside the innermost loop's body. -/
theorem branchTo_outside {off : BitVec 14} {k : Core} {l : LoopLevel} {ls : List LoopLevel} (hl : k.loops = l :: ls)
    (hout : ¬ ((l.start : Int) ≤ e.pc + off.toInt ∧ (e.pc : Int) + off.toInt < l.stop)) : branchTo s k e off = .raise xLoopExit 0 := by
  unfold branchTo
  simp only [hl]
  exact if_neg hout

theorem execJmp_outside {off : BitVec 14} {l : LoopLevel} {ls : List LoopLevel} (h : s.offers c (.jmp c off) e w) (hl : (s.core c).loops = l :: ls)
    (hout : ¬ ((l.start : Int) ≤ e.pc + off.toInt ∧ (e.pc : Int) + off.toInt < l.stop)) :
    execJmp c off s = .next (s.raiseExc c e xLoopExit 0 e.issued w) := by
  rw [execJmp, issue_offers h, branchTo_outside hl hout]

/-- A core whose program counter goes to a chosen index. -/
theorem Core.retire_some {k : Core} (he : k.entry = some e) (pc : Nat) :
    k.retire (some pc) = { k with entry := some { e with issued := e.issued + 1, pc := pc } } := by
  simp only [Core.retire, he]

theorem State.offers.entry {i : Instr} (h : s.offers c i e w) : (s.core c).entry = some e := by
  obtain ⟨-, hentry, -⟩ := h
  exact hentry

/-- An instruction that only goes to a chosen index. -/
theorem issue_goto {i : Instr} {t : Nat} {body : Core → EntryRun → State → Issued} (h : s.offers c i e w) (hbody : body (s.core c) e s = .goto s t) :
    ∃ u, issue c i body s = .next u ∧ (u.core c).entry = some { e with issued := e.issued + 1, pc := t } ∧ (u.core c).loops = (s.core c).loops := by
  rw [issue_offers h, hbody]
  refine ⟨_, rfl, ?_⟩
  rw [State.core_setCore_same, Core.retire_some h.entry]
  exact ⟨rfl, rfl⟩

/-! What stops an entry before its instruction is looked at, and handles that name nothing. -/

/-- The instruction limit (R144). -/
theorem issue_limit {i : Instr} {body : Core → EntryRun → State → Issued} (hc : c < 512) (he : (s.core c).entry = some e) (hstopped : e.stopped = false)
    (hended : e.ended = false) (hwait : (s.core c).wait = none) (hlimit : e.limit ≠ 0) (hissued : e.limit ≤ e.issued) :
    issue c i body s = .next (s.raiseExc c e xLimit 0 e.issued (((s.core c).word e.pc).getD 0)) := by
  have hissues : ¬ (512 ≤ c ∨ e.stopped = true ∨ e.ended = true ∨ (s.core c).wait.isSome = true) := by simp [hstopped, hended, hwait]; omega
  simp only [issue, he]
  rw [if_neg hissues, if_pos ⟨hlimit, hissued⟩]

/-- An index that holds no instruction (R125). -/
theorem issue_fetch {i : Instr} {body : Core → EntryRun → State → Issued} (hc : c < 512) (he : (s.core c).entry = some e) (hstopped : e.stopped = false)
    (hended : e.ended = false) (hwait : (s.core c).wait = none) (hlimit : e.limit = 0 ∨ e.issued < e.limit) (hword : (s.core c).word e.pc = none) :
    issue c i body s = .next (s.raiseExc c e xFetch 0 e.issued 0) := by
  have hissues : ¬ (512 ≤ c ∨ e.stopped = true ∨ e.ended = true ∨ (s.core c).wait.isSome = true) := by simp [hstopped, hended, hwait]; omega
  have hbelow : ¬ (e.limit ≠ 0 ∧ e.limit ≤ e.issued) := by omega
  simp only [issue, he]
  rw [if_neg hissues, if_neg hbelow]
  simp only [hword]

theorem execWait_noHandle {x : WaitOp} (h : s.offers c (.wait c x) e w) (hdrained : x.sleep = false ∨ (s.core c).drained = true)
    (hnone : s.resolveHandle c (((s.core c).s x.reg).toNat % 2 ^ 32) = none) :
    execWait c x s = .next (s.raiseExc c e xHandle (((s.core c).s x.reg).toNat % 2 ^ 32) e.issued w) := by
  have hgo : (x.sleep && !(s.core c).drained) = false := by rcases hdrained with hx | hk <;> simp [*]
  rw [execWait, issue_offers h]
  simp only [hgo, hnone, Bool.false_eq_true, if_false]

theorem execSig_noHandle {x : SigOp} (h : s.offers c (.sig c x) e w) (hdrained : (s.core c).drained = true)
    (hnone : s.resolveHandle c (SigOp.handleOf x (s.core c)) = none) :
    execSig c x s = .next (s.raiseExc c e xHandle (SigOp.handleOf x (s.core c)) e.issued w) := by
  rw [execSig, issue_offers h]
  simp only [hdrained, hnone, Bool.not_true, Bool.false_eq_true, if_false]

end

/-- The conditions of BR as a chain of choices. -/
theorem branchTaken_chain (cond : BitVec 3) (a b : Word) :
    branchTaken cond a b = (if cond = 0 then a == b else if cond = 1 then a != b else if cond = 2 then a.slt b else if cond = 3 then !a.slt b
      else if cond = 4 then a.ult b else !a.ult b) := by
  obtain ⟨⟨n, hn⟩⟩ := cond
  interval_cases n <;> rfl

/-- The same, on integers and naturals. -/
theorem branchTaken_eq (cond : BitVec 3) (a b : Word) :
    branchTaken cond a b = (if cond = 0 then decide (a = b) else if cond = 1 then decide (a ≠ b) else if cond = 2 then decide (a.toInt < b.toInt)
      else if cond = 3 then decide (b.toInt ≤ a.toInt) else if cond = 4 then decide (a.toNat < b.toNat) else decide (b.toNat ≤ a.toNat)) := by
  have heq : (a == b) = decide (a = b) := beq_eq_decide a b
  have hne : (a != b) = decide (a ≠ b) := (congrArg not heq).trans decide_not.symm
  have hge : (!a.slt b) = decide (b.toInt ≤ a.toInt) := decide_not.symm.trans (decide_eq_decide.2 not_lt)
  have hgeu : (!a.ult b) = decide (b.toNat ≤ a.toNat) := decide_not.symm.trans (decide_eq_decide.2 not_lt)
  rw [branchTaken_chain, heq, hne, hge, hgeu]
  rfl

/-- Settles O32: the loop stack moves by `settle`, whose three cases are the statement's. -/
theorem loops : Obligations.Loops := by
  refine ⟨?opens, ?skips, ?inside, ?again, ?closes, ?lidx, ?breaks⟩
  case opens =>
    rintro c n x e w s _ rfl h rfl hroom hn
    exact (execLoopStart_offers h).trans (by rw [if_neg (by omega)]; exact congrArg _ (if_neg hn))
  case skips =>
    rintro c x e w s _ rfl h hn hroom
    exact (execLoopStart_offers h).trans (by rw [if_neg (by omega)]; exact congrArg _ (if_pos hn))
  case inside =>
    intro l ls pc hpc
    rw [settle, if_neg hpc]
  case again =>
    intro l ls hmore
    rw [settle, if_pos rfl, if_pos hmore]
  case closes =>
    intro l ls hlast
    rw [settle, if_pos rfl, if_neg (by omega)]
  case lidx =>
    intro c d v e w s l h hl
    exact execLidx_some h hl
  case breaks =>
    intro c e w s l ls h hl
    exact execBreakLoop_cons h hl

/-- Settles O33: a taken branch inside the innermost body goes where its offset says, and calls and returns go by the stack. -/
theorem branches : Obligations.Branches := by
  refine ⟨?taken, ?notTaken, fun cond a b => branchTaken_eq cond a b, ?jmp, ?call, ?ret⟩
  case taken =>
    rintro c t x e w s _ rfl h htaken ht hin
    exact issue_goto (body := fun k e st => if branchTaken x.cond (k.s x.a) (k.s x.b) then branchTo st k e x.off else .done st) h
      ((if_pos htaken).trans (branchTo_inside ht hin))
  case notTaken =>
    intro c x e w s h hnot
    change execBr c x s = _
    rw [execBr, issue_offers h, if_neg (by simp [hnot])]
  case jmp =>
    intro c t off e w s h ht hin
    exact issue_goto (body := fun k e st => branchTo st k e off) h (branchTo_inside ht hin)
  case call =>
    rintro c target e w s _ rfl h hroom
    exact (execCallSub_offers h).trans (by rw [if_neg (by omega)])
  case ret =>
    rintro c e w s _ r rs rfl h hcalls hloops
    exact (execRetSub_cons h hcalls).trans (by rw [if_neg (by omega)])

/-- Settles O34: two stops are found before the instruction is looked at, the others by the instruction. -/
theorem sequencerExceptions : Obligations.SequencerExceptions := by
  refine ⟨?limit, ?fetch, ?loop, ?lidx, ?jmp, ?call, ?ret, ?retLoop, ?wait, ?sig⟩
  case limit =>
    intro c e s d hc he hstopped hended hwait hlimit hissued
    have hstat : execStatRd c d s = .next (s.raiseExc c e xLimit 0 e.issued (((s.core c).word e.pc).getD 0)) := by
      rw [execStatRd, issue_limit hc he hstopped hended hwait hlimit hissued]
    exact hstat
  case fetch =>
    intro c e s d hc he hstopped hended hwait hlimit hword
    have hstat : execStatRd c d s = .next (s.raiseExc c e xFetch 0 e.issued 0) := by
      rw [execStatRd, issue_fetch hc he hstopped hended hwait hlimit hword]
    exact hstat
  case loop =>
    intro c x e w s h hfull
    exact (execLoopStart_offers h).trans (congrArg Host.Outcome.next (if_pos hfull))
  case lidx =>
    intro c d v e w s h hdeep
    exact execLidx_none h (List.getElem?_eq_none hdeep)
  case jmp =>
    intro c off e w s l ls h hl hout
    exact execJmp_outside h hl hout
  case call =>
    intro c target e w s h hfull
    exact (execCallSub_offers h).trans (congrArg Host.Outcome.next (if_pos hfull))
  case ret =>
    intro c e w s h hcalls
    exact execRetSub_nil h hcalls
  case retLoop =>
    intro c e w s r rs h hcalls hloops
    exact (execRetSub_cons h hcalls).trans (congrArg Host.Outcome.next (if_pos hloops))
  case wait =>
    intro c x e w s h hdrained hnone
    exact execWait_noHandle h hdrained hnone
  case sig =>
    intro c x e w s h hdrained hnone
    exact execSig_noHandle h hdrained hnone

end Sys2Proof.Machine
end

section
/-!
PROOFS. Programs and jobs (16_vuhal_command_reference R394 to R396; 06_core_instruction_set R142).
-/

namespace Sys2Proof.Machine

/-! PROGRAM_LOAD and PROGRAM_VERIFY (R142, R394, R396). -/

section
variable {t : Nat} {p b : Bytes} {s : State} {i : Image}

/-- An image without a fault, of which no finding stops the load, is placed on the cores of the mask. -/
theorem programLoad_places {expert : Bool} (hsource : s.holdsAt t (field p 0 2) 0 0x30 imageEnd b) (hread : readImage b = .ok i) (hmask : maskCores p ≠ [])
    (hbusy : ∀ c ∈ maskCores p, s.coreBusy c = false) (hzero : allZero p 2 6 = true) (hroom : s.overlayFull (maskCores p) i = false)
    (hfound : ∀ f ∈ i.verify, (f.code == fOverlap && !expert) = false) :
    programLoad expert t p s = (s.placeProgram (maskCores p) i, some (okWith (leBytes 2 (sat16 i.verify.length) ++ zeros 6))) := by
  have hnone : i.verify.find? (fun f => f.code == fOverlap && !expert) = none := List.find?_eq_none.2 (fun f hf => by simp [hfound f hf])
  have hidle : (maskCores p).any s.coreBusy = false := List.any_eq_false.2 (fun c hc => by simp [hbusy c hc])
  have hsome : (maskCores p).isEmpty = false := by simpa using hmask
  unfold programLoad
  rw [checked_none (by simp [reserved, wrong, hidle, hsome, hzero]), withSource_of_holdsAt hsource]
  simp only [hread, hroom, hnone]

/-- PROGRAM_VERIFY of an image that a region holds. -/
theorem execProgramVerify_region (h : s.ready 0x0503 t p) (hsource : s.holdsAt t (field p 2 2) 0 0x30 imageEnd b) (hread : readImage b = .ok i)
    (hsrc : field p 0 1 = 0) (hzero1 : allZero p 1 1 = true) (hzero4 : allZero p 4 4 = true) : execProgramVerify t p s = .next (s.respond t (verifyReply i)) := by
  refine hostCmd_answers h ?_
  dsimp only
  rw [checked_none (by simp [reserved, wrong, hsrc, hzero1, hzero4]), if_pos hsrc, withSource_of_holdsAt hsource]
  simp only [hread]

/-- PROGRAM_VERIFY of the image that a core runs. -/
theorem execProgramVerify_core (h : s.ready 0x0503 t p) (hprog : (s.core (field p 2 2)).prog = some i) (hsrc : field p 0 1 = 1) (hcore : field p 2 2 ≤ 511)
    (hzero1 : allZero p 1 1 = true) (hzero4 : allZero p 4 4 = true) : execProgramVerify t p s = .next (s.respond t (verifyReply i)) := by
  refine hostCmd_answers h ?_
  dsimp only
  rw [checked_none (by simp [reserved, wrong, hsrc, hcore, hzero1, hzero4]), if_neg (by omega), if_pos hsrc]
  simp only [hprog]

/-! OPTIMIZER_SET (R216, R222, R395). -/

/-- An offset that every region of the command's index exceeds is below the size that the command checks it against. -/
theorem offset_below_size (hoff : ∀ g, s.ownRegion t (field p 0 2) = some g → field p 8 8 < g.size) :
    field p 8 8 < (match s.ownRegion t (field p 0 2) with
      | some g => g.size
      | none => 2 ^ 64) := by
  cases hg : s.ownRegion t (field p 0 2) with
  | none => exact field_lt p 8 8
  | some g => exact hoff g hg

/-- A job descriptor without a fault is placed under its index. -/
theorem optimizerSet_job {expert : Bool} (hitem : field p 2 1 = 0) (hzero3 : allZero p 3 1 = true) (hindex : field p 4 2 ≤ 255) (hzero6 : allZero p 6 2 = true)
    (hoff : ∀ g, s.ownRegion t (field p 0 2) = some g → field p 8 8 < g.size) (hsource : s.holdsAt t (field p 0 2) (field p 8 8) 0x40 jobBytes b)
    (hfault : firstFault (s.jobFaults expert b) = none) :
    optimizerSet expert t p s = (s.placeJob (field p 4 2) (jobOf b (SMap.get [] s.mem.micros (field b 0x23 1))), some okReply) := by
  have hbelow := offset_below_size hoff
  unfold optimizerSet
  rw [checked_none (by simp [reserved, wrong, hitem, hzero3, hindex, hzero6]; exact hbelow), if_neg (by omega), withSource_of_holdsAt hsource]
  simp only [hfault]

/-- A micro-program without a fault is kept under its index: the expert form only. -/
theorem optimizerSet_micro (hitem : field p 2 1 = 1) (hzero3 : allZero p 3 1 = true) (hlow : 1 ≤ field p 4 2) (hhigh : field p 4 2 ≤ 16)
    (hzero6 : allZero p 6 2 = true) (hoff : ∀ g, s.ownRegion t (field p 0 2) = some g → field p 8 8 < g.size)
    (hsource : s.holdsAt t (field p 0 2) (field p 8 8) 8 microBytes b) (hfault : firstFault (microFaults b) = none) :
    optimizerSet true t p s = (s.withMem { s.mem with micros := SMap.insert s.mem.micros (field p 4 2) (b.take (microBytes b)) }, some okReply) := by
  have hbelow := offset_below_size hoff
  unfold optimizerSet
  rw [checked_none (by simp [reserved, wrong, hitem, hzero3, hlow, hhigh, hzero6]; exact hbelow), if_pos hitem, withSource_of_holdsAt hsource]
  simp only [hfault]

end

/-- Settles O5: each command passes its checks, reads its source, and places what it has read. -/
theorem programCommands : Obligations.ProgramCommands := by
  refine ⟨?load, ?loadExpert, ?verifyRegion, ?verifyCore, ?job, ?micro⟩
  case load =>
    intro t p b s i h hsource hread hmask hbusy hzero hroom hfound
    have hload := programLoad_places (expert := false) hsource hread hmask hbusy hzero hroom (fun f hf => by simp [hfound f hf])
    change execProgramLoad t p s = _
    rw [execProgramLoad, hostCmd_answers h hload]
  case loadExpert =>
    intro t p b s i h hsource hread hmask hbusy hzero hroom
    have hload := programLoad_places (expert := true) hsource hread hmask hbusy hzero hroom (fun f _ => Bool.and_false _)
    change execProgramLoadExpert t p s = _
    rw [execProgramLoadExpert, hostCmd_answers h hload]
  case verifyRegion =>
    intro t p b s i h hsource hread hsrc hzero1 hzero4
    exact execProgramVerify_region h hsource hread hsrc hzero1 hzero4
  case verifyCore =>
    intro t p s i h hprog hsrc hcore hzero1 hzero4
    exact execProgramVerify_core h hprog hsrc hcore hzero1 hzero4
  case job =>
    rintro t j p b s expert h hitem hzero3 rfl hindex hzero6 hoff hsource hfault
    have hjob := optimizerSet_job hitem hzero3 hindex hzero6 hoff hsource hfault
    cases expert with
    | false => exact hostCmd_answers h hjob
    | true => exact hostCmd_answers h hjob
  case micro =>
    rintro t j p b s h hitem hzero3 rfl hlow hhigh hzero6 hoff hsource hfault
    exact hostCmd_answers h (optimizerSet_micro hitem hzero3 hlow hhigh hzero6 hoff hsource hfault)

end Sys2Proof.Machine
end

section
/-!
PROOFS. Numerics commands (07_training_numerics R148, R149, R168, R170; 16_vuhal_command_reference R383): what each command answers once its checks pass,
outside a run and in one.
-/

namespace Sys2Proof.Machine

/-! NUMERICS_POLICY_SET (R148, R149). -/

section
variable {t : Nat} {p b : Bytes} {s : State} {expert : Bool}

/-- NUMERICS_POLICY_SET places a policy without fault. In a run the policy keeps the master mode in force. -/
theorem policySet_of_ok (hpassed : (s.passed (field p 8 8)).1 = false)
    (hmode : s.inRun = true → (s.masterModeIn t (field p 0 2)).getD s.num.policy.masterMode = s.num.policy.masterMode) (hzero : allZero p 2 6 = true)
    (heff : s.inRun = !decide (field p 8 8 = 0)) (hsource : s.holdsAt t (field p 0 2) 0 0x40 policyBytes b)
    (hfault : firstFault (policyFaults expert b) = none) : policySet expert t p s = s.placePolicy (policyOfBytes b) (field p 8 8) := by
  have hchecks : ∀ e ∈ [s.passed (field p 8 8),
      (s.inRun && (s.masterModeIn t (field p 0 2)).getD s.num.policy.masterMode != s.num.policy.masterMode, wrongState),
      reserved p 2 6, s.effField (field p 8 8) 8], e.1 = false := by
    simpa [reserved, State.effField, wrong, hpassed, hzero, heff] using hmode
  unfold policySet
  rw [checked_none hchecks, withSource_of_holdsAt hsource]
  simp only [hfault]

/-- Outside a run a policy takes effect at once; an armed run's jobs must be managed by it. -/
theorem State.placePolicy_outside {q : Policy} {eff : Nat} (ho : s.inRun = false) (hjobs : s.run.mode = .armed → s.jobsManaged q = true) :
    s.placePolicy q eff = (s.withNum { s.num with policy := q }, some okReply) := by
  have hmanaged : ¬ (s.run.mode = .armed ∧ s.jobsManaged q = false) := by
    rintro ⟨harmed, hnot⟩
    simp [hjobs harmed] at hnot
  rw [State.placePolicy, if_neg (by simp [ho]), if_neg hmanaged]

/-- In a run a policy is staged, where the checks of the armed run hold at its period. -/
theorem State.placePolicy_inRun {q : Policy} {eff : Nat} (hm : s.mayStage s.num.staged eff)
    (harm : ((s.withNum { s.num with staged := SMap.insert s.num.staged eff q }).viewAt eff).armHolds = true) :
    s.placePolicy q eff = (s.withNum { s.num with staged := SMap.insert s.num.staged eff q }, some okReply) := by
  obtain ⟨hrun, -, hroom⟩ := hm
  unfold State.placePolicy
  rw [if_pos hrun]
  dsimp only
  rw [if_neg (by simp [harm]), checked_none (by simpa using hroom)]

/-- Either form of NUMERICS_POLICY_SET at its turn answers what its body gives. -/
theorem exec_numericsPolicySet {s' : State} {r : Reply} (h : s.ready (if expert then 0x8901 else 0x0901) t p)
    (hb : policySet expert t p s = (s', some r)) : exec (if expert then .numericsPolicySetExpert t p else .numericsPolicySet t p) s = .next (s'.respond t r) := by
  cases expert with
  | false => exact hostCmd_answers h hb
  | true => exact hostCmd_answers h hb

/-! SCALE_STATE_READ (R156). -/

/-- SCALE_STATE_READ of a step whose scales are held answers the first 255 records from the tensor id that it names. -/
theorem execScaleStateRead_held {step : Nat} (h : s.ready 0x0902 t p) (hstep : step = if field p 0 8 = 0 then s.run.sealed else field p 0 8) (hne : step ≠ 0)
    (hheld : (s.huskSlot step).isSome = true ∨ step = s.run.sealed) (hid : field p 8 4 ≤ 0xFFFFFF) (hzero : allZero p 0xC 4 = true) :
    execScaleStateRead t p s = .next (s.respond t (okWith (leBytes 8 step
      ++ leBytes 4 (((s.stepRec step).scale.filter (fun e => decide (field p 8 4 ≤ e.1))).take 255).length ++ zeros 4
      ++ scaleRecords (((s.stepRec step).scale.filter (fun e => decide (field p 8 4 ≤ e.1))).take 255)))) := by
  have hheld' : ((s.huskSlot step).isSome || step == s.run.sealed) = true := by simpa using hheld
  unfold execScaleStateRead
  rw [readCmd_ready h]
  dsimp only
  rw [← hstep, firstFail_none (by simp [wrong, reserved, hid, hzero, hne, hheld'])]

/-! LAYER_WATCH_SET (R168). -/

/-- The entries that LAYER_WATCH_SET carries. -/
def watchesOf (p : Bytes) : List WatchEntry := (List.range (field p 0 1)).map (watchAt p)

/-- The entries of LAYER_WATCH_SET are there and in their ranges, and the table with them has room. -/
def watchesOk (s : State) (p : Bytes) : Prop :=
  1 ≤ field p 0 1 ∧ 16 + 16 * field p 0 1 ≤ p.length ∧ allZero p 1 7 = true ∧ (∀ i, i < field p 0 1 → firstFail (watchChecks p i) = none)
    ∧ (s.watchUnion (SMap.insert s.num.stagedWatch (field p 8 8) (watchesOf p))).length ≤ 1024

/-- A list of checks without a first failure has no failure. -/
theorem forall_of_firstFail_none {l : List (Bool × Reply)} (h : firstFail l = none) : ∀ e ∈ l, e.1 = false := by
  induction l with
  | nil => simp
  | cons e l ih =>
    obtain ⟨bad, r⟩ := e
    cases bad with
    | false => exact List.forall_mem_cons.2 ⟨rfl, ih h⟩
    | true => cases h

/-- LAYER_WATCH_SET whose checks all pass takes effect at once outside a run and is staged in one. -/
theorem execLayerWatchSet_of_ok (h : s.ready 0x0903 t p) (hok : watchesOk s p) (hpassed : (s.passed (field p 8 8)).1 = false)
    (heff : s.inRun = !decide (field p 8 8 = 0)) (hroom : s.inRun = true → (stageFull s.num.stagedWatch (field p 8 8)).1 = false) :
    execLayerWatchSet t p s = .next ((s.withNum (if s.inRun then { s.num with stagedWatch := SMap.insert s.num.stagedWatch (field p 8 8) (watchesOf p) }
      else { s.num with watch := addWatches s.num.watch (watchesOf p) })).respond t okReply) := by
  obtain ⟨hsome, hlen, hzero, hentries, hunion⟩ := hok
  have hentries' : ∀ e ∈ (List.range (field p 0 1)).flatMap (watchChecks p), e.1 = false := by
    intro e he
    obtain ⟨i, hi, hei⟩ := List.mem_flatMap.1 he
    exact forall_of_firstFail_none (hentries i (List.mem_range.1 hi)) e hei
  have hhead : ∀ e ∈ [s.passed (field p 8 8), wrong (field p 0 1 == 0) 0, (decide (p.length < 16 + 16 * field p 0 1), badLength 0), reserved p 1 7,
      s.effField (field p 8 8) 8], e.1 = false := by
    have hne : field p 0 1 ≠ 0 := by omega
    simp [wrong, reserved, State.effField, hpassed, heff, hzero, hne, hlen]
  have htail : ∀ e ∈ [(decide (1024 < (s.watchUnion (SMap.insert s.num.stagedWatch (field p 8 8) (watchesOf p))).length), noResource),
      (s.inRun && (stageFull s.num.stagedWatch (field p 8 8)).1, noResource)], e.1 = false := by
    simpa [hunion] using hroom
  refine hostCmd_answers h ?_
  dsimp only
  refine (checked_none (List.forall_mem_append.2 ⟨List.forall_mem_append.2 ⟨hhead, hentries'⟩, htail⟩)).trans ?_
  cases s.inRun <;> rfl

/-! EMULATION_MODE_SET (R170). -/

theorem execEmulationModeSet_sets {on : Bool} (h : s.ready 0x0904 t p) (hon : field p 0 1 = bitNat on) (hzero : allZero p 1 7 = true) :
    execEmulationModeSet t p s = .next ((s.withNum { s.num with emu := on }).respond t okReply) := by
  have hflag : (field p 0 1 == 1) = on ∧ field p 0 1 ≤ 1 := by
    rw [hon]
    cases on <;> decide
  obtain ⟨hbit, hle⟩ := hflag
  refine hostCmd_answers h ?_
  dsimp only
  rw [checked_none (by simp [wrong, reserved, hle, hzero]), hbit]

end

/-- Settles O11: each command passes its checks in both cases, and being in a run decides between the effect and its staging. -/
theorem numericsCommands : Obligations.NumericsCommands := by
  refine ⟨?policyNow, ?policyStaged, ?scales, ?watchNow, ?watchStaged, fun t p s on h hon hzero => execEmulationModeSet_sets h hon hzero⟩
  case policyNow =>
    intro t p b s expert h ho hzero heff hsource hfault hjobs
    have ho' : s.inRun = false := ho
    have hset := policySet_of_ok (State.passed_outside ho' _) (by simp [ho']) hzero (by simp [ho', heff]) hsource hfault
    exact exec_numericsPolicySet h (hset.trans (State.placePolicy_outside ho' hjobs))
  case policyStaged =>
    rintro t eff p b s expert h hzero rfl hm hsource hfault hmode harm
    have hset := policySet_of_ok (State.passed_of_mayStage hm) (fun _ => hmode) hzero (State.mayStage_names hm) hsource hfault
    exact exec_numericsPolicySet h (hset.trans (State.placePolicy_inRun hm harm))
  case scales =>
    intro t step p s h hstep hne hheld hid hzero
    exact execScaleStateRead_held h hstep hne hheld hid hzero
  case watchNow =>
    rintro t n p s h ho rfl hsome hlen hzero heff hentries hunion
    have ho' : s.inRun = false := ho
    have hset := execLayerWatchSet_of_ok h ⟨hsome, hlen, hzero, hentries, by rw [heff]; exact hunion⟩ (State.passed_outside ho' _) (by simp [ho', heff])
      (by simp [ho'])
    rw [ho'] at hset
    exact hset
  case watchStaged =>
    rintro t n eff p s h rfl hm rfl hsome hlen hzero hentries hunion
    have ⟨hrun, _, hroom⟩ := hm
    have hset := execLayerWatchSet_of_ok h ⟨hsome, hlen, hzero, hentries, hunion⟩ (State.passed_of_mayStage hm) (State.mayStage_names hm) (fun _ => hroom)
    rw [hrun] at hset
    exact hset

end Sys2Proof.Machine
end

section
/-!
PROOFS. The verdict (07_training_numerics R152; 12_step_sealing_and_replay R291, R296, R297; 13_mirror_spares_recovery R323): one equation for each case of
each event.
-/

namespace Sys2Proof.Machine

/-! The numerics exchange (R152). -/

/-- Before the verdict of a step the module combines the bytes of all ranks in ascending rank. -/
theorem execNumericsExchange_combines {others : List Bytes} {s : State} {x : Nat × EntrySt} {k : Nat} (hentry : s.verdictEntry = some x)
    (hlag : s.run.lag1 = some k) (hstart : s.mayStart = true) (hgo : s.clk.stopped = false) (hfirst : s.run.exchanged = false)
    (hcount : others.length + 1 = s.memberCount) (hlen : ∀ b ∈ others, b.length = (s.exchangeBytes k).length) :
    execNumericsExchange others s
      = .next ((s.combineNumerics k (others.take s.rank ++ [s.exchangeBytes k] ++ others.drop s.rank)).withRun
          { (s.combineNumerics k (others.take s.rank ++ [s.exchangeBytes k] ++ others.drop s.rank)).run with exchanged := true }) := by
  have hall : others.any (fun b => b.length != (s.exchangeBytes k).length) = false := List.any_eq_false.2 (fun b hb => by simp [hlen b hb])
  unfold execNumericsExchange
  simp only [hentry, hlag]
  rw [if_neg (by simp [hstart, hgo, hfirst]), if_neg (by simp [hcount, hall])]

/-! The start of the verdict entry (R291). -/

section
variable {at' key : Nat} {s0 : State} {e : EntrySt} (hentry : (s0.advance at').verdictEntry = some (key, e)) (hstart : (s0.advance at').mayStart = true)
  (hpresent : (s0.advance at').clk.present = true) (hgo : (s0.advance at').clk.stopped = false)

include hentry hstart hpresent hgo

/-- The verdict of a step follows its numerics exchange: the module's record is that of the step's checks. -/
theorem execVerdictEntryStart_step {k : Nat} (hlag : (s0.advance at').run.lag1 = some k) (hexch : (s0.advance at').run.exchanged = true) {r : State × Bytes}
    (hr : r = (((s0.advance at').missShared k e.entry.clause (keyWindow key)).startUnit key e.entry.target).stepRecord k) :
    execVerdictEntryStart at' s0 = .next (r.1.withRun { r.1.run with ownRec := some r.2 }).passUp := by
  subst hr
  unfold execVerdictEntryStart
  simp only [hentry, hlag]
  rw [if_neg (by simp [hstart, hpresent, hgo]), if_neg (by simp [hexch])]

/-- A verdict of no step needs no exchange: the module's record is the empty or the held one. -/
theorem execVerdictEntryStart_plain (hlag : (s0.advance at').run.lag1 = none) {s1 : State} (hs1 : s1 = (s0.advance at').startUnit key e.entry.target) :
    execVerdictEntryStart at' s0 = .next (s1.withRun { s1.run with ownRec := some s1.plainRecord }).passUp := by
  subst hs1
  unfold execVerdictEntryStart
  simp only [hentry, hlag]
  rw [if_neg (by simp [hstart, hpresent, hgo])]

end

/-! The cut-off (R323). -/

/-- At the cut-off a node logs the place whose record it still awaits and does without it: the places are those of the nodes that the module keeps (log
entry 39), and the event's detail names the place (log entry 58). -/
theorem execVerdictCutoff_awaited {child : Nat} {s0 : State} (hrun : s0.inRun = true) (hpresent : s0.clk.present = true) (hplace : child ∈ s0.nodePlaces)
    (hsent : s0.run.sentUp = false) (hcut : child ∉ s0.run.cut) (hpart : s0.nodePart child = none) :
    execVerdictCutoff child s0 = .next (((s0.advance s0.cutoffRef).withRun { (s0.advance s0.cutoffRef).run with
      cut := (s0.advance s0.cutoffRef).run.cut ++ [child] }).log
        { code := 0x800A, step := (s0.advance s0.cutoffRef).run.lag1.getD 0, detail := leBytes 2 child }).passUp := by
  unfold execVerdictCutoff
  rw [if_neg (by simp [hrun, hpresent, hplace, hsent, hcut, hpart])]

/-! The combined record (R296, R297). -/

section
variable {rec : Bytes} {s : State} (hexch : (0, rec) ∈ s.fab.exch)

include hexch

section
variable (hrun : s.inRun = true) (hkind : s.run.kind ≠ .none) (hlen : rec.length = 64) (hnone : s.run.record = none)

include hrun hkind hlen hnone

/-- Before the period that closes its window the combined record waits for it. -/
theorem execVerdictRecordReceived_inTime (hst : s.run.stalled = false) :
    execVerdictRecordReceived rec s = .next ((s.withRun { s.run with record := some rec }).endVerdict.noteVerdict rec) := by
  unfold execVerdictRecordReceived
  rw [if_neg (by simp [hrun, hkind, hexch, hlen, hnone]), if_pos hst]

/-- In a stalled run a combined record before the next period ends the stall: its decision is applied as at the period that closed its window, and
the clauses gone by since then open and close at once (log entry 116). -/
theorem execVerdictRecordReceived_late (hst : s.run.stalled = true) (hmissed : s.run.missed < 2) {s1 s2 s3 : State}
    (hs1 : s1 = (s.endVerdict.noteVerdict rec).logStepOnce { code := 0x5014, step := (s.endVerdict.noteVerdict rec).verdictStep })
    (hs2 : s2 = s1.withRun { s1.run with stalled := false, comma := s1.run.comma - s1.run.clause, clause := 0 })
    (hs3 : s3 = s2.turnPeriod (some rec) s2.run.periodRef) : execVerdictRecordReceived rec s = .next (State.catchUp s3.frame.period s3) := by
  subst hs1 hs2 hs3
  unfold execVerdictRecordReceived
  rw [if_neg (by simp [hrun, hkind, hexch, hlen, hnone]), if_neg (by simp [hst]), if_neg (by omega)]

end

/-- After the next period the combined record is discarded. -/
theorem execVerdictMissed_discards (hst : s.run.stalled = true) (hmissed : 2 ≤ s.run.missed) :
    execVerdictMissed rec s
      = .next ((s.withFab { s.fab with exch := s.fab.exch.erase (0, rec) }).logStepOnce { code := 0x5015, step := s.verdictStep }) := by
  have hlate : ¬ s.run.missed < 2 := by omega
  unfold execVerdictMissed
  rw [if_neg (by simp [hst, hlate, hexch])]

end

/-- Settles O22: each clause is the equation of its event in its case. -/
theorem verdictEvents_settled : Obligations.VerdictEvents := by
  refine ⟨?exchange, ?step, ?plain, ?cutoff, ?inTime, ?late, ?tooLate⟩
  case exchange =>
    intro others s x k hentry hlag hstart hgo hfirst hcount hlen
    exact ⟨_, execNumericsExchange_combines hentry hlag hstart hgo hfirst hcount hlen, rfl, rfl⟩
  case step =>
    rintro at' key k s0 s s1 e r rfl hentry hstart hpresent hgo hlag hexch rfl hr
    exact execVerdictEntryStart_step hentry hstart hpresent hgo hlag hexch hr
  case plain =>
    rintro at' key s0 s s1 e rfl hentry hstart hpresent hgo hlag hs1
    exact execVerdictEntryStart_plain hentry hstart hpresent hgo hlag hs1
  case cutoff =>
    rintro child s0 s hrun hpresent hplace hsent hcut hpart rfl
    exact execVerdictCutoff_awaited hrun hpresent hplace hsent hcut hpart
  case inTime =>
    intro rec s hrun hkind hexch hlen hnone hst
    exact execVerdictRecordReceived_inTime hexch hrun hkind hlen hnone hst
  case late =>
    intro rec s s1 s2 s3 hrun hkind hexch hlen hnone hst hmissed hs1 hs2 hs3
    exact execVerdictRecordReceived_late hexch hrun hkind hlen hnone hst hmissed hs1 hs2 hs3
  case tooLate =>
    intro rec s hst hmissed hexch
    exact execVerdictMissed_discards hexch hst hmissed

end Sys2Proof.Machine
end

section
/-!
PROOFS. Memory hardware (08_memory_system R193 to R202): flit replays of an in-package link, retries on EDC, the scrubber, refresh and the periodic retrain.
What each leaves of the stored bytes and of the atoms that hold no data comes first.
-/

namespace Sys2Proof.Machine

/-! What touches no memory: a nutshell entry, an alert, and the fabric when it sends. -/

@[simp] theorem State.alert_mem (s : State) (c : Nat) : (s.alert c).mem = s.mem := by
  unfold State.alert
  split <;> rfl

@[simp] theorem State.setPort_mem (s : State) (p : Nat) (x : Port) : (s.setPort p x).mem = s.mem := rfl
@[simp] theorem State.setNDie_mem (s : State) (n : Nat) (x : NDie) : (s.setNDie n x).mem = s.mem := rfl
@[simp] theorem State.pushFrame_mem (s : State) (p : Nat) (o : OutFrame) : (s.pushFrame p o).mem = s.mem := rfl

/-- A fold of steps that each leave a part of the state leaves that part. -/
theorem State.foldl_keeps {α β : Type} (part : State → β) {f : State → α → State} (hf : ∀ t a, part (f t a) = part t) (l : List α) (s : State) :
    part (l.foldl f s) = part s :=
  List.foldlRecOn (motive := fun t => part t = part s) l f rfl (fun t ht a _ => (hf t a).trans ht)

@[simp] theorem State.flushPort_mem (s : State) (p : Nat) : (s.flushPort p).mem = s.mem := by
  refine List.foldlRecOn (motive := fun acc : State × List OutFrame × List Nat => acc.1.mem = s.mem) _ _ rfl ?_
  intro acc hacc o _
  split
  · exact hacc
  · exact hacc

@[simp] theorem State.sendOn_mem (s : State) (p : Nat) (f : HFrame) : (s.sendOn p f).mem = s.mem := State.flushPort_mem _ _

@[simp] theorem State.abandonOp_mem (s : State) (n slot : Nat) : (s.abandonOp n slot).mem = s.mem := by
  unfold State.abandonOp
  split
  · rfl
  · dsimp only
    split <;> rfl

@[simp] theorem State.sendFragment_mem (s : State) (n slot f : Nat) (resend : Bool) : (s.sendFragment n slot f resend).mem = s.mem := by
  unfold State.sendFragment
  split
  · rfl
  · split
    · exact State.abandonOp_mem _ _ _
    · split
      · exact State.abandonOp_mem _ _ _
      · exact State.sendOn_mem _ _ _

@[simp] theorem State.placeOp_mem (s : State) (o : OpSlot) : (s.placeOp o).mem = s.mem := by
  unfold State.placeOp
  dsimp only
  split
  · rfl
  · exact State.foldl_keeps State.mem (fun t f => State.sendFragment_mem t _ _ f false) _ _

@[simp] theorem State.openSend_mem (s : State) (x : Send) : (s.openSend x).mem = s.mem := by
  unfold State.openSend
  split
  · split
    · rfl
    · split
      · rfl
      · exact State.foldl_keeps State.mem State.placeOp_mem _ _
  · rfl

/-! Marking a shard damaged and asking the partner write only the list of damaged atoms (R194, R317). -/

theorem State.markDamaged_mem (s : State) (m ma step : Nat) : ∃ l, (s.markDamaged m ma step).mem = { s.mem with damaged := l } := by
  unfold State.markDamaged
  split
  · exact ⟨_, rfl⟩
  · exact ⟨_, rfl⟩

@[simp] theorem State.markDamaged_cells (s : State) (m ma step : Nat) : (s.markDamaged m ma step).mem.cells = s.mem.cells := by
  obtain ⟨l, hl⟩ := s.markDamaged_mem m ma step
  rw [hl]

@[simp] theorem State.markDamaged_bad (s : State) (m ma step : Nat) : (s.markDamaged m ma step).mem.bad = s.mem.bad := by
  obtain ⟨l, hl⟩ := s.markDamaged_mem m ma step
  rw [hl]

theorem State.askPartner_mem (s : State) : ∃ l, s.askPartner.mem = { s.mem with damaged := l } := by
  unfold State.askPartner
  split
  · dsimp only
    split
    · exact ⟨_, rfl⟩
    · exact ⟨_, State.foldl_keeps State.mem (fun t x => t.openSend_mem _) _ _⟩
  · exact ⟨_, rfl⟩

@[simp] theorem State.askPartner_cells (s : State) : s.askPartner.mem.cells = s.mem.cells := by
  obtain ⟨l, hl⟩ := s.askPartner_mem
  rw [hl]

@[simp] theorem State.askPartner_bad (s : State) : s.askPartner.mem.bad = s.mem.bad := by
  obtain ⟨l, hl⟩ := s.askPartner_mem
  rw [hl]

/-! The counters of an M-die stand beside the stored bytes. -/

@[simp] theorem State.mdie_cells (s : State) (m : Nat) (f : MDie → MDie) : (s.mdie m f).mem.cells = s.mem.cells := rfl
@[simp] theorem State.mdie_bad (s : State) (m : Nat) (f : MDie → MDie) : (s.mdie m f).mem.bad = s.mem.bad := rfl

@[simp] theorem State.get_mdie_same (s : State) (m : Nat) (f : MDie → MDie) :
    SMap.get MDie.blank (s.mdie m f).mem.mdies m = f (SMap.get MDie.blank s.mem.mdies m) := SMap.get_insert_same _ _ _ _

@[simp] theorem State.countCe_cells (s : State) (m w pos : Nat) : (s.countCe m w pos).mem.cells = s.mem.cells := by
  unfold State.countCe
  dsimp only
  split
  · rw [State.alert_mem]
    rfl
  · rfl

/-- An atom without data is marked and its shard with it, the partner is asked, and the stored bytes stand (R194). -/
def State.markAtom (s : State) (m ma : Nat) : State :=
  (((s.withMem { s.mem with bad := SMap.insert s.mem.bad (ma / 256) true }).log { code := 0x2001, source := srcM m, detail := leBytes 8 ma }).markDamaged m ma
    0).askPartner

@[simp] theorem State.markAtom_cells (s : State) (m ma : Nat) : (s.markAtom m ma).mem.cells = s.mem.cells := by simp [State.markAtom]

@[simp] theorem State.markAtom_bad (s : State) (m ma : Nat) : (s.markAtom m ma).mem.bad = SMap.insert s.mem.bad (ma / 256) true := by simp [State.markAtom]

/-! In-package links (R198). -/

section
variable {link : LinkId} {again : Bool} {at' : Nat} {s0 s : State} (hs : s = s0.advance at') (hlink : linkExists link = true)
  (hworks : (s.link (linkKey link)).failed = false)

include hs hlink hworks

/-- Fewer than eight failures in a row are counted, and the flit goes again. -/
theorem execLinkFlitReplay_counted {n : Nat} (hn : n = if again then (s.link (linkKey link)).failRun + 1 else 1) (hfew : n < 8) :
    execLinkFlitReplay link again at' s0
      = .next (s.setLink (linkKey link) { s.link (linkKey link) with replays := sat32 ((s.link (linkKey link)).replays + 1), failRun := n }) := by
  subst hs
  have hnot9 : ¬ 8 < n := by omega
  have hnot8 : n ≠ 8 := by omega
  simp [execLinkFlitReplay, hlink, hworks, ← hn, hnot9, hnot8]

/-- A flit that fails again after the eighth failure and its retrain fails the link (R181). -/
theorem execLinkFlitReplay_fails (height : (s.link (linkKey link)).failRun = 8) :
    execLinkFlitReplay link true at' s0
      = .next ((s.setLink (linkKey link) { s.link (linkKey link) with replays := sat32 ((s.link (linkKey link)).replays + 1), failRun := 9 }).failLink link) := by
  subst hs
  simp [execLinkFlitReplay, hlink, hworks, height]

end

/-! Retries on EDC (R193). -/

/-- The M-die after it has retrained its port: the failed attempts and the retrain counted, EDC_RETRAIN logged. -/
def State.edcRetrained (s : State) (m fails ma : Nat) : State :=
  ((s.mdie m (fun d => { d with edcRetry := sat32 (d.edcRetry + min fails 8) })).mdie m (fun d => { d with retrain := sat32 (d.retrain + 1) })).log
    { code := 0x2004, source := srcM m, detail := leBytes 8 ma }

@[simp] theorem State.edcRetrained_cells (s : State) (m fails ma : Nat) : (s.edcRetrained m fails ma).mem.cells = s.mem.cells := rfl
@[simp] theorem State.edcRetrained_bad (s : State) (m fails ma : Nat) : (s.edcRetrained m fails ma).mem.bad = s.mem.bad := rfl

theorem State.edcRetrained_retrain (s : State) (m fails ma : Nat) :
    (SMap.get MDie.blank (s.edcRetrained m fails ma).mem.mdies m).retrain = sat32 ((SMap.get MDie.blank s.mem.mdies m).retrain + 1) := by
  simp [State.edcRetrained]

section
variable {mdie fails ma : Nat} {write ok : Bool} {s : State} (hm : mdie < 8)

include hm

/-- Up to four retries are counted only. -/
theorem execEdcRetry_retries (hsome : 1 ≤ fails) (hfew : fails ≤ 4) :
    execEdcRetry mdie write fails ok ma s = .next (s.mdie mdie (fun d => { d with edcRetry := sat32 (d.edcRetry + fails) })) := by
  have hmin : min fails 8 = fails := by omega
  unfold execEdcRetry
  rw [if_neg (by omega), hmin, if_pos (by omega), if_pos (by omega)]

/-- From the fifth failed attempt on the port has been retrained. -/
theorem execEdcRetry_retrains (hmany : 5 ≤ fails) (hlast : fails ≤ 8) : execEdcRetry mdie write fails ok ma s = .next (s.edcRetrained mdie fails ma) := by
  unfold execEdcRetry
  rw [if_neg (by omega), if_pos (by omega), if_neg (by omega)]
  rfl

/-- A read that still fails and cannot be corrected leaves its atom without data. -/
theorem execEdcRetry_uncorrectable :
    execEdcRetry mdie false 9 false ma s
      = .next (((s.edcRetrained mdie 9 ma).mdie mdie (fun d => { d with ue := sat32 (d.ue + 1), lastUeMa := some ma })).markAtom mdie ma) := by
  unfold execEdcRetry
  rw [if_neg (by omega)]
  rfl

/-- A write that still fails is a failure of the M-die. -/
theorem execEdcRetry_writeFails :
    execEdcRetry mdie true 9 ok ma s
      = .next (((s.edcRetrained mdie 9 ma).log { code := 0x2005, source := srcM mdie, detail := leBytes 8 ma }).hwFault 0x2005) := by
  unfold execEdcRetry
  rw [if_neg (by omega)]
  rfl

end

/-! The scrubber (R196). -/

theorem atomDecisions_nil : atomDecisions [] = List.replicate 16 .noError := by decide

/-- The scrub of an atom without an error, from the pass and not its last: the scrubber goes to the next atom. -/
theorem execScrubAtom_clean {m : Nat} {s : State} {d : MDie} (hm : m < 8) (hd : d = SMap.get MDie.blank s.mem.mdies m) (hqueue : d.corrQueue = [])
    (hgood : SMap.get false s.mem.bad (maOf m (d.scrubNext * 256) / 256) = false) (hmore : (d.scrubNext + 1) % (s.memBytes / 2048) ≠ 0) :
    execScrubAtom m [] s = .next (s.mdie m (fun x => { x with scrubNext := (d.scrubNext + 1) % (s.memBytes / 2048) })) := by
  subst hd
  unfold execScrubAtom
  rw [if_neg (by simp [hm])]
  simp [atomDecisions_nil, hqueue, hgood, hmore, State.mdie]

/-- A scrub writes counters, events and marks of damage; the stored bytes of the module stand, since a corrected atom is written back as it was
(log entry 33). -/
theorem execScrubAtom_cells {m : Nat} {errs : List (Nat × BitVec 4)} {s : State} (hm : m < 8) (herrs : ∀ e ∈ errs, e.1 < 576) :
    ∃ v, execScrubAtom m errs s = .next v ∧ v.mem.cells = s.mem.cells := by
  unfold execScrubAtom
  rw [if_neg (by simpa [hm] using fun n e he => herrs (n, e) he)]
  extract_lets _ _ _ s1 _ cs _ s2 _ _ _ s3
  have h2 : s2.mem.cells = s.mem.cells := State.foldl_keeps (fun t => t.mem.cells) (fun t p => t.countCe_cells m p.1 p.2) cs s1
  have h3 : s3.mem.cells = s.mem.cells := by
    unfold s3
    split
    · exact (State.askPartner_cells _).trans ((State.markDamaged_cells _ _ _ _).trans h2)
    · split
      · exact h2
      · exact h2
  split
  · exact ⟨_, rfl, h3⟩
  · exact ⟨_, rfl, h3⟩

/-! Refresh and the periodic retrain (R195, R202). -/

theorem execRefresh_same {m : Nat} (hm : m < 8) (s : State) : execRefresh m s = .next s := if_neg (by omega)

theorem execPeriodicRetrain_same {m : Nat} (hm : m < 8) (s : State) : execPeriodicRetrain m s = .next s := if_neg (by omega)

/-- Settles O49: the equation of each event in its case, and what the marking of an atom and a scrub leave of the stored bytes. -/
theorem memoryHardware : Obligations.MemoryHardware := by
  refine ⟨?replay, ?linkFails, ?retry, ?retrain, ?read, ?write, ?clean, ?scrub, ?timing⟩
  case replay =>
    intro link again at' s0 s hs hlink hworks hfew
    exact execLinkFlitReplay_counted hs hlink hworks rfl hfew
  case linkFails =>
    intro link at' s0 s hs hlink hworks height
    exact ⟨_, execLinkFlitReplay_fails hs hlink hworks height⟩
  case retry =>
    intro mdie fails ma write ok s hm hsome hfew
    exact execEdcRetry_retries hm hsome hfew
  case retrain =>
    intro mdie fails ma write ok s hm hmany hlast
    exact ⟨_, execEdcRetry_retrains hm hmany hlast, State.edcRetrained_retrain .., rfl, rfl⟩
  case read =>
    intro mdie ma s hm
    exact ⟨_, execEdcRetry_uncorrectable hm, by simp, by simp⟩
  case write =>
    intro mdie ma s hm
    exact ⟨_, execEdcRetry_writeFails hm⟩
  case clean =>
    intro mdie s d hm hd hqueue hgood hmore
    exact execScrubAtom_clean hm hd hqueue hgood hmore
  case scrub =>
    intro mdie errs s hm herrs
    exact execScrubAtom_cells hm herrs
  case timing =>
    intro mdie s hm
    exact ⟨execRefresh_same hm s, execPeriodicRetrain_same hm s⟩

end Sys2Proof.Machine
end

section
/-!
PROOFS. Entries of the near-memory engines (09_near_memory_engines R208, R223; 13_mirror_spares_recovery R313; 14_checkpoint_restore R345): how an optimizer,
a mirror and a checkpoint entry start on an M-die.
-/

namespace Sys2Proof.Machine

/-- The target buffer of a pair on an M-die and its working copy as a step's job first writes them (R208). -/
def State.beginTarget (s : State) (pair mdie step : Nat) : State :=
  s.setPairDie pair mdie { (s.pairDie pair mdie).setBuf (bufOf (s.v0 pair) step) (.writing step) with wc := .writing step, done := 0, rebuild := none }

/-- A job's layer sums on an M-die start from nothing (R220). -/
def State.dropSums (s : State) (job mdie : Nat) : State :=
  s.withMem { s.mem with sums := s.mem.sums.filter (fun x => ¬ (x.1 / 16 / 1024 = job ∧ x.1 % 16 = mdie)) }

section

variable {idx mdie at' k : Nat} {s0 s : State} {e : EntrySt} (hs : s = s0.advance at')

include hs

/-- An optimizer entry of phase 1 starts where a buffer holds the version before its step. -/
theorem execOptimizerJobPhase_first {j : Job} {b : Nat} (hbegin : s.mayBegin idx mdie clsOpt k e) (hj : SMap.find? s.jobs e.entry.object = some j)
    (hbase : (s.pairDie j.pair mdie).holds (e.step - 1) = some b) (hphase : s.phaseOf k e = 1) :
    execOptimizerJobPhase idx mdie at' s0
      = .next ((((s.beginTarget j.pair mdie e.step).dropSums e.entry.object mdie).startUnit k mdie).addRun (newRun k e mdie 1 false)) := by
  subst hs
  obtain ⟨hkey, hentry, hstart, hblocked⟩ := hbegin
  simp [execOptimizerJobPhase, hkey, hentry, hj, hstart, hblocked, hbase, hphase, State.beginTarget, State.dropSums]

/-- An optimizer entry that finds neither buffer of its base version writes nothing. -/
theorem execOptimizerJobPhase_gone {j : Job} (hbegin : s.mayBegin idx mdie clsOpt k e) (hj : SMap.find? s.jobs e.entry.object = some j)
    (hbase : (s.pairDie j.pair mdie).holds (e.step - 1) = none) : execOptimizerJobPhase idx mdie at' s0 = .next (s.jobGone k mdie j.pair e.step) := by
  subst hs
  obtain ⟨hkey, hentry, hstart, hblocked⟩ := hbegin
  simp [execOptimizerJobPhase, hkey, hentry, hj, hstart, hblocked, hbase]

/-- A mirror entry starts where no refresh of its pair is still to arrive (R316). -/
theorem execMirrorJobPhase_starts {j : Job} (hbegin : s.mayBegin idx mdie clsMirror k e) (hj : SMap.find? s.jobs e.entry.object = some j)
    (hfresh : j.pair ∉ s.recov.refreshing) :
    execMirrorJobPhase idx mdie at' s0 = .next ((s.startUnit k mdie).addRun (newRun k e mdie (s.phaseOf k e) true)) := by
  subst hs
  obtain ⟨hkey, hentry, hstart, hblocked⟩ := hbegin
  simp [execMirrorJobPhase, hkey, hentry, hj, hstart, hblocked, hfresh]

/-- A checkpoint entry outside a checkpoint starts and ends on its M-die and does nothing else. -/
theorem execCheckpointChunk_idle {s1 : State} (hbegin : s.mayBegin idx mdie clsCkpt k e) (h1 : s1 = (s.startUnit k mdie).finishUnit k mdie)
    (hrun : s1.ckpt.run = none) : execCheckpointChunk idx mdie at' s0 = .next s1 := by
  subst hs h1
  obtain ⟨hkey, hentry, hstart, hblocked⟩ := hbegin
  simp [execCheckpointChunk, hkey, hentry, hstart, hblocked, hrun]

/-- A further checkpoint entry of a clause adds its limit to what the M-die may still read. -/
theorem execCheckpointChunk_adds {s1 : State} {r : CkptRun} {n m : Nat} (hbegin : s.mayBegin idx mdie clsCkpt k e)
    (h1 : s1 = (s.startUnit k mdie).finishUnit k mdie) (hrun : s1.ckpt.run = some r) (hlimit : s1.ckpt.policy.limit e.entry.object = some n)
    (hallow : SMap.find? r.allow mdie = some (some m)) :
    execCheckpointChunk idx mdie at' s0 = .next (s1.setRun { r with allow := SMap.insert r.allow mdie (some (n + m)) }) := by
  subst hs h1
  obtain ⟨hkey, hentry, hstart, hblocked⟩ := hbegin
  simp [execCheckpointChunk, hkey, hentry, hstart, hblocked, hrun, hlimit, hallow]

end

/-- Settles O25: the five starts above. -/
theorem jobEntries : Obligations.JobEntries := by
  refine ⟨?first, ?gone, ?mirror, ?idle, ?adds⟩
  case first =>
    rintro idx mdie at' k s0 s s1 e j b sums hs hbegin hj hbase hphase rfl rfl
    exact execOptimizerJobPhase_first hs hbegin hj hbase hphase
  case gone =>
    intro idx mdie at' k s0 s e j hs hbegin hj hbase
    exact execOptimizerJobPhase_gone hs hbegin hj hbase
  case mirror =>
    intro idx mdie at' k s0 s e j hs hbegin hj hfresh
    exact execMirrorJobPhase_starts hs hbegin hj hfresh
  case idle =>
    intro idx mdie at' k s0 s s1 e hs hbegin h1 hrun
    exact execCheckpointChunk_idle hs hbegin h1 hrun
  case adds =>
    intro idx mdie at' k n m s0 s s1 e r hs hbegin h1 hrun hlimit hallow
    exact execCheckpointChunk_adds hs hbegin h1 hrun hlimit hallow

end Sys2Proof.Machine
end

section
/-!
PROOFS. Segments and ends of job phases (09_near_memory_engines R208, R214, R219, R227, R228): a segment that may be worked through, one that waits at a guard
unit, and the end of an own job's last phase.
-/

namespace Sys2Proof.Machine

/-- The buffer that holds the base version of a phase's step on its M-die (R208). -/
def State.baseBuf (s : State) (r : JobRun) (j : Job) (mdie : Nat) : Nat := ((s.pairDie j.pair mdie).holds (r.step - 1)).getD 0

/-- The gradients of elements, as the gradient plane holds them (R212). -/
def State.gradsOf (s : State) (env : JobEnv) (is : List Nat) : List (Nat × Val) := is.map (fun i => (i, fFP32.decode (s.mem4 (env.grad + 4 * i))))

theorem State.gradsOf_zipIdx (s : State) (env : JobEnv) (is : List Nat) :
    is.zipIdx.map (fun p => (p.1, fFP32.decode (s.mem4 (env.grad + 4 * p.1)))) = s.gradsOf env is := by
  rw [State.gradsOf]
  conv_rhs => rw [← List.zipIdx_map_fst 0 is, List.map_map]
  rfl

section

variable {idx mdie seg : Nat} {s : State} {r : JobRun} {j : Job} {env : JobEnv}
  (hr : s.mem.jobRuns.find? (fun r => keyPlace r.tableKey == idx && r.mdie == mdie && !r.ended && r.stall.isNone) = some r)
  (hj : SMap.find? s.jobs r.job = some j) (hrun : s.inRun = true) (hown : r.mirror = false) (hnext : r.segs = seg) (hseg : seg < segCount j.n)
  (hcontribs : (s.segCounts r.step mdie j.pair seg).contribs = j.expected) (henv : env = s.jobEnv r j (s.baseBuf r j mdie))

include hr hj hrun hown hnext hseg hcontribs henv

/-- An own segment before the last phase whose contributions are complete, whose guard units are read and whose atoms all hold data is worked through, and
its gradient is sent to the mirror partner. -/
theorem execSegmentBegin_works {x : State × Word} (hlast : env.last = false) (hguard : s.guardHit env mdie (s.segElems j.pair j.n mdie seg) = none)
    (hgood : s.badRead env (s.segElems j.pair j.n mdie seg) = none) (hx : x = s.runSegment env mdie (s.gradsOf env (s.segElems j.pair j.n mdie seg))) :
    execSegmentBegin idx mdie seg [] s = .next ((x.1.setRunOf r (fun q => { q with segs := seg + 1, fold := q.fold + x.2 })).sendStream env mdie seg
      (s.segElems j.pair j.n mdie seg) (keyWindow r.tableKey)) := by
  subst hx henv hnext
  have hleft : ¬ segCount j.n ≤ r.segs := by omega
  simp only [State.baseBuf] at hlast hguard hgood ⊢
  simp [execSegmentBegin, hr, hj, hrun, hown, hleft, hcontribs, hguard, hgood, hlast, State.gradsOf_zipIdx]

/-- A segment that would write into a guard unit that the streamer has not read waits there. -/
theorem execSegmentBegin_waits {u : Nat} (hguard : s.guardHit env mdie (s.segElems j.pair j.n mdie seg) = some u) :
    execSegmentBegin idx mdie seg [] s
      = .next (((s.setRunOf r (fun q => { q with stall := some (u, s.clk.ref) })).near mdie
          (fun n => { n with stallCount := sat32 (n.stallCount + 1) })).logStepKey (mdie + 1) { code := 0x200F, source := srcM mdie, step := r.step }) := by
  subst henv hnext
  have hleft : ¬ segCount j.n ≤ r.segs := by omega
  simp only [State.baseBuf] at hguard
  simp [execSegmentBegin, hr, hj, hrun, hown, hleft, hcontribs, hguard]

end

@[simp] theorem State.logStepKey_mem (s : State) (key : Nat) (n : Note) : (s.logStepKey key n).mem = s.mem := by
  unfold State.logStepKey
  dsimp only
  split <;> rfl

/-- Whether an entry has finished on every unit; an entry that is no longer there has. -/
def State.entryFinished (s : State) (key : Nat) : Bool :=
  match s.entryAt key with
  | some e => e.state == .finished
  | none => true

/-- The M-die after it has worked through a phase: the run has ended, and the phase is counted (R229). -/
def State.phaseEnded (s : State) (r : JobRun) (mdie : Nat) : State :=
  (s.setRunOf r (fun q => { q with ended := true })).near mdie (fun n => { n with jobsDone := sat32 (n.jobsDone + 1) })

/-- The step's buffer of a pair on an M-die and its working copy are HELD (R208). -/
def State.holdTarget (s : State) (pair mdie buf step : Nat) : State :=
  s.setPairDie pair mdie { (s.pairDie pair mdie).setBuf buf (.held step) with wc := .held step }

/-- The last phase of an own job leaves its version HELD on the M-die; the last M-die of the entry closes the phase. -/
theorem execJobPhaseEnd_holds {idx mdie at' : Nat} {s0 s s2 : State} {r : JobRun} {j : Job} {env : JobEnv} (hs : s = s0.advance at')
    (hr : s.mem.jobRuns.find? (fun r => keyPlace r.tableKey == idx && r.mdie == mdie && !r.ended) = some r) (hj : SMap.find? s.jobs r.job = some j)
    (hsegs : r.segs = segCount j.n) (henv : env = s.jobEnv r j (s.baseBuf r j mdie)) (hlast : env.last = true) (hown : r.mirror = false)
    (h2 : s2 = ((s.phaseEnded r mdie).holdTarget j.pair mdie (bufOf (s.v0 j.pair) r.step) r.step).finishUnit r.tableKey mdie) :
    execJobPhaseEnd idx mdie at' s0 = .next (if s2.entryFinished r.tableKey = true then s2.closePhase r j env else s2) := by
  subst hs henv h2
  simp only [State.baseBuf] at hlast ⊢
  simp [execJobPhaseEnd, hr, hj, hsegs, hown, hlast, State.phaseEnded, State.holdTarget, State.entryFinished] <;> rfl

/-- Settles O26: the equations above; what waits at a guard unit has written no memory and no plane. -/
theorem jobSegments : Obligations.JobSegments := by
  refine ⟨?works, ?waits, ?ends⟩
  case works =>
    rintro idx mdie seg s r j env x s1 hr hj hrun hown hnext hseg hcontribs henv hlast hguard hgood hx rfl
    exact execSegmentBegin_works hr hj hrun hown hnext hseg hcontribs henv hlast hguard hgood hx
  case waits =>
    intro idx mdie seg u s r j env hr hj hrun hown hnext hseg hcontribs henv hguard
    refine ⟨_, execSegmentBegin_waits hr hj hrun hown hnext hseg hcontribs henv hguard, ?_, ?_⟩ <;> rw [State.logStepKey_mem] <;> rfl
  case ends =>
    rintro idx mdie at' s0 s s1 s2 r j env hs hr hj hsegs henv hlast hown rfl h2
    exact execJobPhaseEnd_holds hs hr hj hsegs henv hlast hown h2

end Sys2Proof.Machine
end

section
/-!
PROOFS. Gradient deliveries (09_near_memory_engines R212 to R215): what a delivery that reaches its M-die meets there, and the release of one that waited.
-/

namespace Sys2Proof.Machine

@[simp] theorem State.withMem_withMem (s : State) (x y : Mem) : (s.withMem x).withMem y = s.withMem y := rfl

/-- A delivery has left its collective. -/
def State.arrived (s : State) (d : Delivery) : State := s.withMem { s.mem with outbox := s.mem.outbox.erase d }

section

variable {d : Delivery} {s : State} (hsent : d ∈ s.mem.outbox)

include hsent

section

variable (hrun : s.inRun = true) (hstep : s.run.lag0 = some d.step)

include hrun hstep

/-- A delivery after the next ordinal is held, where the M-die holds fewer than 16 (R212). -/
theorem execGradientDelivery_early (hearly : (s.segCounts d.step d.mdie d.pair d.seg).deliveries < d.ordinal)
    (hroom : (s.mem.early.filter (fun x => x.mdie == d.mdie)).length < 16) :
    execGradientDelivery d s = .next (s.withMem { s.mem with outbox := s.mem.outbox.erase d, early := s.mem.early ++ [d] }) := by
  have hplace : ¬ 16 ≤ (s.mem.early.filter (fun x => x.mdie == d.mdie)).length := by omega
  simp [execGradientDelivery, hsent, hrun, hstep, hearly, hplace]

section

variable (hturn : d.ordinal ≤ (s.segCounts d.step d.mdie d.pair d.seg).deliveries)

include hturn

/-- A delivery in its turn is applied once no use of the gradient before it remains. -/
theorem execGradientDelivery_applied (hfree : s.gradInUse d.pair d.mdie d.seg (d.step - 1) = false) :
    execGradientDelivery d s = .next ((s.arrived d).takeDelivery d) := by
  have hnotEarly : ¬ (s.segCounts d.step d.mdie d.pair d.seg).deliveries < d.ordinal := by omega
  simp [execGradientDelivery, hsent, hrun, hstep, hnotEarly, hfree, State.arrived]

/-- And it waits, from now on, while one remains (R215). -/
theorem execGradientDelivery_waits (huse : s.gradInUse d.pair d.mdie d.seg (d.step - 1) = true) :
    execGradientDelivery d s
      = .next (s.withMem { s.mem with outbox := s.mem.outbox.erase d, waiting := s.mem.waiting ++ [(d, s.clk.ref)] }) := by
  have hnotEarly : ¬ (s.segCounts d.step d.mdie d.pair d.seg).deliveries < d.ordinal := by omega
  simp [execGradientDelivery, hsent, hrun, hstep, hnotEarly, huse]

end

end

/-- A stray delivery is discarded: counted on its M-die and logged (R213). -/
def State.discarded (s : State) (d : Delivery) : State :=
  ((s.arrived d).near d.mdie (fun n => { n with stray := sat32 (n.stray + 1) })).log
    { code := 0x200E, source := srcM d.mdie, step := d.step, detail := leBytes 2 d.pair ++ leBytes 4 d.seg }

/-- A delivery of another step than the window's is stray, and the window's step fails and counts it. -/
theorem execGradientDelivery_stray {k : Nat} (hlag : s.run.lag0 = some k) (hother : k ≠ d.step) :
    execGradientDelivery d s = .next (((s.discarded d).failStep k fEntry).mapStep k (fun r => { r with strays := r.strays + 1 })) := by
  simp [execGradientDelivery, hsent, hlag, hother, State.discarded, State.arrived]

end

@[simp] theorem State.stepRec_mapStep_same (s : State) (n : Nat) (f : StepRec → StepRec) : (s.mapStep n f).stepRec n = f (s.stepRec n) :=
  SMap.get_insert_same _ _ _ _

/-- A delivery that waited is applied once no use of the gradient before it remains, and its wait is counted (R215). -/
theorem execDeliveryRelease_applies {mdie pair seg since : Nat} {d : Delivery} {s : State}
    (hwaits : s.mem.waiting.find? (fun x => x.1.mdie == mdie && x.1.pair == pair && x.1.seg == seg) = some (d, since))
    (hfree : s.gradInUse pair mdie seg (d.step - 1) = false) :
    execDeliveryRelease mdie pair seg s = .next (((s.withMem { s.mem with waiting := s.mem.waiting.erase (d, since) }).near mdie
      (fun n => { n with holdUs := sat32 (n.holdUs + ceilDiv (s.clk.ref - since) 100) })).takeDelivery d) := by
  simp [execDeliveryRelease, hwaits, hfree]

/-- Settles O27: the equations above; discarding a delivery has left the step records and the stored bytes. -/
theorem deliveries : Obligations.Deliveries := by
  refine ⟨?applied, ?early, ?waits, ?stray, ?released⟩
  case applied =>
    intro d s hsent hrun hstep hturn hfree
    exact execGradientDelivery_applied hsent hrun hstep hturn hfree
  case early =>
    intro d s hsent hrun hstep hearly hroom
    exact execGradientDelivery_early hsent hrun hstep hearly hroom
  case waits =>
    intro d s hsent hrun hstep hturn huse
    exact execGradientDelivery_waits hsent hrun hstep hturn huse
  case stray =>
    intro d s k hsent hlag hother
    refine ⟨_, execGradientDelivery_stray hsent hlag hother, ?_, rfl⟩
    simp only [State.stepRec_mapStep_same, State.failStep]
    rfl
  case released =>
    intro mdie pair seg since d s hwaits hfree
    exact execDeliveryRelease_applies hwaits hfree

end Sys2Proof.Machine
end

section
/-!
PROOFS. WC rebuilds, mirror records and refreshes (09_near_memory_engines R211; 13_mirror_spares_recovery R314, R315).
-/

namespace Sys2Proof.Machine

/-! What opening a send leaves (R262): it touches the fabric, the trace, the nutshell and the step records only. -/

/-- A part of the state that none of these writes reaches. -/
structure BesideSends {β : Type} (part : State → β) : Prop where
  fab   : ∀ s x, part (State.withFab s x) = part s
  sent  : ∀ s x, part (State.withSent s x) = part s
  nut   : ∀ s x, part (State.withNut s x) = part s
  steps : ∀ s x, part (State.withSteps s x) = part s

section

variable {β : Type} {part : State → β} (hp : BesideSends part)

include hp

theorem BesideSends.flushPort (s : State) (p : Nat) : part (s.flushPort p) = part s := by
  refine (hp.fab _ _).trans (List.foldlRecOn (motive := fun acc : State × List OutFrame × List Nat => part acc.1 = part s) _ _ rfl ?_)
  intro acc hacc o _
  split
  · exact ((hp.sent _ _).trans (hp.fab _ _)).trans hacc
  · exact hacc

theorem BesideSends.sendOn (s : State) (p : Nat) (f : HFrame) : part (s.sendOn p f) = part s := (hp.flushPort _ _).trans (hp.fab _ _)

theorem BesideSends.log (s : State) (n : Note) : part (s.log n) = part s := hp.nut _ _

theorem BesideSends.abandonOp (s : State) (n slot : Nat) : part (s.abandonOp n slot) = part s := by
  have hlogged : ∀ x note, part ((s.setNDie n x).log note) = part s := fun x note => (hp.log _ _).trans (hp.fab _ _)
  unfold State.abandonOp
  split
  · rfl
  · dsimp only
    split
    · exact ((hp.steps _ _).trans (hp.steps _ _)).trans (hlogged _ _)
    · exact hlogged _ _

theorem BesideSends.sendFragment (s : State) (n slot f : Nat) (resend : Bool) : part (s.sendFragment n slot f resend) = part s := by
  unfold State.sendFragment
  split
  · rfl
  · split
    · exact hp.abandonOp _ _ _
    · split
      · exact (hp.abandonOp _ _ _).trans ((hp.log _ _).trans (hp.fab _ _))
      · exact (hp.sendOn _ _ _).trans (hp.fab _ _)

theorem BesideSends.placeOp (s : State) (o : OpSlot) : part (s.placeOp o) = part s := by
  unfold State.placeOp
  dsimp only
  split
  · exact hp.fab _ _
  · exact (State.foldl_keeps part (fun t f => hp.sendFragment t _ _ f false) _ _).trans (hp.fab _ _)

theorem BesideSends.openSend (s : State) (x : Send) : part (s.openSend x) = part s := by
  unfold State.openSend
  split
  · split
    · rfl
    · split
      · rfl
      · exact State.foldl_keeps part hp.placeOp _ _
  · rfl

end

theorem besideSends_recov : BesideSends State.recov where
  fab _ _ := rfl
  sent _ _ := rfl
  nut _ _ := rfl
  steps _ _ := rfl

/-! WC rebuilds (R211). -/

theorem State.atom_good {s : State} (hgood : s.mem.bad = []) (a : Nat) : SMap.get false s.mem.bad a = false := by
  rw [hgood]
  rfl

/-- A rebuild completes and leaves the plane HELD, where no stored atom is uncorrectable. -/
theorem execWcRebuildDone_held {mdie pair v b : Nat} {s : State} {j : Job} (hbuild : (s.pairDie pair mdie).rebuild = some v)
    (hj : s.pairJob pair = some j) (hbuf : (s.pairDie pair mdie).holds v = some b) (hgood : s.mem.bad = []) :
    execWcRebuildDone mdie pair s
      = .next ((s.rebuildWc j mdie v b).setPairDie pair mdie { s.pairDie pair mdie with wc := .held v, rebuild := none }) := by
  simp [execWcRebuildDone, hbuild, hj, hbuf, State.atom_good hgood]

/-! The mirror (R314, R315). -/

/-- The partner's digest record of a step that is not sealed is kept with the step. -/
theorem execMirrorDigestRecord_kept {rec : Bytes} {s : State} {q : Nat} (hrun : s.inRun = true) (hpartner : s.recov.partner = some q)
    (hlen : rec.length = 32) (hopen : s.run.sealed < field rec 8 8) :
    execMirrorDigestRecord rec s = .next (s.mapStep (field rec 8 8) (fun r => { r with partner := r.partner ++ [rec] })) := by
  have hpending : ¬ field rec 8 8 ≤ s.run.sealed := by omega
  simp [execMirrorDigestRecord, hrun, hpartner, hlen, hpending]

/-- A refresh as it lies in the mirror (log entry 30); damage that it has mended is logged (R317). -/
def State.refreshLanded (s : State) (pair : Nat) (j : Job) (planes : Bytes) : State :=
  let s0 := s.writeShard j (s.regionBase j.mirror) (s.regionBase j.factor + factorSec j 2) planes
  if s0.mem.bad.length < s.mem.bad.length then s0.log { code := 0x8005, detail := leBytes 2 pair } else s0

/-- The fold of the mirror section after a refresh (R224). -/
def State.refreshFold (s : State) (version : Nat) (j : Job) (planes : Bytes) : Word :=
  (s.writeShard j (s.regionBase j.mirror) (s.regionBase j.factor + factorSec j 2) planes).shardFold j version (s.regionBase j.mirror)
    (s.regionBase j.factor + factorSec j 2)

theorem State.refreshLanded_mem (s : State) (pair : Nat) (j : Job) (planes : Bytes) :
    (s.refreshLanded pair j planes).mem = (s.writeShard j (s.regionBase j.mirror) (s.regionBase j.factor + factorSec j 2) planes).mem := by
  unfold State.refreshLanded
  dsimp only
  split <;> rfl

theorem State.refreshLanded_shardFold (s : State) (pair version : Nat) (j : Job) (planes : Bytes) :
    (s.refreshLanded pair j planes).shardFold j version (s.regionBase j.mirror) (s.regionBase j.factor + factorSec j 2)
      = s.refreshFold version j planes := by
  unfold State.refreshLanded
  dsimp only
  split <;> rfl

/-- A refresh that agrees leaves the pair's mirror HELD. -/
def State.refreshAgreed (s : State) (pair version : Nat) : State :=
  (s.withRecov { s.recov with mirror := SMap.insert s.recov.mirror pair (.held version), refreshing := s.recov.refreshing.erase pair,
                              mirrorBad := s.recov.mirrorBad.erase pair, retries := SMap.erase s.recov.retries pair,
                              refreshes := sat32 (s.recov.refreshes + 1) }).log
    { code := 0x8003, detail := leBytes 2 pair ++ leBytes 8 version }

/-- One that differs leaves it STALE: the first time the partner is asked once more, the second time the pair is given up. -/
def State.refreshDiffered (s : State) (pair version : Nat) : State :=
  if SMap.get 0 s.recov.retries pair = 0 then
    (s.withRecov { s.recov with mirror := SMap.insert s.recov.mirror pair .stale, retries := SMap.insert s.recov.retries pair 1 }).askRefresh pair version
  else
    (s.withRecov { s.recov with mirror := SMap.insert s.recov.mirror pair .stale, refreshing := s.recov.refreshing.erase pair,
                                retries := SMap.erase s.recov.retries pair, mirrorBad := pair :: s.recov.mirrorBad.erase pair }).log
      { code := 0x8004, detail := leBytes 2 pair ++ leBytes 8 version }

/-- A refresh that is awaited and has its pair's length lands in the mirror, and its fold decides. -/
theorem execMirrorRefresh_awaited {pair version : Nat} {planes : Bytes} {fold : Word} {s : State} {j : Job} (hj : s.pairJob pair = some j)
    (hawaited : pair ∈ s.recov.refreshing) (hlen : planes.length = 14 * j.n + 4 * j.factorCount) :
    execMirrorRefresh pair version planes fold s
      = .next (if s.refreshFold version j planes = fold then (s.refreshLanded pair j planes).refreshAgreed pair version
        else (s.refreshLanded pair j planes).refreshDiffered pair version) := by
  have hgo : ¬ (s.recov.refreshing.contains pair = false ∨ planes.length ≠ 14 * j.n + 4 * j.factorCount) := by simp [hawaited, hlen]
  simp only [execMirrorRefresh, hj, hgo, if_false, ← s.refreshLanded_shardFold pair, State.refreshDiffered, apply_ite Host.Outcome.next]
  rfl

theorem State.askRefresh_mem (s : State) (pair version : Nat) : (s.askRefresh pair version).mem = s.mem := by
  unfold State.askRefresh
  split
  · rfl
  · exact State.openSend_mem _ _

theorem State.askRefresh_recov (s : State) (pair version : Nat) : (s.askRefresh pair version).recov = s.recov := by
  unfold State.askRefresh
  split
  · rfl
  · exact besideSends_recov.openSend _ _

theorem State.refreshDiffered_mem (s : State) (pair version : Nat) : (s.refreshDiffered pair version).mem = s.mem := by
  unfold State.refreshDiffered
  split
  · exact State.askRefresh_mem _ _ _
  · rfl

theorem State.refreshDiffered_mirror (s : State) (pair version : Nat) :
    SMap.find? (s.refreshDiffered pair version).recov.mirror pair = some .stale := by
  unfold State.refreshDiffered
  split
  · rw [State.askRefresh_recov]
    exact SMap.find?_insert_same _ _ _
  · exact SMap.find?_insert_same _ _ _

/-- Settles O28: the equations above, read at the mirror's state and at the stored bytes. -/
theorem mirrorAndRebuild : Obligations.MirrorAndRebuild := by
  refine ⟨?rebuilt, ?record, ?agrees, ?differs⟩
  case rebuilt =>
    intro mdie pair v b s j hbuild hj hbuf hgood
    exact execWcRebuildDone_held hbuild hj hbuf hgood
  case record =>
    intro rec s q hrun hpartner hlen hopen
    exact execMirrorDigestRecord_kept hrun hpartner hlen hopen
  case agrees =>
    rintro pair version planes fold s s1 j hj hawaited hlen - rfl hfold
    refine ⟨_, (execMirrorRefresh_awaited hj hawaited hlen).trans (congrArg _ (if_pos hfold)), SMap.find?_insert_same _ _ _, ?_⟩
    exact congrArg Mem.cells (s.refreshLanded_mem pair j planes)
  case differs =>
    rintro pair version planes fold s s1 j hj hawaited hlen rfl hfold
    refine ⟨_, (execMirrorRefresh_awaited hj hawaited hlen).trans (congrArg _ (if_neg hfold)), State.refreshDiffered_mirror _ _ _, ?_⟩
    rw [State.refreshDiffered_mem, s.refreshLanded_mem]

end Sys2Proof.Machine
end

section
/-!
PROOFS. The streams of a checkpoint and of a restore (09_near_memory_engines R227; 14_checkpoint_restore R345, R348, R353): the units that the streamer
reads, what the sink returns, and the chunks that a restore receives.
-/

namespace Sys2Proof.Machine

/-! Units (R227, R345). -/

/-- What a stream's guard knows of its units: how many there are, and which have been read. -/
def CkptStream.unitsRead (x : CkptStream) (version : Nat) : Guard := { version := version, buf := 0, units := x.units_, read := x.units.map (·.1) }

section

variable {mdie pair i u : Nat} {s : State} {r : CkptRun} {x : CkptStream} (hr : s.ckpt.run = some r) (hsending : r.reading = false)
  (hx : r.streams.zipIdx.find? (fun x => x.1.kind != 2 && x.1.region == pair && x.1.mdie == mdie && decide (x.1.units.length < x.1.units_)) = some (x, i))
  (hgood : s.mem.bad = [])

include hr hsending hx hgood

/-- The unit of a pair region that a write waits at is read and sent whatever the allowance, and the write goes on. -/
theorem execGuardUnitRead_stalled (hkind : x.kind = 0) (hu : (x.unitsRead r.version).next (s.stallsAt pair mdie) = some u)
    (hwaits : u ∈ s.stallsAt pair mdie) : execGuardUnitRead mdie pair s = .next ((s.sendUnit r i u).releaseStall pair mdie u).afterUnit := by
  simp only [CkptStream.unitsRead] at hu
  simp [execGuardUnitRead, hr, hsending, hx, hkind, hu, hwaits, State.atom_good hgood]
  have hkept : ({ r with reading := false } : CkptRun) = r := by rw [← hsending]
  split <;> exact congrArg (fun q => ((s.sendUnit q i u).releaseStall pair mdie u).afterUnit) hkept

/-- Outside a run the next unit of the M-die's first unfinished stream is read and sent without an allowance. -/
theorem execGuardUnitRead_factor (hout : s.inRun = false)
    (hfirst : r.streams.zipIdx.find? (fun y => y.1.mdie == mdie && decide (y.1.units.length < y.1.units_)) = some (x, i)) (hkind : x.kind = 1)
    (hallow : r.allow = []) (hu : (x.unitsRead r.version).next [] = some u) : execGuardUnitRead mdie pair s = .next (s.sendUnit r i u).afterUnit := by
  simp only [CkptStream.unitsRead] at hu
  simp [execGuardUnitRead, hr, hsending, hx, hkind, hu, hout, hfirst, hallow, State.atom_good hgood]
  have hkept : ({ r with reading := false, allow := [] } : CkptRun) = r := by rw [← hsending, ← hallow]
  exact congrArg (fun q => (s.sendUnit q i u).afterUnit) hkept

end

/-! Read-back (R347, R348). -/

section

variable {stream : Nat} {data : Bytes} {s : State} {c : ChunkIn} {r : CkptRun}
  (hc : s.ckpt.inbox.find? (fun c => c.kind == 2 && c.stream == stream && c.data == data) = some c) (hr : s.ckpt.run = some r)

include hc hr

/-- Under the expert flag the digest that the sink returns for the stream being read back is judged. -/
theorem execReadbackChunk_digest {x : CkptStream} (hreading : r.reading = true) (hpos : r.pos = stream) (hx : r.streams[stream]? = some x)
    (hdigest : r.byDigest = true) :
    execReadbackChunk stream data s = .next ((s.withCkpt { s.ckpt with inbox := s.ckpt.inbox.erase c }).judgeStream
      { r with lastBack := s.clk.elapsed, verified := r.verified + data.length } x (data == x.digest)) := by
  subst hpos
  simp [execReadbackChunk, hc, hr, hreading, hx, hdigest]

/-- A chunk that is not of the stream being read back is discarded. -/
theorem execReadbackChunk_discarded (hother : r.reading = false ∨ stream ≠ r.pos) :
    execReadbackChunk stream data s = .next (s.withCkpt { s.ckpt with inbox := s.ckpt.inbox.erase c }) := by
  cases hx : r.streams[r.pos]? with
  | none => simp [execReadbackChunk, hc, hr, hx]
  | some x => simp [execReadbackChunk, hc, hr, hx, hother]

end

/-- Ten seconds after the last chunk a checkpoint that is being read back fails. -/
theorem execReadbackTimeout_fails {s : State} {r : CkptRun} (hr : s.ckpt.run = some r) (hreading : r.reading = true) :
    execReadbackTimeout s = .next ((s.advanceTo (r.lastBack + 1000000000)).failCheckpoint 0x0701) := by
  simp [execReadbackTimeout, hr, hreading, cyclesS]

/-! Restores (R353). -/

/-- The byte ranges of each stream that have arrived once one more has. -/
def RestoreRun.gotAfter (r : RestoreRun) (stream off len : Nat) : SMap (List (Nat × Nat)) :=
  SMap.insert r.got stream ((off, len) :: (SMap.find? r.got stream).getD [])

/-- A chunk within its stream is written to its place, where bytes are still to come. -/
theorem execRestoreStreamChunk_lands {stream off : Nat} {data : Bytes} {s s1 : State} {c : ChunkIn} {r : RestoreRun} {x : CkptStream} {xs : List CkptStream}
    (hc : s.ckpt.inbox.find? (fun c => c.kind == 3 && c.stream == stream && c.off == off && c.data == data) = some c) (hr : s.ckpt.restore = some r)
    (h1 : s1 = s.withCkpt { s.ckpt with inbox := s.ckpt.inbox.erase c }) (hxs : xs = (s1.restoreStreams r.manifest).filterMap id)
    (hx : xs[stream]? = some x) (hfits : off + data.length ≤ x.len) (hkind : x.kind ≠ 2)
    (hmore : (xs.zipIdx).all (fun y => covered ((SMap.find? (r.gotAfter stream off data.length) y.2).getD []) y.1.len) = false) :
    execRestoreStreamChunk stream off data s = .next ((s1.writeStream x off data).withCkpt { (s1.writeStream x off data).ckpt with
      restore := some { r with got := r.gotAfter stream off data.length, received := r.received + data.length } }) := by
  have hr1 : s1.ckpt.restore = some r := by
    rw [h1]
    exact hr
  have hinside : ¬ x.len < off + data.length := by omega
  simp only [RestoreRun.gotAfter] at hmore ⊢
  dsimp only at h1
  simp only [execRestoreStreamChunk, hc, ← h1, hr1, ← hxs, hx, hinside, hkind, hmore, if_false, Bool.false_eq_true]

/-- Settles O45: the equations above. -/
theorem checkpointStreams : Obligations.CheckpointStreams := by
  refine ⟨?stalled, ?factor, ?digest, ?discarded, ?timeout, ?lands⟩
  case stalled =>
    rintro mdie pair i u s s1 r x g hr hsending hx hkind rfl hu hwaits hgood rfl
    exact execGuardUnitRead_stalled hr hsending hx hgood hkind hu hwaits
  case factor =>
    rintro mdie pair i u s r x g hr hsending hout hx hfirst hkind hallow rfl hu hgood
    exact execGuardUnitRead_factor hr hsending hx hgood hout hfirst hkind hallow hu
  case digest =>
    intro stream data s c r x hc hr hreading hpos hx hdigest
    exact execReadbackChunk_digest hc hr hreading hpos hx hdigest
  case discarded =>
    intro stream data s c r hc hr hother
    exact execReadbackChunk_discarded hc hr hother
  case timeout =>
    intro s r hr hreading
    exact execReadbackTimeout_fails hr hreading
  case lands =>
    rintro stream off data s s1 s2 c r r1 x xs hc hr h1 hxs hx hfits hkind rfl hmore rfl
    exact execRestoreStreamChunk_lands hc hr h1 hxs hx hfits hkind hmore

end Sys2Proof.Machine
end

section
/-!
PROOFS. When a WAIT is satisfied (10_synchronisation R239; 06_core_instruction_set R134, R135).
-/

namespace Sys2Proof.Machine

/-! What an instruction can leave at issue. -/

theorem notNow_ne_next (why : String) (t : State) : notNow why ≠ .next t := by simp [notNow]

/-- An issue that goes on offers its instruction, or stops its entry before the instruction is looked at (R125, R144). -/
theorem issue_next_cases {c : Nat} {i : Instr} {body : Core → EntryRun → State → Issued} {s t : State} (h : issue c i body s = .next t) :
    (∃ e w, s.offers c i e w) ∨ ∃ e code w, (code = xLimit ∨ code = xFetch) ∧ t = s.raiseExc c e code 0 e.issued w := by
  cases he : (s.core c).entry with
  | none => simp only [issue, he, notNow_ne_next] at h
  | some e =>
    simp only [issue, he] at h
    split_ifs at h with hheld hlimit
    · exact absurd h (notNow_ne_next _ _)
    · exact .inr ⟨e, xLimit, _, .inl rfl, (Host.Outcome.next.inj h).symm⟩
    · cases hword : (s.core c).word e.pc with
      | none =>
        rw [hword] at h
        exact .inr ⟨e, xFetch, _, .inr rfl, (Host.Outcome.next.inj h).symm⟩
      | some w =>
        simp only [hword] at h
        split_ifs at h with hother
        · exact absurd h (notNow_ne_next _ _)
        · push Not at hheld hother
          obtain ⟨hc, hstopped, hended, hwait⟩ := hheld
          exact .inl ⟨e, w, hc, he, by simpa using hstopped, by simpa using hended, by simpa using hwait, by omega, hword, hother⟩

/-- What an instruction did at issue has left the sync objects; a code below 256 says nothing of an uncorrectable codeword. -/
def Issued.keepsSync (s : State) : Issued → Prop
  | .done t => t.sync = s.sync
  | .goto t _ => t.sync = s.sync
  | .raise code _ => code < 256
  | .raiseIn t code _ => t.sync = s.sync ∧ code < 256
  | .stall => True

/-- An exception writes no sync object. -/
theorem State.raiseExc_sync {s : State} {c : Nat} {e : EntryRun} {code detail index : Nat} {w : Word} (hcode : code < 256) :
    (s.raiseExc c e code detail index w).sync = s.sync := by
  obtain ⟨-, -, hsync⟩ := State.raiseExc_spec (s := s) (c := c) (e := e) (detail := detail) (index := index) (w := w) hcode
  exact hsync

/-- An instruction whose body leaves the sync objects leaves them, whichever way its issue ends. -/
theorem issue_keepsSync {c : Nat} {i : Instr} {body : Core → EntryRun → State → Issued} {s t : State}
    (hbody : ∀ e, (body (s.core c) e s).keepsSync s) (h : issue c i body s = .next t) : t.sync = s.sync := by
  obtain ⟨e, w, hoff⟩ | ⟨e, code, w, rfl | rfl, rfl⟩ := issue_next_cases h
  · have hkeeps := hbody e
    rw [issue_offers hoff] at h
    generalize body (s.core c) e s = did at h hkeeps
    cases did with
    | done u | goto u pc =>
      obtain rfl := Host.Outcome.next.inj h
      exact hkeeps
    | raise code detail =>
      obtain rfl := Host.Outcome.next.inj h
      exact State.raiseExc_sync hkeeps
    | raiseIn u code detail =>
      obtain rfl := Host.Outcome.next.inj h
      obtain ⟨hsync, hcode⟩ := hkeeps
      exact (State.raiseExc_sync hcode).trans hsync
    | stall =>
      obtain rfl := Host.Outcome.next.inj h
      rfl
  · exact State.raiseExc_sync (by decide)
  · exact State.raiseExc_sync (by decide)

/-! A WAIT at issue. -/

/-- The wait that a WAIT of a core starts on an object (R135). -/
def State.waitOn (s : State) (c key : Nat) (x : WaitOp) : WaitRun :=
  { key := key, target := ((s.core c).s x.target).toNat % 2 ^ 32, sleep := x.sleep, issued := s.clk.ref, timeout := x.timeout.toNat }

/-- A WAIT that may be made on an object that is not poisoned completes when the value has reached the target, and stands otherwise. -/
theorem execWait_compares {c key : Nat} {x : WaitOp} {e : EntryRun} {w : Word} {s : State} (h : s.offers c (.wait c x) e w)
    (hdrained : x.sleep = false ∨ (s.core c).drained = true) (hobj : s.resolveHandle c (((s.core c).s x.reg).toNat % 2 ^ 32) = some (.obj key))
    (hmay : mayWait c key = true) (hok : (s.obj key).poisoned = false) :
    execWait c x s = .next (if ((s.core c).s x.target).toNat % 2 ^ 32 ≤ (s.obj key).value then s.retired c
      else s.jumps c { s.core c with wait := some (s.waitOn c key x) } e.pc) := by
  have hgo : (x.sleep && !(s.core c).drained) = false := by rcases hdrained with hx | hk <;> simp [*]
  rw [execWait, issue_offers h]
  simp only [hgo, hobj, hmay, hok, Bool.not_true, Bool.false_eq_true, if_false]
  by_cases hreached : ((s.core c).s x.target).toNat % 2 ^ 32 ≤ (s.obj key).value
  · rw [if_pos hreached, if_pos hreached]
  · rw [if_neg hreached, if_neg hreached]
    rfl

/-- A WAIT never changes an object: it completes, stands, stalls or raises an exception of its own. -/
theorem execWait_sync {c : Nat} {x : WaitOp} {s t : State} (h : execWait c x s = .next t) : t.sync = s.sync := by
  refine issue_keepsSync (fun e => ?_) h
  dsimp only
  have hhandle : xHandle < 256 := by decide
  have hpoisoned : xPoisoned < 256 := by decide
  split
  · trivial
  · split
    · split_ifs
      · exact hhandle
      · exact hpoisoned
      · rfl
      · rfl
    · exact hhandle

/-! A WAIT that stands. -/

theorem State.reached_of_wait {s : State} {c : Nat} {w : WaitRun} (hw : (s.core c).wait = some w) : s.reached c = decide (w.target ≤ (s.obj w.key).value) := by
  simp only [State.reached, hw]

/-- A core whose WAIT completes goes on after it. -/
theorem State.passWait_entry {s : State} {c : Nat} {e : EntryRun} (he : (s.core c).entry = some e) :
    s.passWait c = s.setCore c { s.core c with
      wait := none, loops := (settle (s.core c).loops (e.pc + 1)).1, entry := some { e with pc := (settle (s.core c).loops (e.pc + 1)).2 } } := by
  simp only [State.passWait, he]

/-- A standing WAIT completes once the value has reached its target. -/
theorem execWaitSatisfied_reached {s : State} {c : Nat} {w : WaitRun} (hw : (s.core c).wait = some w) (hok : (s.obj w.key).poisoned = false)
    (hreached : w.target ≤ (s.obj w.key).value) : execWaitSatisfied c s = .next (s.passWait c) := by
  simp only [execWaitSatisfied, hw, State.reached_of_wait hw, hok, hreached, decide_true, Bool.not_true, Bool.or_false, Bool.false_eq_true, if_false]

/-- A WAIT stands while the value is below its target. -/
theorem execWaitSatisfied_below {s : State} {c : Nat} {w : WaitRun} (hw : (s.core c).wait = some w) (hbelow : (s.obj w.key).value < w.target) :
    execWaitSatisfied c s = notNow "the wait is not satisfied" := by
  simp only [execWaitSatisfied, hw, State.reached_of_wait hw, not_le.mpr hbelow, decide_false, Bool.not_false, Bool.or_true, if_true]

/-- Settles O41: at issue and while it stands a WAIT compares the value with its target, and no way that its issue ends writes an object. -/
theorem waitSatisfied : Obligations.WaitSatisfied := by
  refine ⟨?issued, ?reached, ?below, ?held, ?kept⟩
  case issued =>
    rintro c key _ x e w s _ _ rfl h hdrained rfl hobj hmay hok rfl
    have hcompares := execWait_compares h hdrained hobj hmay hok
    exact ⟨fun hreached => hcompares.trans (congrArg Host.Outcome.next (if_pos hreached)),
      fun hbelow => hcompares.trans (congrArg Host.Outcome.next (if_neg (not_le.mpr hbelow)))⟩
  case reached =>
    intro c s w e hw he hok hreached
    refine ⟨_, execWaitSatisfied_reached hw hok hreached, ?_⟩
    rw [State.passWait_entry he, State.core_setCore_same]
    exact ⟨rfl, rfl, rfl⟩
  case below =>
    intro c s w e hw _ hbelow
    exact execWaitSatisfied_below hw hbelow
  case held =>
    intro c i f s e he hw
    exact issue_waiting i f he hw
  case kept =>
    intro c x s t hnext key
    exact congrArg SyncObj.value (State.obj_congr (execWait_sync hnext) key)

end Sys2Proof.Machine
end

section
/-!
PROOFS. Slice commands (11_fabric_and_collectives R265, R271, R280; 16_vuhal_command_reference R398): what a join, a route table, an axis set and a cabling
check answer once their checks pass.
-/

namespace Sys2Proof.Machine

section

variable {t : Nat} {p b : Bytes} {s : State}

/-! SLICE_JOIN and SLICE_LEAVE (R398). -/

/-- A module without a slice that the slice's current table lists joins it at its place in that table. -/
theorem execSliceJoin_joins {x : RouteTable} {r : Nat} (h : s.ready 0x0701 t p) (hzero : allZero p 2 6 = true) (hfree : s.member = none)
    (htable : (s.sliceTables (field p 0 2)).current = some x) (hplace : x.members.findIdx? (· == s.modId) = some r) :
    execSliceJoin t p s
      = .next ((s.withMember (some (field p 0 2, r))).respond t (okWith (leBytes 2 r ++ leBytes 2 x.members.length ++ leBytes 4 x.epoch))) := by
  refine hostCmd_answers h ?_
  simp only [htable, hplace]
  exact checked_none (by simp [wrong, reserved, hfree, hzero])

theorem execSliceLeave_leaves (h : s.ready 0x0705 t p) : execSliceLeave t p s = .next (s.leaveSlice.respond t okReply) := hostCmd_answers h rfl

/-! ROUTE_TABLE_LOAD (R265). -/

/-- A route table without a fault, effective neither in the past nor within 1 s of the current table's start, becomes the pending table of its slice. -/
theorem execRouteTableLoad_pends (h : s.ready 0x0702 t p) (hzero : allZero p 2 6 = true) (hsource : s.holdsAt t (field p 0 2) 0 0x20 routeBytes b)
    (hfuture : s.clk.ref ≤ (routeOf b).effective)
    (hsettled : (s.sliceTables (routeOf b).slice).current = none ∨ (s.sliceTables (routeOf b).slice).since + cyclesS ≤ (routeOf b).effective)
    (hfault : firstFault (routeFaults b ((s.sliceTables (routeOf b).slice).current.map (fun c => c.epoch))
      (s.membersNeeded (routeOf b).slice (routeOf b).effective)) = none)
    (hroom : s.routesFull (routeOf b) = false) :
    execRouteTableLoad t p s = .next ((s.withRoutes (SMap.insert s.routes (routeOf b).slice
      { s.sliceTables (routeOf b).slice with pending := some (routeOf b) })).respond t okReply) := by
  have hpast : ¬ (routeOf b).effective < s.clk.ref := not_lt.mpr hfuture
  have hsoon : ((s.sliceTables (routeOf b).slice).current.isSome
      && decide ((routeOf b).effective < (s.sliceTables (routeOf b).slice).since + cyclesS)) = false := by
    rcases hsettled with hnone | hlate
    · rw [hnone, Option.isSome_none, Bool.false_and]
    · rw [decide_eq_false (not_lt.mpr hlate), Bool.and_false]
  refine hostCmd_answers h ?_
  refine (checked_none (by simp [reserved, hzero])).trans ((withSource_of_holdsAt hsource _).trans ?_)
  simp only [hpast, hsoon, hfault, hroom, decide_false, Bool.or_false, Bool.and_false, Bool.false_eq_true, if_false]

/-! AXIS_SET (R271). -/

/-- An axis set whose checks all pass is in force at once outside a run; in a run it is staged, where the state at its period still holds what was armed. -/
theorem execAxisSet_of_ok (h : s.ready 0x0703 t p) (hpassed : (s.passed (field p 8 8)).1 = false) (hzero : allZero p 2 6 = true)
    (heff : s.inRun = !decide (field p 8 8 = 0)) (hsource : s.holdsAt t (field p 0 2) 0 0x50 axisBytes b)
    (hfault : firstFault (axisSetFaults b (s.membersAt (field p 8 8))) = none)
    (hstage : s.inRun = true → (stageFull s.fab.staged (field p 8 8)).1 = false
      ∧ ((s.withFab { s.fab with staged := SMap.insert s.fab.staged (field p 8 8) (axisSetOf b) }).viewAt (field p 8 8)).armHolds = true) :
    execAxisSet t p s = .next ((s.withFab (if s.inRun then { s.fab with staged := SMap.insert s.fab.staged (field p 8 8) (axisSetOf b) }
      else { s.fab with axis := some (axisSetOf b) })).respond t okReply) := by
  have hchecks : ∀ e ∈ [s.passed (field p 8 8), reserved p 2 6, s.effField (field p 8 8) 8], e.1 = false := by
    simp [reserved, State.effField, wrong, hpassed, hzero, heff]
  refine hostCmd_answers h ?_
  refine (checked_none hchecks).trans ((withSource_of_holdsAt hsource _).trans ?_)
  cases hrun : s.inRun with
  | false => simp [hfault]
  | true =>
    obtain ⟨hroom, harm⟩ := hstage hrun
    simp [hfault, harm, firstFail_none (l := [stageFull s.fab.staged (field p 8 8)]) (by simpa using hroom)]

/-! CABLING_CHECK (R280). -/

/-- The entries of a cabling check of `n` ports. -/
def cablesOf (n : Nat) (p : Bytes) : List Cable := (List.range n).map (cableAt p)

/-- What a cabling check of `n` ports answers, from the ports as they are. -/
def State.cableReport (s : State) (n : Nat) (p : Bytes) : Bytes :=
  (cablesOf n p).flatMap (fun c => cableAnswer c.port (s.port c.port) (cableResult (s.port c.port) c.none_ c.peer c.at_))

/-- A cabling check whose entries are all in their ranges answers for each of them; the expert form leaves the ports as they are. -/
theorem cablingCheck_of_ok {n : Nat} {expert : Bool} (hlen : p.length = 8 * n) (hmany : n ≤ 16)
    (hentries : ∀ i, i < n → firstFail (cableChecks p i) = none) :
    cablingCheck expert p s = (if expert then s else (cablesOf n p).foldl State.cable s, some (okWith (s.cableReport n p))) := by
  have hn : p.length / 8 = n := by omega
  have hsize : ¬ (p.length % 8 ≠ 0 ∨ 16 < n) := by omega
  have hall : ∀ e ∈ (List.range n).flatMap (cableChecks p), e.1 = false := by
    intro e he
    obtain ⟨i, hi, hei⟩ := List.mem_flatMap.1 he
    exact forall_of_firstFail_none (hentries i (List.mem_range.1 hi)) e hei
  unfold cablingCheck
  rw [hn]
  exact checked_none (List.forall_mem_cons.2 ⟨decide_eq_false hsize, hall⟩)

end

/-- Settles O7: each command passes its checks; AXIS_SET decides between effect and staging by the run, and the forms of CABLING_CHECK share one body. -/
theorem sliceCommands : Obligations.SliceCommands := by
  refine ⟨?join, fun t p s h => execSliceLeave_leaves h, ?route, ?axisNow, ?axisStaged, ?cabling, ?cablingExpert⟩
  case join =>
    rintro t sl r p s x h rfl hzero hfree htable hplace
    exact execSliceJoin_joins h hzero hfree htable hplace
  case route =>
    rintro t p b s tb x h hzero hsource rfl rfl hfuture hsettled hfault hroom
    exact execRouteTableLoad_pends h hzero hsource hfuture hsettled hfault hroom
  case axisNow =>
    intro t p b s h ho hzero heff hsource hfault
    have hrun : s.inRun = false := ho
    have hset := execAxisSet_of_ok h (State.passed_outside hrun _) hzero (by simp [hrun, heff]) hsource (by rw [heff]; exact hfault) (by simp [hrun])
    rwa [hrun] at hset
  case axisStaged =>
    rintro t eff p b s h hzero rfl hm hsource hfault harm
    have ⟨hrun, _, hroom⟩ := hm
    have hset := execAxisSet_of_ok h (State.passed_of_mayStage hm) hzero (State.mayStage_names hm) hsource hfault (fun _ => ⟨hroom, harm⟩)
    rwa [hrun] at hset
  case cabling =>
    intro t n p s h hlen hmany hentries
    exact hostCmd_answers h (cablingCheck_of_ok (expert := false) hlen hmany hentries)
  case cablingExpert =>
    intro t n p s h hlen hmany hentries
    exact hostCmd_answers h (cablingCheck_of_ok (expert := true) hlen hmany hentries)

end Sys2Proof.Machine
end

section
/-!
PROOFS. The fabric's link layer (11_fabric_and_collectives R251 to R261, R279): one equation for each case of each event of a port.
-/

namespace Sys2Proof.Machine

/-! What a port is after a frame, a NAK or a bring-up. -/

/-- The credits that a frame with a header takes of its port. -/
def headerCost (h : Bytes) : Nat := ceilDiv (14 + 56 + 18 * hWords ((fixHeader h).getD h) + 4) 64

/-- The port after a frame in sequence: the frame's credits are owed, its own are returned, and the frames that it acknowledges are dropped. -/
def Port.accept (x : Port) (h : Bytes) (ref : Nat) : Port :=
  ((({ x with rxSeq := (x.rxSeq + 1) % 2 ^ 32, nakSent := false, accepted := addAt x.accepted (hVc h) (headerCost h),
              owed := addAt x.owed (hVc h) (headerCost h) } : Port).credit h).acknowledge (hAck h) ref).count 0x10 1

/-- The port after a NAK of a number: the NAKs of that number without progress and the frames sent again are counted. -/
def Port.takeNak (x : Port) (n : Nat) : Port :=
  let times := match x.nakAt with
    | some (m, k) => if m = n then k + 1 else 1
    | none => 1
  ({ x with nakAt := some (n, times) } : Port).count 0x2C x.retry.length

/-- The port after a full bring-up: UP, with its measured delay and its peer; its numbers, credits and retained frames begin again (R261). -/
def Port.broughtUp (x : Port) (delay : Nat) (peer : Bytes) (ref : Nat) : Port :=
  { Port.blank with state := 2, delay := delay, peer := some (peerOf peer), bringUps := x.bringUps, cnt := x.cnt, logged := x.logged,
                    quar := x.quar, progress := ref, auditBad := x.auditBad }

/-! The guards of the events. -/

/-- A port that exists and is UP passes the guard of a frame. -/
theorem not_down_of_up {x : Port} {port : Nat} (hport : port < 16) (hup : x.state = 2) : ¬ (16 ≤ port ∨ x.state ≠ 2) :=
  not_or.mpr ⟨not_le.mpr hport, not_not.mpr hup⟩

/-- A port that exists and is UP or TRAINING passes the guard of a neighbour frame. -/
theorem not_silent_of_trained {x : Port} {port : Nat} (hport : port < 16) (hlive : x.state = 1 ∨ x.state = 2) :
    ¬ (16 ≤ port ∨ ¬ (x.state = 1 ∨ x.state = 2)) := not_or.mpr ⟨not_le.mpr hport, not_not.mpr hlive⟩

section

variable {port : Nat} {s : State} (hport : port < 16)

/-! Sequenced frames (R255 to R257, R259, R260). -/

section

variable {f : FabricFrame} (hup : (s.port port).state = 2)

include hport hup

/-- A frame whose check fails is counted and discarded, with a NAK unless it is stomped. -/
theorem execSequencedFrame_badCheck (hfcs : f.fcsOk = false) :
    execSequencedFrame port f s = .next ((s.countPort port 0x24).discard port (!f.stomp)) :=
  (if_neg (not_down_of_up hport hup)).trans (if_pos hfcs)

/-- A frame out of sequence is discarded, with a NAK unless it is an old one again. -/
theorem execSequencedFrame_outOfSequence (hfcs : f.fcsOk = true) (hseq : hSeq (slice f.bytes 14 56) ≠ (s.port port).rxSeq) :
    execSequencedFrame port f s = .next (s.discard port (!seqBefore (hSeq (slice f.bytes 14 56)) (s.port port).rxSeq)) :=
  (if_neg (not_down_of_up hport hup)).trans ((if_neg (by simp [hfcs])).trans (if_pos hseq))

/-- A frame in sequence that no check drops is received where it names this module and forwarded otherwise. -/
theorem execSequencedFrame_accepts {s1 : State} {h h' : Bytes} {t : RouteTable} (hfcs : f.fcsOk = true) (hh : h = slice f.bytes 14 56)
    (hseq : hSeq h = (s.port port).rxSeq) (hs1 : s1 = (s.setPort port ((s.port port).accept h s.clk.elapsed)).flushPort port)
    (hkept : s1.dropReason port (f.bytes.take 14) h = .ok (h', t)) :
    execSequencedFrame port f s
      = .next (if hDst h' = s1.modId then s1.receive port (s.port port) h' (f.bytes.drop 70) f.checks else s1.forward port t h' (f.bytes.drop 70)) := by
  subst hh hs1
  refine (if_neg (not_down_of_up hport hup)).trans ((if_neg (by simp [hfcs])).trans ((if_neg (not_not.mpr hseq)).trans ?_))
  unfold Port.accept headerCost at hkept ⊢
  simp only [hkept]

/-! Link control frames (R257, R260). -/

/-- An acknowledgement returns its credits, drops what it acknowledges and sends what the port can now send. -/
theorem execLinkControl_acknowledges {hdr : Bytes} :
    execLinkControl port false hdr s
      = .next ((s.setPort port (((s.port port).credit hdr).acknowledge (hAck hdr) s.clk.elapsed)).flushPort port) :=
  (if_neg (not_down_of_up hport hup)).trans (if_pos rfl)

/-- A NAK acknowledges what lies before its number, and every frame that is still retained is sent again in order. -/
theorem execLinkControl_resends {hdr : Bytes} {x : Port} (hx : x = ((s.port port).credit hdr).acknowledge (hAck hdr) s.clk.elapsed) :
    execLinkControl port true hdr s = .next ((x.retry.foldl (fun (st : State) (o : OutFrame) => st.emit (.fabric port (wire st.modId port x.peer o.frame)))
      (s.setPort port (x.takeNak (hAck hdr)))).flushPort port) := by
  subst hx
  exact (if_neg (not_down_of_up hport hup)).trans (if_neg (by decide))

theorem execLinkIdleAck_sends : execLinkIdleAck port s = .next (s.linkControl port) := if_neg (not_down_of_up hport hup)

/-! Retrains and bring-ups (R258, R261). -/

/-- Sixteen NAKs of one number without progress retrain a port that has not retrained within 1 s. -/
theorem execFabricRetrain_retrains {at' n k : Nat} {s0 : State} (hs : s = s0.advance at') (hnak : (s.port port).nakAt = some (n, k)) (hmany : 16 ≤ k)
    (hfirst : ∀ t, (s.port port).retrain = some t → t + 100000000 ≤ s.clk.elapsed) :
    execFabricRetrain port at' s0 = .next ((s.setPort port
      ({ s.port port with retrain := some s.clk.elapsed, nakAt := none, progress := s.clk.elapsed }.count 0x30 1)).log
        { code := 0x3003, source := srcN (port / 8), detail := leBytes 1 port }) := by
  subst hs
  refine if_neg ?_
  rintro (hge | hdown | hnone | hagain)
  · exact absurd hge (not_le.mpr hport)
  · exact hdown hup
  · simp [hnak, hmany] at hnone
  · split at hagain
    · next t ht => exact absurd (of_decide_eq_true hagain) (not_lt.mpr (hfirst t ht))
    · cases hagain

/-- A second retrain within 1 s starts a full bring-up. -/
theorem execFabricPortDown_bringsUp {at' t : Nat} {s0 : State} (hs : s = s0.advance at') (hr : (s.port port).retrain = some t)
    (hagain : s.clk.elapsed < t + 100000000) : execFabricPortDown port at' s0 = .next (s.bringUp port) := by
  subst hs
  refine (if_neg (not_le.mpr hport)).trans (if_pos ⟨hup, ?_⟩)
  rw [hr]
  exact decide_eq_true hagain

end

include hport

/-- A full bring-up that fails leaves its port FAILED. -/
theorem execFabricPortDown_fails {at' : Nat} {s0 : State} (hs : s = s0.advance at') (htraining : (s.port port).state = 1) :
    execFabricPortDown port at' s0 = .next ((((s.setPort port { s.port port with state := 4 }).log
      { code := 0x3004, source := srcN (port / 8), alert := true, detail := leBytes 1 port }).alert 3).report 0x0603 0x3004 (leBytes 1 port)) := by
  subst hs
  exact (if_neg (not_le.mpr hport)).trans ((if_neg (by simp [htraining])).trans (if_pos htraining))

/-- A full bring-up completes on a port that is DOWN or TRAINING, where no reset keeps its N-die down. -/
theorem execFabricPortUp_completes {delay : Nat} {peer : Bytes} (hstate : (s.port port).state = 0 ∨ (s.port port).state = 1)
    (hdie : s.nDieUp (port / 8) = true) :
    execFabricPortUp port delay peer s = .next ((s.setPort port ((s.port port).broughtUp delay peer s.clk.elapsed)).log
      { code := 0x3001, source := srcN (port / 8), detail := leBytes 1 port ++ peer.take 2 }) :=
  if_neg (by simp [hstate, hdie, hport])

/-! Neighbour frames (R279). -/

variable (hlive : (s.port port).state = 1 ∨ (s.port port).state = 2)

include hlive

/-- A neighbour frame shows its port the peer; a delay request is also answered. -/
theorem execNeighbour_shows {payload : Bytes} {s1 : State} (hs1 : s1 = s.setPort port { s.port port with peer := some (peerOf payload) }) :
    execNeighbour port payload s = .next (if field payload 3 1 = 1 then
      s1.sendNeighbour port (neighbourPayload s1 port 2 (field payload 0x18 8) (s1.clk.ref * 8) (s1.clk.ref * 8)) else s1) := by
  subst hs1
  exact if_neg (not_silent_of_trained hport hlive)

theorem execNeighbourAnnounce_sends : execNeighbourAnnounce port s = .next (s.sendNeighbour port (neighbourPayload s port 0 0 0 0)) :=
  if_neg (not_silent_of_trained hport hlive)

end

/-- Settles O47: each event by the equation of its case, and where a port is read afterwards, from the write that the event ends with. -/
theorem linkEvents : Obligations.LinkEvents := by
  refine ⟨fun port f s hport hup hfcs => execSequencedFrame_badCheck hport hup hfcs, ?outOfSequence, ?accepted,
    fun port hdr s hport hup => execLinkControl_acknowledges hport hup, fun port hdr s hport hup => ⟨_, execLinkControl_resends hport hup rfl⟩,
    fun port s hport hup => execLinkIdleAck_sends hport hup, ?retrain, ?down, ?failed, ?up, ?neighbour, ?delayRequest,
    fun port s hport hlive => execNeighbourAnnounce_sends hport hlive⟩
  case outOfSequence =>
    rintro port f s h hport hup hfcs rfl hseq
    exact execSequencedFrame_outOfSequence hport hup hfcs hseq
  case accepted =>
    rintro port cost f s s1 h h' x t hport rfl hup hfcs hh hseq rfl hs1 hkept
    exact execSequencedFrame_accepts hport hup hfcs hh hseq hs1 hkept
  case retrain =>
    rintro port at' n k s0 s x hs hport rfl hup hnak hmany hfirst
    refine ⟨_, execFabricRetrain_retrains hport hup hs hnak hmany hfirst, ?_⟩
    rw [State.log_port, State.port_setPort_same]
    exact ⟨rfl, rfl, rfl, rfl, hup⟩
  case down =>
    rintro port at' s0 s hs hport hup ⟨t, hr, hagain⟩
    exact execFabricPortDown_bringsUp hport hup hs hr hagain
  case failed =>
    intro port at' s0 s hs hport htraining
    refine ⟨_, execFabricPortDown_fails hport hs htraining, ?_⟩
    rw [State.report_port, State.alert_port, State.log_port, State.port_setPort_same]
  case up =>
    intro port delay peer s hport hstate hdie
    refine ⟨_, execFabricPortUp_completes hport hstate hdie, ?_⟩
    rw [State.log_port, State.port_setPort_same]
    exact ⟨rfl, rfl, rfl, rfl, rfl⟩
  case neighbour =>
    intro port payload s hport hlive hother
    exact (execNeighbour_shows hport hlive rfl).trans (congrArg Host.Outcome.next (if_neg hother))
  case delayRequest =>
    rintro port payload s s1 hport hlive hrequest hs1
    exact (execNeighbour_shows hport hlive hs1).trans (congrArg Host.Outcome.next (if_pos hrequest))

end Sys2Proof.Machine
end

section
/-!
PROOFS. Step commands (12_step_sealing_and_replay R285, R286, R301, R303; 15_host_transport_mailboxes R372; 16_vuhal_command_reference R402): what the
forms of STEP_FEED do to a husk entry, and what SEAL_POLICY_SET, REPLAY and STEP_STATUS answer.
-/

namespace Sys2Proof.Machine

section

variable {t : Nat} {p : Bytes} {s : State}

/-! STEP_FEED: the checks. -/

/-- A write of no byte may stand anywhere. -/
@[simp] theorem FeedHead.takes_zero (hd : FeedHead) (a : Nat) : hd.takes a 0 = true := rfl

/-- The length of a STEP_FEED is that of its form: the inline bytes follow its fields, or its transfer has a free number and a free place (R285, R371). -/
def State.feedCarries (s : State) (t : Nat) (p : Bytes) : Prop :=
  if bit (field p 8 4) 1 then s.numberOpen (s.runningSession t) (field p 0xC 4) = false ∧ (s.transfersOf (s.runningSession t)).length < 64
  else field p 0xC 4 = 0 ∧ field p 0x18 8 ≤ 4032 ∧ p.length = 0x40 + field p 0x18 8

theorem State.feedCarries_inline (hbulk : bit (field p 8 4) 1 = false) (hnumber : field p 0xC 4 = 0) (hmany : field p 0x18 8 ≤ 4032)
    (hlen : p.length = 0x40 + field p 0x18 8) : s.feedCarries t p := by
  rw [State.feedCarries, hbulk]
  exact ⟨hnumber, hmany, hlen⟩

theorem State.feedCarries_bulk (hbulk : bit (field p 8 4) 1 = true) (hnumber : s.numberOpen (s.runningSession t) (field p 0xC 4) = false)
    (hroom : (s.transfersOf (s.runningSession t)).length < 64) : s.feedCarries t p := by
  rw [State.feedCarries, hbulk]
  exact ⟨hnumber, hroom⟩

/-- The three checks that depend on the form. -/
theorem State.feedCarries_checks (h : s.feedCarries t p) :
    (if bit (field p 8 4) 1 then s.numberOpen (s.runningSession t) (field p 0xC 4) else field p 0xC 4 != 0) = false
      ∧ (!bit (field p 8 4) 1 && (decide (4032 < field p 0x18 8) || p.length != 0x40 + field p 0x18 8)) = false
      ∧ (bit (field p 8 4) 1 && decide (64 ≤ (s.transfersOf (s.runningSession t)).length)) = false := by
  unfold State.feedCarries at h
  cases hbulk : bit (field p 8 4) 1 <;> simpa [hbulk] using h

variable {s' : State} {r : Reply}

/-- The first STEP_FEED of a step, with its header, feeds the slot that is free (R285). -/
theorem execStepFeed_first (h : s.ready 0x0801 t p) (haccepts : s.accepts (field p 0 8) = true) (hnone : s.huskSlot (field p 0 8) = none)
    (hflags : field p 8 4 ≤ 7) (hhead : bit (field p 8 4) 2 = true) (hcarries : s.feedCarries t p)
    (htakes : (feedHead p).takes (field p 0x10 8) (field p 0x18 8) = true)
    (hfields : firstFail (headChecks (feedHead p) none (reserved p 0x2C 4)) = none) (hfits : (feedHead p).dataEnd ≤ s.huskEntrySize)
    (hstep : s.feedStep t p s.freeSlot (feedHead p) true = (s', some r)) : execStepFeed t p s = .next (s'.respond t r) := by
  obtain ⟨hnumber, hlength, hroom⟩ := State.feedCarries_checks hcarries
  have hfields' := forall_of_firstFail_none hfields
  refine hostCmd_answers h ?_
  simp only [hnone, hhead, Option.map_none, Option.getD_none, Option.isNone_none, Option.isSome_none, if_true]
  refine (checked_none (List.forall_mem_append.2 ⟨List.forall_mem_append.2 ⟨?_, hfields'⟩, ?_⟩)).trans hstep
  · simp [wrong, haccepts, hflags, htakes, hnumber, hlength]
  · simp [hfits, hroom]

/-- A later STEP_FEED of a step, without a header, feeds the step's slot (R285). -/
theorem execStepFeed_again {i : Nat} (h : s.ready 0x0801 t p) (haccepts : s.accepts (field p 0 8) = true)
    (hslot : s.huskSlot (field p 0 8) = some i) (hflags : field p 8 4 ≤ 7) (hhead : bit (field p 8 4) 2 = false) (hcarries : s.feedCarries t p)
    (htakes : (s.fedHead i).takes (field p 0x10 8) (field p 0x18 8) = true) (hfields : firstFail (noHeadChecks p) = none)
    (hstep : s.feedStep t p i (s.fedHead i) false = (s', some r)) : execStepFeed t p s = .next (s'.respond t r) := by
  obtain ⟨hnumber, hlength, hroom⟩ := State.feedCarries_checks hcarries
  have hfields' := forall_of_firstFail_none hfields
  refine hostCmd_answers h ?_
  simp only [hslot, hhead, Option.map_some, Option.getD_some, Option.isNone_some, Option.isSome_some]
  refine (checked_none (List.forall_mem_append.2 ⟨List.forall_mem_append.2 ⟨?_, hfields'⟩, ?_⟩)).trans hstep
  · simp [wrong, haccepts, hflags, htakes, hnumber, hlength]
  · simp [hroom]

/-! STEP_FEED: the effect of each form, once the checks have passed. -/

@[simp] theorem State.feedBytes_nil (s : State) (i off : Nat) : s.feedBytes i off [] = s := rfl

/-- Inline bytes land in the entry, which stays open. -/
theorem State.feedStep_inline (hclose : bit (field p 8 4) 0 = false) (hbulk : bit (field p 8 4) 1 = false) (i : Nat) (hd : FeedHead) (fresh : Bool) :
    s.feedStep t p i hd fresh
      = ((if fresh then s.takeSlot i (field p 0 8) hd else s).feedBytes i (field p 0x10 8) (p.drop 0x40), some okReply) := by
  simp [State.feedStep, hclose, hbulk]

/-- A bulk form opens its transfer, and the entry stays open. -/
theorem State.feedStep_bulk (hclose : bit (field p 8 4) 0 = false) (hbulk : bit (field p 8 4) 1 = true) (i : Nat) (hd : FeedHead) (fresh : Bool) :
    s.feedStep t p i hd fresh
      = ((if fresh then s.takeSlot i (field p 0 8) hd else s).openTransfer (s.runningSession t)
          { number := field p 0xC 4, use := .husk (field p 0 8), region := 0, base := field p 0x10 8, len := field p 0x18 8, got := [] },
        some accepted) := by
  simp [State.feedStep, hclose, hbulk]

/-- A close without bytes closes an entry that is whole (R286). -/
theorem State.feedStep_close {i : Nat} {hd : FeedHead} (hclose : bit (field p 8 4) 0 = true) (hbulk : bit (field p 8 4) 1 = false)
    (hlen : p.length = 0x40) (hwhole : s.entryWhole i hd [] = true) : s.feedStep t p i hd false = (s.closeHusk i hd, some okReply) := by
  have hdata : p.drop 0x40 = [] := List.drop_eq_nil_of_le hlen.le
  simp [State.feedStep, hclose, hbulk, hdata, hwhole]

end

/-- Settles O8: the flags decide the form, the form's checks pass, and what the form then does is its equation. -/
theorem stepFeedCommand : Obligations.StepFeedCommand := by
  refine ⟨?first, ?inline, ?bulk, ?close⟩
  case first =>
    rintro t n p s h haccepts hnone hflags hnumber rfl hmany hlen htakes hfields hfits
    have hbit (k : Nat) : bit (field p 8 4) k = bit 4 k := congrArg (bit · k) hflags
    exact execStepFeed_first h haccepts hnone (by omega) (hbit 2) (State.feedCarries_inline (hbit 1) hnumber hmany hlen) htakes hfields hfits
      (State.feedStep_inline (hbit 0) (hbit 1) _ _ _)
  case inline =>
    rintro t i n p s h haccepts hslot hflags hnumber rfl hmany hlen htakes hfields
    have hbit (k : Nat) : bit (field p 8 4) k = bit 0 k := congrArg (bit · k) hflags
    exact execStepFeed_again h haccepts hslot (by omega) (hbit 2) (State.feedCarries_inline (hbit 1) hnumber hmany hlen) htakes hfields
      (State.feedStep_inline (hbit 0) (hbit 1) _ _ _)
  case bulk =>
    rintro t i n p s h haccepts hslot hflags rfl hnumber hroom htakes hfields
    have hbit (k : Nat) : bit (field p 8 4) k = bit 2 k := congrArg (bit · k) hflags
    exact execStepFeed_again h haccepts hslot (by omega) (hbit 2) (State.feedCarries_bulk (hbit 1) hnumber hroom) htakes hfields
      (State.feedStep_bulk (hbit 0) (hbit 1) _ _ _)
  case close =>
    intro t i p s h haccepts hslot hflags hnumber hnothing hlen hfields hwhole
    have hbit (k : Nat) : bit (field p 8 4) k = bit 1 k := congrArg (bit · k) hflags
    exact execStepFeed_again h haccepts hslot (by omega) (hbit 2) (State.feedCarries_inline (hbit 1) hnumber (by omega) (by omega))
      (by rw [hnothing, FeedHead.takes_zero]) hfields (State.feedStep_close (hbit 0) (hbit 1) hlen hwhole)

section

variable {t : Nat} {p : Bytes} {s : State}

/-! SEAL_POLICY_SET (R301). -/

/-- The resolution that SEAL_POLICY_SET leaves, for the period at which it takes effect: a limit of 0 keeps the limit in force. -/
def Resolution.setBy (x : Resolution) (p : Bytes) (period : Nat) : Resolution :=
  { limit := if field p 0 1 = 0 then x.limit else field p 0 1, code := field p 1 1, step := field p 8 8, period := period }

/-- With code 0 SEAL_POLICY_SET sets the replay limit and resolves no step. -/
theorem execSealPolicySet_limit (h : s.ready 0x0805 t p) (hlimit : field p 0 1 ≤ 15) (hcode : field p 1 1 = 0) (hzero : allZero p 2 6 = true)
    (hstep : field p 8 8 = 0) :
    execSealPolicySet t p s = .next ((s.withRun { s.run with resolution := s.run.resolution.setBy p 0 }).respond t okReply) := by
  have hnamed : decide (1 ≤ field p 1 1 ∧ field p 1 1 ≤ 3) = false := by simp [hcode]
  refine hostCmd_answers h ?_
  simp only [hnamed]
  refine (checked_none ?_).trans rfl
  simp [wrong, reserved, hlimit, hcode, hzero, hstep]

/-- With a code from 1 to 3 it also resolves the held step, at a period to come; a seal must not be barred. -/
theorem execSealPolicySet_resolves (h : s.ready 0x0805 t p) (hlimit : field p 0 1 ≤ 15) (hlow : 1 ≤ field p 1 1) (hhigh : field p 1 1 ≤ 3)
    (hzero : allZero p 2 6 = true) (hlate : s.run.period < field p 0x10 8) (hheld : s.run.mode = .held) (hstep : s.run.heldStep = some (field p 8 8))
    (hseal : field p 1 1 = 1 → s.sealBarred (field p 8 8) = false) :
    execSealPolicySet t p s = .next ((s.withRun { s.run with resolution := s.run.resolution.setBy p (field p 0x10 8) }).respond t okReply) := by
  have hnamed : decide (1 ≤ field p 1 1 ∧ field p 1 1 ≤ 3) = true := decide_eq_true ⟨hlow, hhigh⟩
  have hcode : field p 1 1 ≠ 0 := by omega
  have heff : field p 0x10 8 ≠ 0 := by omega
  refine hostCmd_answers h ?_
  simp only [hnamed]
  refine (checked_none ?_).trans rfl
  simpa [wrong, reserved, hlimit, hcode, hhigh, hzero, hlate, hheld, hstep, heff] using hseal

/-! REPLAY and STEP_STATUS (R303, R402). -/

theorem execReplay_fails (h : s.ready 0x0806 t p) (hreplayable : s.replayable (field p 0 8) = true) :
    execReplay t p s = .next ((s.failStep (field p 0 8) fHost).respond t okReply) :=
  hostCmd_answers h (checked_none (by simp [hreplayable]))

theorem execStepStatus_answers (h : s.ready 0x0807 t p) (hzero : allZero p 0xC 4 = true) :
    execStepStatus t p s
      = .next (s.respond t (okWith (s.stepStatus (if field p 0 8 = 0 then s.run.lastVerdict else field p 0 8) (field p 8 4)))) :=
  hostCmd_answers h (checked_none (by simp [reserved, hzero]))

end

/-- Settles O10: each command passes its checks, and answers what its body then gives. -/
theorem stepCommands : Obligations.StepCommands := by
  refine ⟨?limit, ?resolves, fun t p s => execReplay_fails, fun t p s => execStepStatus_answers⟩
  case limit =>
    rintro t limit p s h rfl hlimit hcode hzero hstep
    have hset := execSealPolicySet_limit h hlimit hcode hzero hstep
    rwa [Resolution.setBy, hcode, hstep] at hset
  case resolves =>
    rintro t limit code step eff p s h rfl hlimit rfl hlow hhigh hzero rfl rfl hlate hheld hstep hseal
    exact execSealPolicySet_resolves h hlimit hlow hhigh hzero hlate hheld hstep hseal

end Sys2Proof.Machine
end

section
/-!
PROOFS. What every step keeps, first part: the queue of commands, and the cells of module memory. The operations of the model that write no cell leave both
as they were.
-/

namespace Sys2Proof.Machine

/-- What every command but a memory write leaves alone: the queue, and the cells of module memory. -/
def State.kept (s : State) : List Instr × List Host.Cell := (s.pending, s.mem.cells)

@[simp] theorem State.withMem_kept (s : State) (m : Mem) : (s.withMem m).kept = (s.pending, m.cells) := (rfl)
@[simp] theorem State.mk_kept (s : State) : (s.pending, s.mem.cells) = s.kept := (rfl)
@[simp] theorem State.kept_ite (c : Prop) [Decidable c] (s u : State) : (if c then s else u).kept = if c then s.kept else u.kept := apply_ite _ _ _ _
@[simp] theorem State.fst_kept_ite {β : Type} (c : Prop) [Decidable c] (s u : State × β) :
    (if c then s else u).1.kept = if c then s.1.kept else u.1.kept := apply_ite (fun x : State × β => x.1.kept) _ _ _

@[simp] theorem foldl_kept {β : Type} {f : State → β → State} (hf : ∀ s b, (f s b).kept = s.kept) (l : List β) (s : State) :
    (l.foldl f s).kept = s.kept := by
  induction l generalizing s with
  | nil => rfl
  | cons b l ih => exact (ih _).trans (hf s b)

@[simp] theorem foldl_fst_kept {β γ : Type} {f : State × γ → β → State × γ} (hf : ∀ s b, (f s b).1.kept = s.1.kept) (l : List β) (s : State × γ) :
    (l.foldl f s).1.kept = s.1.kept := by
  induction l generalizing s with
  | nil => rfl
  | cons b l ih => exact (ih _).trans (hf s b)

/-! Machine/State -/

@[simp] theorem State.withFresh_kept (s : State) (x : Nat) : (s.withFresh x).kept = s.kept := (rfl)
@[simp] theorem State.withSent_kept (s : State) (x : List Sent) : (s.withSent x).kept = s.kept := (rfl)
@[simp] theorem State.withClk_kept (s : State) (x : Clock) : (s.withClk x).kept = s.kept := (rfl)
@[simp] theorem State.withFrame_kept (s : State) (x : Frame) : (s.withFrame x).kept = s.kept := (rfl)
@[simp] theorem State.withRun_kept (s : State) (x : Run) : (s.withRun x).kept = s.kept := (rfl)
@[simp] theorem State.withSteps_kept (s : State) (x : SMap StepRec) : (s.withSteps x).kept = s.kept := (rfl)
@[simp] theorem State.withNum_kept (s : State) (x : Numerics) : (s.withNum x).kept = s.kept := (rfl)
@[simp] theorem State.withLedger_kept (s : State) (x : Ledger) : (s.withLedger x).kept = s.kept := (rfl)
@[simp] theorem State.withCores_kept (s : State) (x : SMap Core) : (s.withCores x).kept = s.kept := (rfl)
@[simp] theorem State.withStagedImages_kept (s : State) (x : List StagedImage) : (s.withStagedImages x).kept = s.kept := (rfl)
@[simp] theorem State.withJobs_kept (s : State) (x : SMap Job) : (s.withJobs x).kept = s.kept := (rfl)
@[simp] theorem State.withStagedJobs_kept (s : State) (x : List StagedJob) : (s.withStagedJobs x).kept = s.kept := (rfl)
@[simp] theorem State.withDieMap_kept (s : State) (x : List Nat) : (s.withDieMap x).kept = s.kept := (rfl)
@[simp] theorem State.withSync_kept (s : State) (x : SMap SyncObj) : (s.withSync x).kept = s.kept := (rfl)
@[simp] theorem State.withSyncWin_kept (s : State) (x : SMap Nat) : (s.withSyncWin x).kept = s.kept := (rfl)
@[simp] theorem State.withMember_kept (s : State) (x : Option (Nat × Nat)) : (s.withMember x).kept = s.kept := (rfl)
@[simp] theorem State.withRoutes_kept (s : State) (x : SMap SliceTables) : (s.withRoutes x).kept = s.kept := (rfl)
@[simp] theorem State.withModId_kept (s : State) (x : Nat) : (s.withModId x).kept = s.kept := (rfl)
@[simp] theorem State.withSlotId_kept (s : State) (x : Nat) : (s.withSlotId x).kept = s.kept := (rfl)
@[simp] theorem State.withFab_kept (s : State) (x : Fab) : (s.withFab x).kept = s.kept := (rfl)
@[simp] theorem State.withRecov_kept (s : State) (x : Recov) : (s.withRecov x).kept = s.kept := (rfl)
@[simp] theorem State.withEvals_kept (s : State) (x : List Eval) : (s.withEvals x).kept = s.kept := (rfl)
@[simp] theorem State.withHost_kept (s : State) (x : HostState) : (s.withHost x).kept = s.kept := (rfl)
@[simp] theorem State.withCkpt_kept (s : State) (x : Ckpt) : (s.withCkpt x).kept = s.kept := (rfl)
@[simp] theorem State.withSup_kept (s : State) (x : Super) : (s.withSup x).kept = s.kept := (rfl)
@[simp] theorem State.withNut_kept (s : State) (x : Nutshell) : (s.withNut x).kept = s.kept := (rfl)
@[simp] theorem State.withAlerts_kept (s : State) (x : Nat) : (s.withAlerts x).kept = s.kept := (rfl)

/-! Machine/Ops -/

@[simp] theorem State.setCore_kept (s : State) (c : Nat) (k : Core) : (s.setCore c k).kept = s.kept := (rfl)
@[simp] theorem State.setStep_kept (s : State) (n : Nat) (r : StepRec) : (s.setStep n r).kept = s.kept := (rfl)
@[simp] theorem State.mapStep_kept (s : State) (n : Nat) (f : StepRec → StepRec) : (s.mapStep n f).kept = s.kept := (rfl)
@[simp] theorem State.failStep_kept (s : State) (n mask : Nat) : (s.failStep n mask).kept = s.kept := (rfl)
@[simp] theorem State.record_kept (s : State) (n : Note) (flags : Nat) : (s.record n flags).kept = s.kept := (rfl)
@[simp] theorem State.log_kept (s : State) (n : Note) : (s.log n).kept = s.kept := (rfl)
@[simp] theorem State.logFreeze_kept (s : State) (n : Note) : (s.logFreeze n).kept = s.kept := by
  unfold State.logFreeze
  split <;> rfl
@[simp] theorem State.logStepKey_kept (s : State) (key : Nat) (n : Note) : (s.logStepKey key n).kept = s.kept := by simp [State.logStepKey]
@[simp] theorem State.logStepOnce_kept (s : State) (n : Note) : (s.logStepOnce n).kept = s.kept := by simp [State.logStepOnce]
@[simp] theorem State.logWindowOnce_kept (s : State) (n : Note) : (s.logWindowOnce n).kept = s.kept := by simp [State.logWindowOnce]
@[simp] theorem State.alert_kept (s : State) (cause : Nat) : (s.alert cause).kept = s.kept := by simp [State.alert]
@[simp] theorem State.emit_kept (s : State) (x : Sent) : (s.emit x).kept = s.kept := (rfl)
@[simp] theorem State.report_kept (s : State) (status code : Nat) (detail : Bytes) : (s.report status code detail).kept = s.kept := (rfl)
@[simp] theorem State.nextFree_kept (s : State) : (s.nextFree).kept = s.kept := (rfl)
@[simp] theorem State.advance_kept (s : State) (t : Nat) : (s.advance t).kept = s.kept := by simp [State.advance]
@[simp] theorem State.advanceTo_kept (s : State) (e : Nat) : (s.advanceTo e).kept = s.kept := by simp [State.advanceTo]

/-! Machine/Pairs -/

@[simp] theorem State.mdie_kept (s : State) (m : Nat) (f : MDie → MDie) : (s.mdie m f).kept = s.kept := (rfl)
@[simp] theorem State.markDamaged_kept (s : State) (m ma step : Nat) : (s.markDamaged m ma step).kept = s.kept := by simp [State.markDamaged]
@[simp] theorem State.countUe_kept (s : State) (ma step : Nat) : (s.countUe ma step).kept = s.kept := by simp [State.countUe]
@[simp] theorem State.countSramUe_kept (s : State) (src step : Nat) : (s.countSramUe src step).kept = s.kept := (rfl)
@[simp] theorem State.clearAtoms_kept (s : State) (atoms : List Nat) : (s.clearAtoms atoms).kept = s.kept := (rfl)
@[simp] theorem State.setPairDie_kept (s : State) (p m : Nat) (d : PairDie) : (s.setPairDie p m d).kept = s.kept := (rfl)

/-! Machine/Flags -/

@[simp] theorem State.noteEvents_kept (s : State) (c : Nat) (e : EntryRun) (w : Cause) (evs : List Ev) :
    (s.noteEvents c e w evs).kept = s.kept := by simp [State.noteEvents]
@[simp] theorem State.charge_kept (s : State) (step tid : Nat) (c : Charge) (nanMode : Bool) :
    (s.charge step tid c nanMode).kept = s.kept := by simp [State.charge]
@[simp] theorem State.noteRange_kept (s : State) (step tid e0 : Nat) (vals : List (Nat × Val)) :
    (s.noteRange step tid e0 vals).kept = s.kept := by
  unfold State.noteRange
  split <;> rfl

/-! Machine/Operands -/

@[simp] theorem State.mendStore_kept (s : State) (unit a n : Nat) : (s.mendStore unit a n).kept = s.kept := (rfl)
@[simp] theorem State.mendAtoms_kept (s : State) (spans : List (Nat × Nat)) : (s.mendAtoms spans).kept = s.kept := (rfl)
@[simp] theorem State.mendPlace_kept (s : State) (p : Place) (spans : List (Nat × Nat)) :
    (s.mendPlace p spans).kept = s.kept := by
  unfold State.mendPlace
  split <;> rfl
@[simp] theorem State.recastCharge_kept (s : State) (p : Place) (d : Desc) (e : EntryRun) (is : List Nat) :
    (s.recastCharge p d e is).kept = s.kept := by
  unfold State.recastCharge
  split <;> simp
@[simp] theorem State.writeRecast_kept (s : State) (base : Nat) (d : Desc) (items : List Item) : (s.writeRecast base d items).1.kept = s.kept := by
  unfold State.writeRecast
  simp

/-! Machine/Issue -/

@[simp] theorem State.digestLines_kept (s : State) (c space : Nat) (p : Place) (lines : List Nat) :
    (s.digestLines c space p lines).kept = s.kept := by
  unfold State.digestLines
  (repeat' split) <;> simp
@[simp] theorem State.noteUeAt_kept (s : State) (c step wh loc : Nat) : (s.noteUeAt c step wh loc).kept = s.kept := by simp [State.noteUeAt]
@[simp] theorem State.raiseExc_kept (s0 : State) (c : Nat) (e : EntryRun) (codeAt detail index : Nat) (word : Word) :
    (s0.raiseExc c e codeAt detail index word).kept = s0.kept := by simp [State.raiseExc]

/-! Machine/SyncObjects -/

@[simp] theorem State.setObj_kept (s : State) (key : Nat) (o : SyncObj) : (s.setObj key o).kept = s.kept := (rfl)
@[simp] theorem State.failWait_kept (s : State) (c code : Nat) :
    (s.failWait c code).kept = s.kept := by
  unfold State.failWait
  simp only; (repeat' split) <;> simp
@[simp] theorem State.passWait_kept (s : State) (c : Nat) :
    (s.passWait c).kept = s.kept := by
  unfold State.passWait
  simp only; (repeat' split) <;> simp
@[simp] theorem State.poison_kept (s : State) (by_ : Option Nat) (key : Nat) : (s.poison by_ key).kept = s.kept := by simp [State.poison]
@[simp] theorem State.poisonOwned_kept (s : State) (c : Nat) : (s.poisonOwned c).kept = s.kept := by simp [State.poisonOwned]
@[simp] theorem State.applySignal_kept (s : State) (key count src who die : Nat) :
    (s.applySignal key count src who die).1.kept = s.kept := by simp [State.applySignal]
@[simp] theorem State.objToZero_kept (s : State) (w key : Nat) : (s.objToZero w key).kept = s.kept := by
  refine (foldl_kept (fun st h => ?_) _ _).trans (by simp)
  simp only
  split <;> simp
@[simp] theorem State.unitToZero_kept (s : State) (w scope unit : Nat) : (s.unitToZero w scope unit).kept = s.kept := by simp [State.unitToZero]
@[simp] theorem State.countSignal_kept (s : State) (step die : Nat) (f : Nat × Nat × Nat × Nat → Nat × Nat × Nat × Nat) :
    (s.countSignal step die f).kept = s.kept := (rfl)
@[simp] theorem State.signalled_kept (s : State) (c : Nat) (e : EntryRun) (handle count : Nat) :
    (s.signalled c e handle count).kept = s.kept := by simp [State.signalled]

/-! Machine/FabricOps -/

@[simp] theorem State.setPort_kept (s : State) (p : Nat) (x : Port) : (s.setPort p x).kept = s.kept := (rfl)
@[simp] theorem State.setNDie_kept (s : State) (n : Nat) (x : NDie) : (s.setNDie n x).kept = s.kept := (rfl)
@[simp] theorem State.pushFrame_kept (s : State) (p : Nat) (o : OutFrame) : (s.pushFrame p o).kept = s.kept := (rfl)
@[simp] theorem State.flushPort_kept (s : State) (p : Nat) : (s.flushPort p).kept = s.kept := by simp [State.flushPort]
@[simp] theorem State.sendOn_kept (s : State) (p : Nat) (f : HFrame) : (s.sendOn p f).kept = s.kept := by simp [State.sendOn]
@[simp] theorem State.countOp_kept (s : State) (step : Option Nat) (sent : Bool) (object src dst : Nat) :
    (s.countOp step sent object src dst).kept = s.kept := by
  unfold State.countOp
  split <;> rfl
@[simp] theorem State.abandonOp_kept (s : State) (n slot : Nat) :
    (s.abandonOp n slot).kept = s.kept := by
  unfold State.abandonOp
  (repeat' split) <;> simp
@[simp] theorem State.sendFragment_kept (s : State) (n slot f : Nat) (resend : Bool) :
    (s.sendFragment n slot f resend).kept = s.kept := by
  unfold State.sendFragment
  (repeat' split) <;> simp
@[simp] theorem State.placeOp_kept (s : State) (o : OpSlot) :
    (s.placeOp o).kept = s.kept := by
  unfold State.placeOp
  simp only; (repeat' split) <;> simp
@[simp] theorem State.openSend_kept (s : State) (x : Send) : (s.openSend x).kept = s.kept := by
  unfold State.openSend
  (repeat' split) <;> simp
@[simp] theorem State.finishOp_kept (s : State) (n slot : Nat) :
    (s.finishOp n slot).kept = s.kept := by
  unfold State.finishOp
  simp only; (repeat' split) <;> simp
@[simp] theorem State.dropOpsOf_kept (s : State) (p : Nat → Bool) : (s.dropOpsOf p).kept = s.kept := (rfl)

/-! Machine/Load -/

@[simp] theorem State.countFallback_kept (s : State) (p : Place) (d : Desc) (is : List Nat) : (s.countFallback p d is).kept = s.kept := by
  unfold State.countFallback
  split
  · split
    · rfl
    · simp
  · rfl
@[simp] theorem State.noteGone_kept (s : State) (e : EntryRun) (p : Place) (d : Desc) (is : List Nat) :
    (s.noteGone e p d is).kept = s.kept := by
  unfold State.noteGone
  split <;> simp
@[simp] theorem State.pushLoad_kept (s : State) (c : Nat) (l : LoadRun) : (s.pushLoad c l).kept = s.kept := (rfl)
@[simp] theorem State.addPending_kept (s : State) (q : Pending) : (s.addPending q).kept = s.kept := by simp [State.addPending]

/-! Machine/Quota -/

@[simp] theorem State.refreshQuota_kept (s : State) (t : Nat) : (s.refreshQuota t).kept = s.kept := by simp [State.refreshQuota]

/-! Machine/Schedule -/

@[simp] theorem State.setEntry_kept (s : State) (k : Nat) (e : EntrySt) : (s.setEntry k e).kept = s.kept := (rfl)
@[simp] theorem State.startUnit_kept (s : State) (k u : Nat) : (s.startUnit k u).kept = s.kept := by
  unfold State.startUnit
  split <;> rfl
@[simp] theorem State.finishUnit_kept (s : State) (k u : Nat) : (s.finishUnit k u).kept = s.kept := by
  unfold State.finishUnit
  split <;> simp
@[simp] theorem State.startCore_kept (s : State) (c : Nat) (e : EntryRun) : (s.startCore c e).kept = s.kept := (rfl)
@[simp] theorem State.setEval_kept (s : State) (id : Nat) (f : Eval → Eval) : (s.setEval id f).kept = s.kept := (rfl)
@[simp] theorem State.failEval_kept (s : State) (id phase status : Nat) : (s.failEval id phase status).kept = s.kept := by simp [State.failEval]
@[simp] theorem State.clearEntry_kept (s : State) (c : Nat) : (s.clearEntry c).kept = s.kept := (rfl)
@[simp] theorem State.preempt_kept (s : State) (c : Nat) : (s.preempt c).kept = s.kept := by
  unfold State.preempt
  (repeat' split) <;> simp

/-! Machine/Entries -/

@[simp] theorem State.closeEval_kept (s : State) (w : Nat) : (s.closeEval w).kept = s.kept := by
  unfold State.closeEval
  (repeat' split) <;> simp
@[simp] theorem State.compareShadow_kept (s : State) (c : Nat) (e : EntryRun) :
    (s.compareShadow c e).kept = s.kept := by
  unfold State.compareShadow
  (repeat' split) <;> simp

/-! Machine/Damage -/

@[simp] theorem State.askPartner_kept (s : State) : (s.askPartner).kept = s.kept := by
  unfold State.askPartner
  split <;> simp
@[simp] theorem State.answerPartner_kept (s : State) (rank : Nat) (d : Bytes) :
    (s.answerPartner rank d).kept = s.kept := by
  unfold State.answerPartner
  (repeat' split) <;> simp

/-! Machine/JobOps -/

@[simp] theorem State.addSum_kept (s : State) (key i : Nat) (v : Val) : (s.addSum key i v).kept = s.kept := (rfl)

/-! Machine/NearMemory -/

@[simp] theorem State.near_kept (s : State) (m : Nat) (f : NearCounters → NearCounters) : (s.near m f).kept = s.kept := (rfl)
@[simp] theorem State.noteRebuild_kept (s : State) (pair v m : Nat) : (s.noteRebuild pair v m).kept = s.kept := (rfl)
@[simp] theorem State.noteStopped_kept (s : State) (p : Nat → Bool) : (s.noteStopped p).kept = s.kept := by simp [State.noteStopped]
@[simp] theorem State.addRun_kept (s : State) (r : JobRun) : (s.addRun r).kept = s.kept := (rfl)
@[simp] theorem State.jobGone_kept (s : State) (k m pair step : Nat) : (s.jobGone k m pair step).kept = s.kept := by simp [State.jobGone]
@[simp] theorem State.setRunOf_kept (s : State) (r : JobRun) (f : JobRun → JobRun) : (s.setRunOf r f).kept = s.kept := (rfl)
@[simp] theorem State.engineUe_kept (s : State) (step a : Nat) : (s.engineUe step a).kept = s.kept := by simp [State.engineUe]
@[simp] theorem State.endJobRun_kept (s : State) (r : JobRun) : (s.endJobRun r).kept = s.kept := by simp [State.endJobRun]
@[simp] theorem State.sendStream_kept (s : State) (env : JobEnv) (m seg : Nat) (is : List Nat) (window : Nat) :
    (s.sendStream env m seg is window).kept = s.kept := by
  unfold State.sendStream
  split <;> simp
@[simp] theorem State.addDigest_kept (s : State) (step : Nat) (mirror : Bool) (window : Nat) (rec : Bytes) :
    (s.addDigest step mirror window rec).kept = s.kept := by
  unfold State.addDigest
  split <;> simp
@[simp] theorem State.sendRefresh_kept (s : State) (p : Nat) (j : Job) (v : Nat) :
    (s.sendRefresh p j v).kept = s.kept := by
  unfold State.sendRefresh
  split <;> simp
@[simp] theorem State.askRefresh_kept (s : State) (pair version : Nat) :
    (s.askRefresh pair version).kept = s.kept := by
  unfold State.askRefresh
  split <;> simp
@[simp] theorem State.answerRefresh_kept (s : State) (rank : Nat) (d : Bytes) :
    (s.answerRefresh rank d).kept = s.kept := by
  unfold State.answerRefresh
  simp only; (repeat' split) <;> simp

/-! Machine/Transport -/

@[simp] theorem State.setSession_kept (s : State) (id : Nat) (f : Session → Session) : (s.setSession id f).kept = s.kept := (rfl)
@[simp] theorem State.setHostPort_kept (s : State) (p : Nat) (x : HostPort) : (s.setHostPort p x).kept = s.kept := (rfl)
@[simp] theorem State.countHost_kept (s : State) (p off : Nat) : (s.countHost p off).kept = s.kept := (rfl)
@[simp] theorem State.hostSend_kept (s : State) (p : Nat) (addr payload : Bytes) : (s.hostSend p addr payload).kept = s.kept := (rfl)
@[simp] theorem State.wireFrame_kept (s : State) (x : Session) (f : TxFrame) : (s.wireFrame x f).kept = s.kept := (rfl)
@[simp] theorem State.flushFrames_kept (n : Nat) (s : State) (id : Nat) : (State.flushFrames n s id).kept = s.kept := by
  induction n generalizing s with
  | zero => rfl
  | succ n ih =>
    unfold State.flushFrames
    split
    · rfl
    · split
      · rfl
      · split
        · rfl
        · rw [ih]; simp
@[simp] theorem State.sendFrames_kept (s : State) (id : Nat) (fs : List TxFrame) :
    (s.sendFrames id fs).kept = s.kept := by
  unfold State.sendFrames
  split <;> simp
@[simp] theorem State.setTenant_kept (s : State) (t : Nat) (f : Tenant → Tenant) : (s.setTenant t f).kept = s.kept := (rfl)
@[simp] theorem State.respond_kept (s : State) (t : Nat) (r : Reply) : (s.respond t r).kept = s.kept := by
  unfold State.respond
  split <;> simp

/-! Machine/Recovery -/

@[simp] theorem State.stopCore_kept (s : State) (c : Nat) : (s.stopCore c).kept = s.kept := by
  unfold State.stopCore
  split <;> simp
@[simp] theorem State.stopCores_kept (s : State) (cs : List Nat) : (s.stopCores cs).kept = s.kept := by simp [State.stopCores]
@[simp] theorem State.failCheckpoint_kept (s : State) (status : Nat) : (s.failCheckpoint status).kept = s.kept := by
  unfold State.failCheckpoint
  split
  · rfl
  · simp
    refine foldl_kept (fun st q => ?_) _ _
    split <;> simp
@[simp] theorem State.failRestore_kept (s : State) (status : Nat) :
    (s.failRestore status).kept = s.kept := by
  unfold State.failRestore
  split <;> rfl
@[simp] theorem State.stopEvals_kept (s : State) : (s.stopEvals).kept = s.kept := by simp [State.stopEvals]
@[simp] theorem State.stopJobs_kept (s : State) (p : JobRun → Bool) : (s.stopJobs p).kept = s.kept := by
  refine (foldl_kept (fun st r => ?_) _ _).trans (by rfl)
  split <;> simp
@[simp] theorem State.dropWaits_kept (s : State) : (s.dropWaits).kept = s.kept := by
  unfold State.dropWaits
  simp only; (repeat' split) <;> simp
@[simp] theorem State.stopAll_kept (s0 : State) : (s0.stopAll).kept = s0.kept := by simp [State.stopAll]
@[simp] theorem State.fenceModule_kept (s : State) : (s.fenceModule).kept = s.kept := by simp [State.fenceModule]
@[simp] theorem State.selfFence_kept (s : State) : (s.selfFence).kept = s.kept := by simp [State.selfFence]
@[simp] theorem State.hwFault_kept (s : State) (code : Nat) : (s.hwFault code).kept = s.kept := (rfl)
@[simp] theorem State.failDie_kept (s : State) (d : Nat) : (s.failDie d).kept = s.kept := by
  unfold State.failDie
  split <;> simp
@[simp] theorem State.zeroObjects_kept (s : State) (p : Nat → Bool) : (s.zeroObjects p).kept = s.kept := (rfl)
@[simp] theorem State.freshCore_kept (s : State) (c : Nat) : (s.freshCore c).kept = s.kept := (rfl)
@[simp] theorem State.failCore_kept (s : State) (c : Nat) : (s.failCore c).kept = s.kept := by simp [State.failCore]
@[simp] theorem State.shardLost_kept (s : State) : (s.shardLost).kept = s.kept := by simp [State.shardLost]
@[simp] theorem State.setLink_kept (s : State) (k : Nat) (x : Link) : (s.setLink k x).kept = s.kept := (rfl)
@[simp] theorem State.failLink_kept (s : State) (l : LinkId) :
    (s.failLink l).kept = s.kept := by
  unfold State.failLink
  simp only; (repeat' split) <;> simp
@[simp] theorem State.countCe_kept (s : State) (m w pos : Nat) : (s.countCe m w pos).kept = s.kept := by simp [State.countCe]

/-! Machine/Aborts -/

@[simp] theorem State.failWornCore_kept (s : State) (c : Nat) : (s.failWornCore c).kept = s.kept := by simp [State.failWornCore]

/-! Machine/TickUnit -/

@[simp] theorem State.slip_kept (s : State) : (s.slip).kept = s.kept := by simp [State.slip]
@[simp] theorem State.missPeriod_kept (s : State) : (s.missPeriod).kept = s.kept := by simp [State.missPeriod]

/-! Machine/Ledger -/

@[simp] theorem State.appendBytes_kept (s : State) (kind : Nat) (b : Bytes) : (s.appendBytes kind b).kept = s.kept := (rfl)
@[simp] theorem State.appendEntry_kept (s : State) (kind flags : Nat) (body : Bytes) : (s.appendEntry kind flags body).kept = s.kept := (rfl)
@[simp] theorem State.appendStart_kept (s : State) (step : Nat) : (s.appendStart step).kept = s.kept := (rfl)
@[simp] theorem State.appendEnd_kept (s : State) (reason : Nat) : (s.appendEnd reason).kept = s.kept := (rfl)
@[simp] theorem State.appendMark_kept (s : State) (v : Nat) (sha : Bytes) : (s.appendMark v sha).kept = s.kept := (rfl)
@[simp] theorem State.appendSeal_kept (s : State) (step interval next : Nat) (byResolution : Bool) :
    (s.appendSeal step interval next byResolution).kept = s.kept := (rfl)
@[simp] theorem State.appendEvals_kept (s : State) : (s.appendEvals).kept = s.kept := by simp [State.appendEvals]

/-! Machine/Decision -/

@[simp] theorem State.beginNumerics_kept (s : State) (step : Nat) : (s.beginNumerics step).kept = s.kept := by simp [State.beginNumerics]
@[simp] theorem State.correctStep_kept (s : State) (a : SMap Range) (step : Nat) : (s.correctStep a step).kept = s.kept := by simp [State.correctStep]
@[simp] theorem State.correctScales_kept (s : State) (step : Nat) : (s.correctScales step).kept = s.kept := by simp [State.correctScales]
@[simp] theorem State.combineNumerics_kept (s : State) (step : Nat) (all : List Bytes) : (s.combineNumerics step all).kept = s.kept := (rfl)
@[simp] theorem State.sealNumerics_kept (s : State) (step : Nat) : (s.sealNumerics step).kept = s.kept := (rfl)

/-! Machine/Checkpoint -/

@[simp] theorem State.setRun_kept (s : State) (r : CkptRun) : (s.setRun r).kept = s.kept := (rfl)
@[simp] theorem State.sendUnit_kept (s : State) (r : CkptRun) (i u : Nat) :
    (s.sendUnit r i u).kept = s.kept := by
  unfold State.sendUnit
  split <;> simp
@[simp] theorem State.askBack_kept (s : State) : (s.askBack).kept = s.kept := by
  unfold State.askBack
  split <;> simp
@[simp] theorem State.afterUnit_kept (s : State) : (s.afterUnit).kept = s.kept := by
  unfold State.afterUnit
  simp only; (repeat' split) <;> simp
@[simp] theorem State.startCheckpoint_kept (s : State) (v : Nat) : (s.startCheckpoint v).kept = s.kept := by
  unfold State.startCheckpoint
  simp only
  split <;> simp
@[simp] theorem State.closeChunks_kept (s : State) : (s.closeChunks).kept = s.kept := by
  unfold State.closeChunks
  split <;> rfl
@[simp] theorem State.releaseStall_kept (s : State) (pair mdie u : Nat) : (s.releaseStall pair mdie u).kept = s.kept := (rfl)
@[simp] theorem State.finishCheckpoint_kept (s : State) (r : CkptRun) : (s.finishCheckpoint r).kept = s.kept := by simp [State.finishCheckpoint]
@[simp] theorem State.judgeStream_kept (s : State) (r : CkptRun) (x : CkptStream) (ok : Bool) : (s.judgeStream r x ok).kept = s.kept := by
  unfold State.judgeStream
  simp only
  split
  · simp
  · split
    · simp
    · simp
      refine (foldl_kept (fun st u => ?_) _ _).trans (by simp)
      split <;> simp
@[simp] theorem State.ckptTrigger_kept (s : State) (step : Nat) : (s.ckptTrigger step).kept = s.kept := by simp [State.ckptTrigger]
@[simp] theorem State.ckptNow_kept (s : State) : s.ckptNow.kept = s.kept := by
  unfold State.ckptNow
  split
  · simp only
    (repeat' split) <;> simp
  · rfl

/-! Machine/Collectives -/

@[simp] theorem State.setColl_kept (s : State) (k : Nat) (r : CollRun) : (s.setColl k r).kept = s.kept := (rfl)
@[simp] theorem State.sendColl_kept (s : State) (k : Nat) (r : CollRun) (object rank start : Nat) (second : Bool) (l : List (BitVec 48)) :
    (s.sendColl k r object rank start second l).kept = s.kept := by simp [State.sendColl]
@[simp] theorem State.pushPart_kept (s : State) (k : Nat) :
    (s.pushPart k).kept = s.kept := by
  unfold State.pushPart
  simp only; (repeat' split) <;> simp
@[simp] theorem State.takeColl_kept (s : State) (o : InOp) : (s.takeColl o).kept = s.kept := by
  unfold State.takeColl
  split <;> simp
@[simp] theorem State.dropColl_kept (s : State) (k : Nat) (r : CollRun) (mask : Nat) :
    (s.dropColl k r mask).kept = s.kept := by
  unfold State.dropColl
  simp only; (repeat' split) <;> simp
@[simp] theorem State.spread_kept (s : State) (k : Nat) (r : CollRun) (object : Nat) (v : List (BitVec 48)) :
    (s.spread k r object v).kept = s.kept := by simp [State.spread]
@[simp] theorem State.signalDone_kept (s : State) (step : Nat) (d : CollDesc) : (s.signalDone step d).kept = s.kept := by simp [State.signalDone]
@[simp] theorem State.countLast_kept (s : State) (r : CollRun) : (s.countLast r).kept = s.kept := (rfl)
@[simp] theorem State.putStats_kept (s : State) (js : List (Nat × Job)) (all : List (BitVec 48)) : (s.putStats js all).kept = s.kept := by
  simp [State.putStats]
@[simp] theorem State.statsExchange_kept (s : State) (js : List (Nat × Job)) (others : List Bytes) :
    (s.statsExchange js others).kept = s.kept := by simp [State.statsExchange]

/-! Machine/Vector -/

@[simp] theorem laneWrite_kept (c : Nat) (e : EntryRun) (vd : BitVec 5) (mask : BitVec 2) (f : Core → Nat → W32 × List Nat) (s : State) :
    (laneWrite c e vd mask f s).kept = s.kept := by simp [laneWrite]
@[simp] theorem tapEvents_kept (c : Nat) (e : EntryRun) (r : Nat) (rs : List (Nat × LaneOut)) (s : State) :
    (tapEvents c e r rs s).kept = s.kept := by simp [tapEvents]

/-! Machine/Sessions -/

@[simp] theorem State.evalTransferClosed_kept (s : State) (u : TransferFor) :
    (s.evalTransferClosed u).kept = s.kept := by
  unfold State.evalTransferClosed
  (repeat' split) <;> simp
@[simp] theorem State.closeSession_kept (s : State) (id cause : Nat) :
    (s.closeSession id cause).kept = s.kept := by
  unfold State.closeSession
  simp only; (repeat' split) <;> simp
@[simp] theorem State.goOutOfService_kept (s : State) (cause : Nat) : (s.goOutOfService cause).kept = s.kept := by
  unfold State.goOutOfService
  simp only
  exact (foldl_kept (fun _ _ => by simp) _ _).trans (by simp)

/-! Machine/Reset -/

@[simp] theorem State.loseCores_kept (s : State) (level : Nat) (t : ResetTarget) : (s.loseCores level t).kept = s.kept := by simp [State.loseCores]
@[simp] theorem State.loseMDie_kept (s : State) (m : Nat) : (s.loseMDie m).kept = s.kept := by simp [State.loseMDie]
@[simp] theorem State.loseNDie_kept (s : State) (n : Nat) : (s.loseNDie n).kept = s.kept := by simp [State.loseNDie]
@[simp] theorem State.noteReset_kept (s : State) (src level : Nat) (t : ResetTarget) : (s.noteReset src level t).kept = s.kept := (rfl)
@[simp] theorem State.countReset_kept (s : State) : (s.countReset).kept = s.kept := (rfl)
@[simp] theorem State.logStart_kept (s : State) (r : ResetRun) (freeze : Bool) : (s.logStart r freeze).kept = s.kept := by simp [State.logStart]
@[simp] theorem State.restartLoad_kept (s : State) : (s.restartLoad).kept = s.kept := by simp [State.restartLoad]

/-! Machine/ResetEvents -/

@[simp] theorem State.stopStart_kept (s : State) (n : Note) : (s.stopStart n).kept = s.kept := by simp [State.stopStart]
@[simp] theorem State.failPhysDie_kept (s : State) (p : Nat) : (s.failPhysDie p).kept = s.kept := by
  unfold State.failPhysDie
  split <;> simp
@[simp] theorem State.stageFound_kept (s : State) (r : ResetRun) (f : StageFinding) : (s.stageFound r f).kept = s.kept := by
  cases f <;> simp [State.stageFound]
@[simp] theorem State.loadConfig_kept (s : State) : (s.loadConfig).kept = s.kept := (rfl)
@[simp] theorem State.stageOne_kept (s : State) (level : Nat) : (s.stageOne level).kept = s.kept := by simp [State.stageOne]
@[simp] theorem State.stageFour_kept (s : State) (r : ResetRun) : (s.stageFour r).kept = s.kept := by simp [State.stageFour]
@[simp] theorem State.bringBack_kept (s : State) (r : ResetRun) : (s.bringBack r).kept = s.kept := by simp [State.bringBack]
@[simp] theorem State.escalate_kept (s : State) (r : ResetRun) : (s.escalate r).kept = s.kept := by simp [State.escalate]
@[simp] theorem State.returnToService_kept (s : State) : (s.returnToService).kept = s.kept := (rfl)
@[simp] theorem State.finishReset_kept (s : State) (r : ResetRun) : (s.finishReset r).kept = s.kept := by simp [State.finishReset]
@[simp] theorem State.dropTarget_kept (s : State) (r : ResetRun) (code : Nat) : (s.dropTarget r code).kept = s.kept := (rfl)
@[simp] theorem State.logHang_kept (s : State) (die : Nat) (err : BitVec 32) (level : Nat) :
    (s.logHang die err level).kept = s.kept := by simp [State.logHang]

/-! Machine/Power -/

@[simp] theorem State.setGood_kept (s : State) (b : Bool) : (s.setGood b).kept = s.kept := by simp [State.setGood]
@[simp] theorem State.setInput_kept (s : State) (k mv : Nat) : (s.setInput k mv).kept = s.kept := (rfl)
@[simp] theorem State.portsOff_kept (s : State) : (s.portsOff).kept = s.kept := (rfl)
@[simp] theorem State.logLimit_kept (s : State) (on : Bool) (code : Nat) : (s.logLimit on code).kept = s.kept := by simp [State.logLimit]
@[simp] theorem State.applyAsk_kept (s : State) (a : SafetyAsk) : (s.applyAsk a).kept = s.kept := by simp [State.applyAsk]
@[simp] theorem State.answerAsk_kept (s : State) (a : SafetyAsk) (r : Reply) :
    (s.answerAsk a r).kept = s.kept := by
  unfold State.answerAsk
  split <;> simp

/-! Machine/HostFrames -/

@[simp] theorem State.sendPlain_kept (s : State) (p : Nat) (addr : Bytes) (typ : Nat) (body : Bytes) :
    (s.sendPlain p addr typ body).kept = s.kept := (rfl)
@[simp] theorem State.challenge_kept (s : State) (port : Nat) (addr : Bytes) : (s.challenge port addr).kept = s.kept := (rfl)
@[simp] theorem State.refuseOpen_kept (s : State) (port : Nat) (addr : Bytes) (status : Nat) :
    (s.refuseOpen port addr status).kept = s.kept := by simp [State.refuseOpen]
@[simp] theorem State.openSession_kept (s : State) (port : Nat) (addr b : Bytes) : (s.openSession port addr b).kept = s.kept := (rfl)
@[simp] theorem State.takeOpen_kept (s : State) (port : Nat) (addr b : Bytes) :
    (s.takeOpen port addr b).kept = s.kept := by
  unfold State.takeOpen
  split <;> simp
@[simp] theorem State.answerNow_kept (s : State) (id t : Nat) (b : Bytes) (r : Reply) :
    (s.answerNow id t b r).kept = s.kept := by simp [State.answerNow]
@[simp] theorem State.submit_kept (s : State) (id t : Nat) (b : Bytes) : (s.submit id t b).kept = s.kept := by simp [State.submit]
@[simp] theorem State.ackBack_kept (s : State) (id before : Nat) : (s.ackBack id before).kept = s.kept := by
  unfold State.ackBack
  split <;> simp
@[simp] theorem State.dropTag_kept (s : State) (port : Nat) : (s.dropTag port).kept = s.kept := by simp [State.dropTag]

/-! Machine/VerdictTree -/

@[simp] theorem State.passUp_kept (s : State) : (s.passUp).kept = s.kept := by
  unfold State.passUp
  (repeat' split) <;> simp
@[simp] theorem State.takeExchange_kept (s : State) (rank window : Nat) (d : Bytes) :
    (s.takeExchange rank window d).kept = s.kept := by simp [State.takeExchange]

/-! Machine/Fabric -/

@[simp] theorem State.linkControl_kept (s : State) (p : Nat) : (s.linkControl p).kept = s.kept := (rfl)
@[simp] theorem State.discard_kept (s : State) (p : Nat) (nak : Bool) : (s.discard p nak).kept = s.kept := by simp [State.discard]
@[simp] theorem State.portLogOnce_kept (s : State) (p code : Nat) (detail : Bytes) :
    (s.portLogOnce p code detail).kept = s.kept := by simp [State.portLogOnce]
@[simp] theorem State.countPort_kept (s : State) (p off : Nat) : (s.countPort p off).kept = s.kept := (rfl)
@[simp] theorem State.sendAck_kept (s : State) (h : Bytes) (nak : Option Nat) :
    (s.sendAck h nak).kept = s.kept := by
  unfold State.sendAck
  simp only; (repeat' split) <;> simp
@[simp] theorem State.takePairing_kept (s : State) (d : Bytes) : (s.takePairing d).kept = s.kept := by
  unfold State.takePairing
  simp only
  split <;> rfl
@[simp] theorem State.forward_kept (s : State) (p : Nat) (t : RouteTable) (h d : Bytes) :
    (s.forward p t h d).kept = s.kept := by
  unfold State.forward
  (repeat' split) <;> simp
@[simp] theorem State.reroute_kept (s : State) (fs : List OutFrame) : (s.reroute fs).kept = s.kept := by
  unfold State.reroute
  refine foldl_kept (fun st o => ?_) fs s
  simp only
  (repeat' split) <;> simp
@[simp] theorem State.bringUp_kept (s : State) (p : Nat) : (s.bringUp p).kept = s.kept := by simp [State.bringUp]
@[simp] theorem State.sendNeighbour_kept (s : State) (p : Nat) (d : Bytes) : (s.sendNeighbour p d).kept = s.kept := (rfl)
@[simp] theorem State.resend_kept (s : State) (n slot f : Nat) (nak : Bool) :
    (s.resend n slot f nak).kept = s.kept := by
  unfold State.resend
  split <;> simp

/-! Machine/Steps -/

@[simp] theorem State.missDeadline_kept (s : State) (step : Nat) : (s.missDeadline step).kept = s.kept := by simp [State.missDeadline]
@[simp] theorem State.clearSegs_kept (s : State) (step : Nat) : (s.clearSegs step).kept = s.kept := (rfl)
@[simp] theorem State.setSlot_kept (s : State) (i : Nat) (f : HuskSlot → HuskSlot) : (s.setSlot i f).kept = s.kept := (rfl)
@[simp] theorem State.stopTraining_kept (s : State) (p : Nat → Bool) (c : Nat) :
    (s.stopTraining p c).kept = s.kept := by
  unfold State.stopTraining
  split <;> simp
@[simp] theorem State.stopSteps_kept (s : State) (p : Nat → Bool) : (s.stopSteps p).kept = s.kept := by simp [State.stopSteps]
@[simp] theorem State.rollMirror_kept (s : State) (v : Nat) (e : Nat × Job) : (s.rollMirror v e).kept = s.kept := by simp [State.rollMirror]
@[simp] theorem State.rollPair_kept (s : State) (v : Nat) (e : Nat × Job) : (s.rollPair v e).kept = s.kept := by simp [State.rollPair]
@[simp] theorem State.rollBack_kept (s : State) (v : Nat) : (s.rollBack v).kept = s.kept := by simp [State.rollBack]
@[simp] theorem State.restartStep_kept (s : State) (step : Nat) : (s.restartStep step).kept = s.kept := by simp [State.restartStep]
@[simp] theorem State.endRun_kept (s : State) (reason : Nat) : (s.endRun reason).kept = s.kept := by simp [State.endRun]
@[simp] theorem State.sealStep_kept (s : State) (step interval next : Nat) (byResolution : Bool) :
    (s.sealStep step interval next byResolution).kept = s.kept := (rfl)
@[simp] theorem State.replayStep_kept (s : State) (step : Nat) : (s.replayStep step).kept = s.kept := by simp [State.replayStep]
@[simp] theorem State.holdRun_kept (s : State) (step : Nat) (rec : Bytes) : (s.holdRun step rec).kept = s.kept := by simp [State.holdRun]
@[simp] theorem State.numericsReport_kept (s : State) (step code : Nat) (rec : Bytes) :
    (s.numericsReport step code rec).kept = s.kept := by simp [State.numericsReport]

/-! Machine/Window -/

@[simp] theorem State.expertOverrun_kept (s : State) (e : Nat × EntrySt) : (s.expertOverrun e).kept = s.kept := by simp [State.expertOverrun]
@[simp] theorem State.closeClause_kept (s : State) :
    (s.closeClause).kept = s.kept := by
  unfold State.closeClause
  simp only; (repeat' split) <;> simp
@[simp] theorem State.latchVerdict_kept (s : State) (clause t : Nat) :
    (s.latchVerdict clause t).kept = s.kept := by
  unfold State.latchVerdict
  split <;> simp
@[simp] theorem State.openClause_kept (s : State) (c t : Nat) : (s.openClause c t).kept = s.kept := by simp [State.openClause]
@[simp] theorem State.pickEval_kept (s : State) (w : Nat) : (s.pickEval w).kept = s.kept := by
  unfold State.pickEval
  (repeat' split) <;> simp
@[simp] theorem State.tickCheck_kept (s : State) (t : RouteTable) (sl p : Nat) : (s.tickCheck t sl p).kept = s.kept := by simp [State.tickCheck]
@[simp] theorem State.tickChecks_kept (s : State) : (s.tickChecks).kept = s.kept := by
  unfold State.tickChecks
  split <;> simp
@[simp] theorem State.stretch_kept (s : State) (r : Bytes) (step : Nat) (sealing : Bool) :
    (s.stretch r step sealing).kept = s.kept := by simp [State.stretch]
@[simp] theorem State.limitReplay_kept (s : State) (r : Bytes) (step : Nat) : (s.limitReplay r step).kept = s.kept := by simp [State.limitReplay]
@[simp] theorem State.takeHold_kept (s : State) (r : Bytes) (step : Nat) : (s.takeHold r step).kept = s.kept := by simp [State.takeHold]
@[simp] theorem State.afterResolution_kept (s : State) (step : Nat) : (s.afterResolution step).1.kept = s.kept := by simp [State.afterResolution]
@[simp] theorem State.applyFrame_kept (s : State) (e : Nat × Nat × Nat × Nat × Bool) : (s.applyFrame e).kept = s.kept := by simp [State.applyFrame]
@[simp] theorem State.setProgram_kept (s : State) (c : Nat) (i : Image) : (s.setProgram c i).kept = s.kept := (rfl)
@[simp] theorem State.setProbation_kept (s : State) (on : Bool) : (s.setProbation on).kept = s.kept := by simp [State.setProbation]
@[simp] theorem State.applyStaged_kept (s : State) :
    (s.applyStaged).kept = s.kept := by
  unfold State.applyStaged
  simp only; (repeat' split) <;> simp
@[simp] theorem State.closeLate_kept (s : State) : (s.closeLate).kept = s.kept := by simp [State.closeLate]
@[simp] theorem State.missLag0_kept (s : State) : (s.missLag0).kept = s.kept := by
  unfold State.missLag0
  split <;> simp
@[simp] theorem State.stall_kept (s : State) (t : Nat) : (s.stall t).kept = s.kept := by simp [State.stall]

/-! Machine/Verdict -/

@[simp] theorem State.missShared_kept (s : State) (k clause w : Nat) : (s.missShared k clause w).kept = s.kept := by simp [State.missShared]
@[simp] theorem State.checkStep_kept (s : State) (k : Nat) : (s.checkStep k).kept = s.kept := by simp [State.checkStep]
@[simp] theorem State.stepRecord_kept (s : State) (k : Nat) : (s.stepRecord k).1.kept = s.kept := by simp [State.stepRecord]
@[simp] theorem State.noteVerdict_kept (s : State) (r : Bytes) : (s.noteVerdict r).kept = s.kept := by simp [State.noteVerdict]
@[simp] theorem State.endVerdict_kept (s : State) : (s.endVerdict).kept = s.kept := by
  unfold State.endVerdict
  split <;> simp
@[simp] theorem State.catchUp_kept (n : Nat) (s : State) : (State.catchUp n s).kept = s.kept := by
  induction n generalizing s with
  | zero => rfl
  | succ n ih =>
    unfold State.catchUp
    split
    · split
      · simp [ih]
      · rfl
    · rfl

/-! Machine/Restore -/

@[simp] theorem State.emptyStaging_kept (s : State) : (s.emptyStaging).kept = s.kept := by simp [State.emptyStaging]
@[simp] theorem State.refuseRestore_kept (s : State) (status : Nat) (detail : Bytes) :
    (s.refuseRestore status detail).kept = s.kept := by simp [State.refuseRestore]

/-! Machine/Takeovers -/

@[simp] theorem State.leaveSlice_kept (s : State) : (s.leaveSlice).kept = s.kept := (rfl)
@[simp] theorem State.rejoin_kept (s : State) (sl : Nat) (t : RouteTable) : (s.rejoin sl t).kept = s.kept := by
  unfold State.rejoin
  split <;> simp
@[simp] theorem State.startTakeover_kept (s : State) (sl : Nat) (k : Takeover) : (s.startTakeover sl k).kept = s.kept := (rfl)
@[simp] theorem State.takeoverFailed_kept (s : State) (status : Nat) : (s.takeoverFailed status).kept = s.kept := (rfl)
@[simp] theorem State.joinRun_kept (s : State) (k : Takeover) (p : Pulled) : (s.joinRun k p).kept = s.kept := by simp [State.joinRun]

/-! Machine/CmdIdent -/

@[simp] theorem checked_kept {run : State → State × Option Reply} {s : State} (hrun : (run s).1.kept = s.kept) (l : List (Bool × Reply)) :
    (checked l s run).1.kept = s.kept := by
  unfold checked
  split
  · rfl
  · exact hrun
@[simp] theorem State.setQuotas_kept (s : State) (p : Bytes) : (s.setQuotas p).1.kept = s.kept := by simp [State.setQuotas]

/-! Machine/CmdRegion -/

@[simp] theorem State.noteUe_kept (s : State) (atom : Nat) : (s.noteUe atom).kept = s.kept := by simp [State.noteUe]
@[simp] theorem State.withBytes_kept {k : Bytes → State → State × Option Reply} {s : State} (hk : ∀ b, (k b s).1.kept = s.kept) (a n : Nat) :
    (s.withBytes a n k).1.kept = s.kept := by
  unfold State.withBytes
  split
  · simp
  · exact hk _
@[simp] theorem State.withSource_kept {k : Bytes → State → State × Option Reply} {s : State} (hk : ∀ b, (k b s).1.kept = s.kept) (t i off head : Nat)
    (need : Bytes → Nat) : (s.withSource t i off head need k).1.kept = s.kept := by
  unfold State.withSource
  split
  · rfl
  · simp [hk]
@[simp] theorem State.dropRegion_kept (s : State) (i : Nat) : (s.dropRegion i).kept = s.kept := (rfl)
@[simp] theorem State.openTransfer_kept (s : State) (id : Nat) (u : Transfer) : (s.openTransfer id u).kept = s.kept := by simp [State.openTransfer]

/-! Machine/ArmChecks -/

@[simp] theorem State.viewAt_kept (s : State) (p : Nat) : (s.viewAt p).kept = s.kept := by simp [State.viewAt]
@[simp] theorem State.noField_kept (s : State) : (s.noField).1.kept = s.kept := (rfl)

/-! Machine/CmdProgram -/

@[simp] theorem State.placeProgram_kept (s : State) (cores : List Nat) (i : Image) :
    (s.placeProgram cores i).kept = s.kept := by simp [State.placeProgram]
@[simp] theorem programLoad_kept (expert : Bool) (t : Nat) (p : Bytes) (s : State) : (programLoad expert t p s).1.kept = s.kept := by
  unfold programLoad
  refine checked_kept (State.withSource_kept (fun b => ?_) ..) _
  split
  · rfl
  · simp only
    split <;> simp
@[simp] theorem State.placeJob_kept (s : State) (i : Nat) (j : Job) : (s.placeJob i j).kept = s.kept := by simp [State.placeJob]
@[simp] theorem optimizerSet_kept (expert : Bool) (t : Nat) (p : Bytes) (s : State) : (optimizerSet expert t p s).1.kept = s.kept := by
  unfold optimizerSet
  simp only
  refine checked_kept ?_ _
  split
  · refine State.withSource_kept (fun b => ?_) ..
    split <;> rfl
  · refine State.withSource_kept (fun b => ?_) ..
    split <;> simp
@[simp] theorem frameSet_kept (expert : Bool) (p : Bytes) (s : State) : (frameSet expert p s).1.kept = s.kept := by simp [frameSet]
@[simp] theorem State.stageTable_kept (s : State) (eff : Nat) (tb : Table) : (s.stageTable eff tb).kept = s.kept := (rfl)
@[simp] theorem State.loadTable_kept (s : State) (tb : Table) : (s.loadTable tb).kept = s.kept := by simp [State.loadTable]
@[simp] theorem State.withTable_kept (s : State) (eff : Nat) (tb : Table) : (s.withTable eff tb).1.kept = s.kept := by simp [State.withTable]

/-! Machine/CmdSlice -/

@[simp] theorem State.cable_kept (s : State) (c : Cable) : (s.cable c).kept = s.kept := by simp [State.cable]
@[simp] theorem cablingCheck_kept (expert : Bool) (p : Bytes) (s : State) : (cablingCheck expert p s).1.kept = s.kept := by simp [cablingCheck]

/-! Machine/CmdRun -/

@[simp] theorem State.beginStart_kept (s : State) : (s.beginStart).kept = s.kept := by simp [State.beginStart]
@[simp] theorem State.sendRefreshes_kept (s : State) : (s.sendRefreshes).kept = s.kept := by simp [State.sendRefreshes]
@[simp] theorem State.endStart_kept (s : State) : (s.endStart).kept = s.kept := (rfl)
@[simp] theorem State.startRun_kept (s : State) (epoch last : Nat) : (s.startRun epoch last).kept = s.kept := by simp [State.startRun]
@[simp] theorem State.finishStart_kept (s : State) (epoch last : Nat) :
    (s.finishStart epoch last).1.kept = s.kept := by
  unfold State.finishStart
  split <;> simp
@[simp] theorem State.goStart_kept (s : State) (epoch last : Nat) : (s.goStart epoch last).1.kept = s.kept := by simp [State.goStart]

/-! Machine/CmdNumerics -/

@[simp] theorem State.placePolicy_kept (s : State) (p : Policy) (eff : Nat) : (s.placePolicy p eff).1.kept = s.kept := by
  unfold State.placePolicy
  simp
@[simp] theorem policySet_kept (expert : Bool) (t : Nat) (p : Bytes) (s : State) : (policySet expert t p s).1.kept = s.kept := by
  unfold policySet
  simp only
  refine checked_kept (State.withSource_kept (fun b => ?_) ..) _
  split <;> simp

/-! Machine/CmdRecov -/

@[simp] theorem State.beginTakeover_kept (s : State) (sl : Nat) (k : Takeover) :
    (s.beginTakeover sl k).kept = s.kept := by
  unfold State.beginTakeover
  split <;> simp
@[simp] theorem fenceCmd_kept (expert : Bool) (s : State) : (fenceCmd expert s).1.kept = s.kept := by simp [fenceCmd]
@[simp] theorem State.setThreshold_kept (s : State) (n : Nat) : (s.setThreshold n).kept = s.kept := by simp [State.setThreshold]
@[simp] theorem State.probationFor_kept (s : State) (what eff : Nat) : (s.probationFor what eff).kept = s.kept := by simp [State.probationFor]

/-! Machine/CmdCkpt -/

@[simp] theorem ckptPolicySet_kept (expert : Bool) (p : Bytes) (s : State) : (ckptPolicySet expert p s).1.kept = s.kept := by simp [ckptPolicySet]
@[simp] theorem State.openRestore_kept (s : State) (p m : Bytes) : (s.openRestore p m).kept = s.kept := by simp [State.openRestore]

/-! Machine/CmdObserve -/

@[simp] theorem State.clearPeak_kept (s : State) : (s.clearPeak).kept = s.kept := (rfl)
@[simp] theorem State.afterTel_kept (s : State) (sel : Nat) : (s.afterTel sel).kept = s.kept := by simp [State.afterTel]
@[simp] theorem State.telRecords_kept (s : State) (mask : Nat) : (s.telRecords mask).1.kept = s.kept := by simp [State.telRecords]

/-! Machine/CmdService -/

@[simp] theorem State.noteRaised_kept (s : State) (asked level : Nat) : (s.noteRaised asked level).kept = s.kept := by simp [State.noteRaised]
@[simp] theorem State.askFor_kept (s : State) (level : Nat) : (s.askFor level).kept = s.kept := (rfl)
@[simp] theorem State.ask_kept (s : State) (item value t : Nat) : (s.ask item value t).kept = s.kept := (rfl)
@[simp] theorem rampPolicySet_kept (expert : Bool) (t : Nat) (p : Bytes) (s : State) :
    (rampPolicySet expert t p s).1.kept = s.kept := by simp [rampPolicySet]
@[simp] theorem coreInspect_kept (expert : Bool) (p : Bytes) (s : State) : (coreInspect expert p s).1.kept = s.kept := by simp [coreInspect]

/-! Machine/CmdEval -/

@[simp] theorem State.addEval_kept (s : State) (v : Eval) : (s.addEval v).kept = s.kept := (rfl)
@[simp] theorem State.openEval_kept (s : State) (id num reg len : Nat) (use : TransferFor) :
    (s.openEval id num reg len use).kept = s.kept := by simp [State.openEval]
@[simp] theorem State.acceptEval_kept (s : State) (sess : Nat) (v : Eval) : (s.acceptEval sess v).kept = s.kept := by simp [State.acceptEval]
@[simp] theorem evalSubmit_kept (t : Nat) (p : Bytes) (s : State) : (evalSubmit t p s).1.kept = s.kept := by
  unfold evalSubmit
  simp only
  refine checked_kept ?_ _
  split
  · simp
  · refine State.withBytes_kept (fun b => ?_) ..
    split <;> simp
@[simp] theorem evalResultRead_kept (t : Nat) (p : Bytes) (s : State) : (evalResultRead t p s).1.kept = s.kept := by
  unfold evalResultRead
  simp only
  split
  · simp
  · refine checked_kept ?_ _
    split <;> simp

/-! Machine/SyncOps -/

@[simp] theorem State.sendSignal_kept (s : State) (c : Nat) (e : EntryRun) (q : SigRun) :
    (s.sendSignal c e q).kept = s.kept := by simp [State.sendSignal]
@[simp] theorem State.badSignal_kept (s : State) (step : Option Nat) (count : Nat) :
    (s.badSignal step count).kept = s.kept := by
  unfold State.badSignal
  split <;> rfl

end Sys2Proof.Machine
end

section
/-!
PROOFS. What every step keeps, second part: the operations that write cells keep them in canonical form (08_memory_system).
-/

namespace Sys2Proof.Machine

section

/-- What a command may leave where queue and cells were `k`: the queue as it was, and cells in canonical form where those of `k` were. -/
def Follows (k l : List Instr × List Host.Cell) : Prop := l.1 = k.1 ∧ (Memory.wf k.2 = true → Memory.wf l.2 = true)

@[simp] theorem Follows.refl (k : List Instr × List Host.Cell) : Follows k k := ⟨rfl, id⟩

theorem Follows.of_eq {k l : List Instr × List Host.Cell} (h : l = k) : Follows k l := h ▸ Follows.refl l

variable {k : List Instr × List Host.Cell}

@[simp] theorem follows_ite {c : Prop} [Decidable c] {x y : List Instr × List Host.Cell} :
    Follows k (if c then x else y) ↔ (c → Follows k x) ∧ (¬ c → Follows k y) := by
  split <;> simp [*]

/-- A change of the cells that keeps the canonical form. -/
theorem Follows.withMem {s : State} {m : Mem} (h : Follows k s.kept) (hm : Memory.wf s.mem.cells = true → Memory.wf m.cells = true) :
    Follows k (s.withMem m).kept := ⟨h.1, fun hk => hm (h.2 hk)⟩

theorem Memory.wf_keep {m : List Host.Cell} {p : Nat → Bool} (h : Memory.wf m = true) : Memory.wf (SMap.keep p m) = true := SMap.wf_keep h

theorem foldl_follows {β : Type} {f : State → β → State} (hf : ∀ s b, Follows k s.kept → Follows k (f s b).kept) (l : List β) {s : State}
    (h : Follows k s.kept) : Follows k (l.foldl f s).kept := by
  induction l generalizing s with
  | nil => exact h
  | cons b l ih => exact ih (hf s b h)

theorem foldl_fst_follows {β γ : Type} {f : State × γ → β → State × γ} (hf : ∀ s b, Follows k s.1.kept → Follows k (f s b).1.kept) (l : List β)
    {s : State × γ} (h : Follows k s.1.kept) : Follows k (l.foldl f s).1.kept := by
  induction l generalizing s with
  | nil => exact h
  | cons b l ih => exact ih (hf s b h)

section
variable {s : State} (h : Follows k s.kept)
include h

@[simp] theorem State.writeMem_follows (ma : Nat) (bs : Bytes) : Follows k (s.writeMem ma bs).kept := h.withMem Memory.wf_writeBytes

@[simp] theorem State.writePlace_follows (p : Place) (a : Nat) (bs : Bytes) : Follows k (s.writePlace p a bs).kept := by
  cases p <;> simp [State.writePlace, h]

@[simp] theorem copyElem_follows (s0 : State) (pa pb : Place) (a b : Desc) (i : Nat) : Follows k (copyElem s0 pa pb a b s i).kept :=
  foldl_follows (fun _ _ hs => State.writePlace_follows hs ..) _ h

@[simp] theorem State.restoreAtom_follows (rank : Nat) (d : Bytes) : Follows k (s.restoreAtom rank d).kept := by
  unfold State.restoreAtom
  split
  · exact h
  · split
    · simp [h]
    · exact h

/-! The near-memory engines. -/

@[simp] theorem State.writeFactor_follows (env : JobEnv) (n i : Nat) (v : Val) : Follows k (s.writeFactor env n i v).1.kept := by
  simp [State.writeFactor, h]

@[simp] theorem State.putFactor_follows (env : JobEnv) (n i : Nat) (v : OVal) : Follows k (s.putFactor env n i v).kept := by
  simp [State.putFactor, h]

@[simp] theorem State.writeFactors_follows (env : JobEnv) : Follows k (s.writeFactors env).1.kept :=
  foldl_fst_follows (fun _ _ ha => foldl_follows (fun _ _ hs => State.putFactor_follows hs ..) _ ha) _ h

@[simp] theorem State.rebuildWc_follows (j : Job) (m v b : Nat) : Follows k (s.rebuildWc j m v b).kept := by
  simp only [State.rebuildWc, State.noteRange_kept, State.charge_kept, State.clearAtoms_kept]
  exact foldl_follows (fun _ _ hs => State.writeMem_follows hs ..) _ h

@[simp] theorem State.closePhase_follows (r : JobRun) (j : Job) (env : JobEnv) : Follows k (s.closePhase r j env).kept := by
  simp [State.closePhase, h]

@[simp] theorem State.applyDelivery_follows (d : Delivery) : Follows k (s.applyDelivery d).kept := by
  unfold State.applyDelivery
  split
  · exact h
  · simp
    exact foldl_follows (fun _ _ hs => State.writeMem_follows hs ..) _ h

@[simp] theorem State.takeDelivery_follows (d : Delivery) : Follows k (s.takeDelivery d).kept := by
  have hearly (n : Nat) : ∀ {u : State}, Follows k u.kept → Follows k (State.applyEarly n u d).kept := by
    induction n with
    | zero => exact id
    | succ n ih =>
      intro u hu
      unfold State.applyEarly
      split
      · exact hu
      · exact ih (State.applyDelivery_follows (by simpa using hu) _)
  exact hearly _ (State.applyDelivery_follows h d)

@[simp] theorem State.writeShard_follows (j : Job) (sec fac : Nat) (b : Bytes) : Follows k (s.writeShard j sec fac b).kept := by
  have hplanes (f : Nat → Nat) (g : Nat → Bytes) : Follows k ((List.range 3).foldl (fun st p => st.writeMem (f p) (g p)) s).kept :=
    foldl_follows (fun _ _ hs => State.writeMem_follows hs ..) _ h
  simp [State.writeShard, hplanes]

@[simp] theorem State.writeOutput_follows (r : CollRun) (out : List (BitVec 48)) : Follows k (s.writeOutput r out).kept := by
  simp only [State.writeOutput, State.charge_kept]
  exact foldl_follows (fun _ _ hs => State.writePlace_follows hs ..) _ h

/-! Resets. -/

@[simp] theorem State.loseWarm_follows : Follows k s.loseWarm.kept := by
  have hended : Follows k ((s.stopEvals.failCheckpoint 0x0601).failRestore 0x0601).kept := by simpa using h
  exact ⟨hended.1, hended.2⟩

@[simp] theorem State.loseCold_follows : Follows k s.loseCold.kept := ⟨h.1, fun _ => Memory.wf_nil⟩

@[simp] theorem State.lose_follows (level : Nat) (ts : List ResetTarget) : Follows k (s.lose level ts).kept := by
  unfold State.lose
  split
  · simp [h]
  · split
    · simp [h]
    · simpa using h

@[simp] theorem State.startStages_follows (r : ResetRun) (freeze : Bool) : Follows k (s.startStages r freeze).kept := by
  simp [State.startStages, h]

@[simp] theorem State.beginReset_follows (f level : Nat) (t : ResetTarget) (hung : List Nat) : Follows k (s.beginReset f level t hung).kept := by
  unfold State.beginReset
  simp only
  split <;> simp [h]

@[simp] theorem State.resetWhole_follows (f : Nat) : Follows k (s.resetWhole f).kept := by simp [State.resetWhole, h]
@[simp] theorem State.resetDie_follows (f code : Nat) (hung : Bool) : Follows k (s.resetDie f code hung).kept := by simp [State.resetDie, h]
@[simp] theorem State.resetCore_follows (c : Nat) : Follows k (s.resetCore c).kept := by simp [State.resetCore, h]
@[simp] theorem State.beginAsked_follows (level : Nat) : Follows k (s.beginAsked level).kept := by simp [State.beginAsked, h]
@[simp] theorem State.safetyTrip_follows (cause : Nat) : Follows k (s.safetyTrip cause).kept := by simp [State.safetyTrip, h]

@[simp] theorem State.loseGddr_follows (m : Nat) : Follows k (s.loseGddr m).kept := h.withMem SMap.wf_filter

@[simp] theorem State.lostByTraining_follows (level m : Nat) : Follows k (s.lostByTraining level m).kept := by simp [State.lostByTraining, h]

@[simp] theorem State.stageThree_follows (r : ResetRun) : Follows k (s.stageThree r).kept := by
  simp only [State.stageThree, State.kept_ite, follows_ite]
  refine ⟨fun _ => by simpa using h, fun _ => foldl_follows (fun _ _ hs => State.lostByTraining_follows hs ..) _ (by simpa using h)⟩

@[simp] theorem State.stageEffect_follows (r : ResetRun) : Follows k (s.stageEffect r).kept := by
  unfold State.stageEffect
  split <;> simp [h]

/-! Host frames. -/

@[simp] theorem State.takeAck_follows (id ack : Nat) : Follows k (s.takeAck id ack).kept := by
  unfold State.takeAck
  split
  · exact h
  · simp only
    split
    · exact h
    · split <;> simp [h]

@[simp] theorem State.landBytes_follows (x : Transfer) (off : Nat) (data : Bytes) : Follows k (s.landBytes x off data).kept := by
  unfold State.landBytes
  (repeat' split) <;> simp [h]

@[simp] theorem State.takeBulk_follows (port id kind : Nat) (b : Bytes) : Follows k (s.takeBulk port id kind b).kept := by
  unfold State.takeBulk
  simp only
  (repeat' split) <;> simp [h]

@[simp] theorem State.deliverFrame_follows (port id : Nat) (w : Bytes) : Follows k (s.deliverFrame port id w).kept := by
  unfold State.deliverFrame
  split <;> simp [h]

@[simp] theorem State.takeSession_follows (port : Nat) (addr : Bytes) (f : HostFrame) : Follows k (s.takeSession port addr f).kept := by
  have hheld (n id : Nat) : ∀ {u : State}, Follows k u.kept → Follows k (State.deliverHeld n u port id).kept := by
    induction n with
    | zero => exact fun hu => hu
    | succ n ih =>
      intro u hu
      unfold State.deliverHeld
      split
      · exact hu
      · split
        · exact hu
        · exact ih (State.deliverFrame_follows (by simpa using hu) ..)
  unfold State.takeSession
  split
  · simp [h]
  · simp [h, hheld]

/-! Fabric frames. -/

@[simp] theorem State.takeHusk_follows (d : Bytes) : Follows k (s.takeHusk d).kept := by
  unfold State.takeHusk
  split
  · exact h
  · split
    · split
      · exact h
      · simp [h]
    · exact h

@[simp] theorem State.deliver_follows (o : InOp) : Follows k (s.deliver o).kept := by simp [State.deliver, h]

@[simp] theorem State.fragment_follows (n : Nat) (b d : Bytes) (checks : List (BitVec 16)) : Follows k (s.fragment n b d checks).kept := by
  simp [State.fragment, h]

@[simp] theorem State.receive_follows (p : Nat) (before : Port) (b d : Bytes) (checks : List (BitVec 16)) :
    Follows k (s.receive p before b d checks).kept := by
  simp [State.receive, h]

/-! Windows and verdicts. -/

@[simp] theorem State.writeHusk_follows (step : Nat) : Follows k (s.writeHusk step).kept := by
  unfold State.writeHusk
  split
  · exact h
  · exact State.writeMem_follows (State.writeMem_follows (State.writeMem_follows h ..) ..) ..

@[simp] theorem State.beginStep_follows (step : Nat) : Follows k (s.beginStep step).kept := by
  unfold State.beginStep
  simp only
  split
  · split <;> simp [h]
  · simp [h]

@[simp] theorem State.openWindow_follows (p : Plan) (t : Nat) : Follows k (s.openWindow p t).kept := by
  unfold State.openWindow
  simp
  split <;> simp [h]

@[simp] theorem State.takeReplay_follows (r : Bytes) (step : Nat) (corrected byRes : Bool) : Follows k (s.takeReplay r step corrected byRes).kept := by
  simp [State.takeReplay, h]

@[simp] theorem State.takeDecision_follows (r : Bytes) : Follows k (s.takeDecision r).1.kept := by
  unfold State.takeDecision
  simp only
  (repeat' split) <;> simp [h]

@[simp] theorem State.turnPeriod_follows (rec : Option Bytes) (t : Nat) : Follows k (s.turnPeriod rec t).kept := by
  unfold State.turnPeriod
  simp only
  (repeat' split) <;> simp [h]

/-! Restores and takeovers. -/

@[simp] theorem State.writeStream_follows (x : CkptStream) (off : Nat) (b : Bytes) : Follows k (s.writeStream x off b).kept :=
  foldl_follows (fun _ _ hs => State.writeMem_follows hs ..) _ h

@[simp] theorem State.swapMem_follows (a b n : Nat) : Follows k (s.swapMem a b n).kept := h.withMem SMap.wf_moved

@[simp] theorem State.commitPair_follows (v p : Nat) (j : Job) : Follows k (s.commitPair v p j).kept := by simp [State.commitPair, h]

@[simp] theorem State.commitRestore_follows (r : RestoreRun) (own : Bytes) : Follows k (s.commitRestore r own).kept := by
  simp only [State.commitRestore, State.log_kept, State.withCkpt_kept]
  exact foldl_follows (fun _ _ hs => State.commitPair_follows hs ..) _ h

@[simp] theorem State.judgeRestore_follows (r : RestoreRun) (xs : List CkptStream) : Follows k (s.judgeRestore r xs).kept := by
  unfold State.judgeRestore
  simp only
  split
  · simp [h]
  · split <;> simp [h]

@[simp] theorem State.placeEntries_follows (base : Nat) (l : List Bytes) : Follows k (s.placeEntries base l).kept :=
  foldl_follows (fun _ _ hs => by simp [hs]) _ h

@[simp] theorem State.placeShards_follows (v : Nat) (mirror : Bool) (l : List (Nat × Job × Bytes × Nat)) : Follows k (s.placeShards v mirror l).1.kept :=
  foldl_fst_follows (fun _ _ hs => by cases mirror <;> simp [hs]) _ h

/-! Host commands. -/

@[simp] theorem State.zeroMem_follows (a n : Nat) : Follows k (s.zeroMem a n).kept := by
  have hcells := Memory.wf_keep (m := s.mem.cells) (p := fun x => !decide (a ≤ x ∧ x < a + n))
  exact h.withMem hcells
@[simp] theorem State.addRegion_follows (t i kind spill size base : Nat) : Follows k (s.addRegion t i kind spill size base).kept := by
  simp [State.addRegion, h]
@[simp] theorem State.hostWrite_follows (a : Nat) (b : Bytes) : Follows k (s.hostWrite a b).kept := by simp [State.hostWrite, h]
@[simp] theorem State.takeSlot_follows (i step : Nat) (hd : FeedHead) : Follows k (s.takeSlot i step hd).kept := by
  unfold State.takeSlot
  split <;> simp [h]
@[simp] theorem State.closeHusk_follows (i : Nat) (hd : FeedHead) : Follows k (s.closeHusk i hd).kept := by
  unfold State.closeHusk
  simp only
  split <;> simp [h]
@[simp] theorem State.feedBytes_follows (i off : Nat) (d : Bytes) : Follows k (s.feedBytes i off d).kept := by simp [State.feedBytes, h]
@[simp] theorem State.feedStep_follows (t : Nat) (p : Bytes) (i : Nat) (hd : FeedHead) (fresh : Bool) :
    Follows k (s.feedStep t p i hd fresh).1.kept := by
  have htaken : Follows k (if fresh then s.takeSlot i (field p 0 8) hd else s).kept := by simp [h]
  unfold State.feedStep
  generalize (if fresh then s.takeSlot i (field p 0 8) hd else s) = u at htaken
  simp [htaken, h]
@[simp] theorem State.armPair_follows (v0 : Nat) (e : Nat × Job) : Follows k (State.armPair v0 s e).kept :=
  foldl_follows (fun _ _ hs => by simp [hs]) _ (by simpa using h)
@[simp] theorem State.armRun_follows (a : Armed) (stag : SMap Nat) : Follows k (s.armRun a stag).kept := by
  have hpairs (ps : SMap Job) {u : State} (hu : Follows k u.kept) : Follows k (ps.foldl (State.armPair a.v0) u).kept :=
    foldl_follows (fun _ _ hs => State.armPair_follows hs ..) ps hu
  have hrebuilt (ps : SMap Job) {u : State} (hu : Follows k u.kept) : Follows k (s.pending, (ps.foldl (State.armPair a.v0) u).mem.cells) :=
    ⟨h.1, (hpairs ps hu).2⟩
  simp [State.armRun, hrebuilt, h]

/-! Signals. -/

@[simp] theorem State.abandonAfter_follows (c index : Nat) : Follows k (s.abandonAfter c index).kept := by
  unfold State.abandonAfter
  extract_lets kc lost s1 s2
  have h2 : Follows k s2.kept :=
    foldl_follows (fun _ _ hs => foldl_follows (fun _ _ hq => by simp [hq]) _ hs) lost h
  simp [h2]
@[simp] theorem State.applyLocal_follows (c : Nat) (e : EntryRun) (q : SigRun) : Follows k (s.applyLocal c e q).kept := by
  unfold State.applyLocal
  simp only
  split
  · simp [h]
  · simp [h]
  · split <;> simp [h]

end

end

end Sys2Proof.Machine
end

section
/-!
PROOFS. What every step keeps, third part: what a command answers, through the issue of an instruction, a command of the host and a host frame.
-/

namespace Sys2Proof.Machine

section

variable {k : List Instr × List Host.Cell}

/-- What a command answers leaves the queue and the form of the cells; a fault and a refusal leave no state. -/
def Leaves (k : List Instr × List Host.Cell) : Out → Prop
  | .next u => Follows k u.kept
  | _ => True

@[simp] theorem leaves_next {u : State} : Leaves k (.next u) ↔ Follows k u.kept := .rfl
@[simp] theorem leaves_notNow (why : String) : Leaves k (notNow why) := trivial
@[simp] theorem leaves_refused (r : Refusal) : Leaves k (.refused r) := trivial
@[simp] theorem leaves_ite {c : Prop} [Decidable c] {x y : Out} : Leaves k (if c then x else y) ↔ (c → Leaves k x) ∧ (¬ c → Leaves k y) := by
  split <;> simp [*]

theorem leaves_unless {c : Prop} [Decidable c] {why : String} {x : Out} (h : ¬ c → Leaves k x) : Leaves k (if c then notNow why else x) := by
  split
  · exact leaves_notNow why
  · next hc => exact h hc

/-! Instructions: what the body of one did at issue. -/

/-- The same of what an instruction did at issue. -/
def Issued.leaves (k : List Instr × List Host.Cell) : Issued → Prop
  | .done u | .goto u _ | .raiseIn u _ _ => Follows k u.kept
  | .raise _ _ | .stall => True

@[simp] theorem Issued.leaves_done {u : State} : (Issued.done u).leaves k ↔ Follows k u.kept := .rfl
@[simp] theorem Issued.leaves_goto {u : State} (pc : Nat) : (Issued.goto u pc).leaves k ↔ Follows k u.kept := .rfl
@[simp] theorem Issued.leaves_raiseIn {u : State} (code detail : Nat) : (Issued.raiseIn u code detail).leaves k ↔ Follows k u.kept := .rfl
@[simp] theorem Issued.leaves_raise (code detail : Nat) : (Issued.raise code detail).leaves k := trivial
@[simp] theorem Issued.leaves_stall : Issued.stall.leaves k := trivial
@[simp] theorem Issued.leaves_ite {c : Prop} [Decidable c] {x y : Issued} :
    (if c then x else y).leaves k ↔ (c → x.leaves k) ∧ (¬ c → y.leaves k) := by
  split <;> simp [*]

/-- An instruction leaves what its body leaves, whichever way its issue ends. -/
theorem issue_leaves {c : Nat} {i : Instr} {body : Core → EntryRun → State → Issued} {s : State} (hbody : ∀ q e, (body q e s).leaves s.kept) :
    Leaves s.kept (issue c i body s) := by
  unfold issue
  extract_lets q
  cases q.entry with
  | none => exact leaves_notNow _
  | some e =>
    simp only [leaves_ite, leaves_notNow, implies_true, true_and, leaves_next, State.raiseExc_kept, Follows.refl]
    intro _ _
    cases q.word e.pc with
    | none => simp
    | some w =>
      have hdid := hbody q e
      generalize body q e s = did at hdid
      cases did with
      | done u | goto u pc | raiseIn u code detail => simpa using fun _ => hdid
      | raise code detail | stall => simp

@[simp] theorem issueReg_leaves (c : Nat) (i : Instr) (f : Core → Core) (s : State) : Leaves s.kept (issueReg c i f s) :=
  issue_leaves fun _ _ => by simp

@[simp] theorem laneOp_leaves (i : Instr) (c : Nat) (x : VecOp) (f : Bool → Val → Val → Val → LaneOut) (s : State) :
    Leaves s.kept (laneOp i c x f s) := issue_leaves fun _ _ => by simp
@[simp] theorem tapInto_leaves (i : Instr) (c : Nat) (x : TapOp) (f : Bool → Val → Val → LaneOut) (s : State) :
    Leaves s.kept (tapInto i c x f s) := issue_leaves fun q _ => by
  cases tapRow q x <;> simp

theorem goAfter_leaves (c : Nat) (s : State) (q : Core) (pc : Nat) : (goAfter c s q pc).leaves s.kept := by simp [goAfter]
theorem branchTo_leaves (s : State) (q : Core) (e : EntryRun) (off : BitVec 14) : (branchTo s q e off).leaves s.kept := by
  unfold branchTo
  split <;> simp

/-! Tensor stores: a conversion that succeeds leaves the form of the cells. -/

theorem State.storeItems_follows {s u : State} {c : Nat} {e : EntryRun} {p : Place} {d : Desc} {unit a b index : Nat} {items : List Item}
    (h : Follows k s.kept) (hu : s.storeItems c e p d unit a b index items = .ok u) : Follows k u.kept := by
  unfold State.storeItems at hu
  extract_lets rnd conv at hu
  cases hconv : conv with
  | error x => simp [hconv] at hu
  | ok w =>
    have hw : Follows k (w.writes.foldl (fun (st : State) (x : Nat × Bytes) => st.writePlace p x.1 x.2) s).kept :=
      foldl_follows (fun _ _ hs => State.writePlace_follows hs ..) _ h
    simp only [hconv] at hu
    obtain rfl := Except.ok.inj hu
    cases p <;> simp [h, hw]

theorem foldlM_ok {ε β : Type} {P : State → Prop} {f : State → β → Except ε State} (hf : ∀ s b u, P s → f s b = .ok u → P u) (l : List β)
    {s u : State} (h : P s) (hu : l.foldlM f s = .ok u) : P u := by
  induction l generalizing s with
  | nil =>
    obtain rfl := Except.ok.inj hu
    exact h
  | cons b l ih =>
    rw [List.foldlM_cons] at hu
    cases hb : f s b with
    | error x => simp [hb, bind, Except.bind] at hu
    | ok v => exact ih (hf s b v h hb) (by simpa [hb, bind, Except.bind] using hu)

theorem kernStore_follows {s u : State} {q : KernSide} {e : EntryRun} {j : Nat} {a : KernAcc} (h : Follows k s.kept)
    (hu : kernStore s q e j a = .ok u) : Follows k u.kept := by
  unfold kernStore at hu
  extract_lets rowsOut scal items auxItems sums evs cause s0 auxVals at hu
  have h0 : Follows k s0.kept := by simpa [s0] using h
  cases hs : s0.storeItems q.c e (.own q.c) q.od 1 0 0 e.issued items with
  | error x => simp [hs, bind, Except.bind] at hu
  | ok v =>
    simp only [hs, bind, Except.bind] at hu
    exact foldlM_ok (P := fun u => Follows k u.kept) (fun _ _ _ hp => State.storeItems_follows hp) _ (State.storeItems_follows h0 hs) hu

theorem kernBody_leaves (c : Nat) (x : KernOp) (s : State) : (kernBody c x s).leaves s.kept := by
  unfold kernBody
  extract_lets own
  split
  · simp
  · simp
  · next sides qs bad a fin _ _ _ =>
    have hfin : ∀ u, fin = .ok u → Follows s.kept u.kept := by
      intro u hu
      refine foldlM_ok (P := fun u => Follows s.kept u.kept) ?_ _ (by simp) hu
      intro v p w hv hw
      split at hw
      · next e _ =>
        cases hst : kernStore v p.1 e p.2 a with
        | error y => simp [hst, bind, Except.bind] at hw
        | ok st =>
          simp only [hst, bind, Except.bind] at hw
          obtain rfl := Except.ok.inj hw
          simp [kernStore_follows hv hst]
      · obtain rfl := Except.ok.inj hw
        exact hv
    generalize fin = fin at hfin
    cases fin with
    | error y => simp
    | ok u => simp [hfin]

theorem ldBody_leaves (c : Nat) (x : LoadOp) (q : Core) (e : EntryRun) (s : State) : (ldBody c x q e s).leaves s.kept := by
  unfold ldBody
  extract_lets td ts dd ds rd rs
  simp only [Issued.leaves_ite, Issued.leaves_stall, Issued.leaves_raise, implies_true, true_and]
  intro _ _
  split
  · simp
  · simp
  · simp
  · simp only [Issued.leaves_ite, Issued.leaves_stall, implies_true, true_and]
    intro _
    split
    · simp
    · simp
    · simp only [Issued.leaves_ite]
      refine ⟨fun _ => ?_, fun _ => ?_⟩
      · simp
        exact foldl_follows (fun _ _ hs => copyElem_follows hs ..) _ (by simp)
      · split
        · simp
        · next hu => simp [State.storeItems_follows (k := s.kept) (by simp) hu]

theorem ldaddBody_leaves (c : Nat) (x : LoadOp) (q : Core) (e : EntryRun) (s : State) : (ldaddBody c x q e s).leaves s.kept := by
  unfold ldaddBody
  extract_lets td ts dd ds rd rs
  simp only [Issued.leaves_ite, Issued.leaves_stall, Issued.leaves_raise, implies_true, true_and]
  intro _ _ _ _
  split
  · simp
  · simp
  · simp
  · simp only [Issued.leaves_ite, Issued.leaves_stall, implies_true, true_and]
    intro _
    split <;> simp

theorem mmBody_leaves (c : Nat) (x : MatOp) (q : Core) (e : EntryRun) (s : State) : (mmBody c x q e s).leaves s.kept := by
  unfold mmBody
  extract_lets sh
  simp only [Issued.leaves_ite, Issued.leaves_stall, implies_true, true_and]
  intro _
  split
  · simp
  · clear_value *
    split <;> simp

/-! The near-memory engines. -/

theorem SegAcc.elem_follows (env : JobEnv) (runs : List LayerRun) (mode m : Nat) (acc : SegAcc) (x : Nat × Val) (h : Follows k acc.st.kept) :
    Follows k (SegAcc.elem env runs mode m acc x).st.kept := by
  unfold SegAcc.elem
  extract_lets i s emu n
  split
  · exact h
  · next draw put _ q _ =>
    extract_lets inp out wp mp vp s1 s2 mask mc fac rn r c t s3 sumMask acc1 w0 follow acc2
    have hput {st : State} (hs : Follows k st.kept) (p : Option (PlaneOut × Nat)) (plane : Nat) : Follows k (put st p plane).kept := by
      cases p <;> simp [put, hs]
    have h1 : Follows k s1.kept := hput (hput (hput h ..) ..) ..
    have h2 : Follows k s2.kept := by
      unfold s2
      clear_value vp
      split <;> simp [h1]
    have hfac {st : State × Nat × Charge} (hs : Follows k st.1.kept) (v : Option OVal) (f : Nat) : Follows k (fac st v f).1.kept := by
      cases v <;> simp [fac, hs]
    have ht : Follows k t.1.kept := hfac (hfac h2 ..) ..
    have h3 : Follows k s3.kept := by simp [s3, ht]
    have hacc2 : Follows k acc2.st.kept := by
      unfold acc2
      clear_value wp
      split <;> exact h3
    split
    · simp [h3]
    · exact hacc2

@[simp] theorem State.runSegment_follows {s : State} (h : Follows k s.kept) (env : JobEnv) (m : Nat) (grads : List (Nat × Val)) :
    Follows k (s.runSegment env m grads).1.kept := by
  unfold State.runSegment
  extract_lets w0 acc0 acc s1 wd atoms s2
  have hacc : Follows k acc.st.kept := by
    have hstart : Follows k acc0.st.kept := h
    exact List.foldlRecOn (motive := fun a : SegAcc => Follows k a.st.kept) grads _ hstart fun _ ha _ _ => SegAcc.elem_follows _ _ _ _ _ _ ha
  simp [s2, s1, hacc]

/-! Commands of the host and frames. -/

/-- A command of the host leaves what its body leaves. -/
theorem hostCmd_leaves {op t : Nat} {p : Bytes} {body : State → State × Option Reply} {s : State} (hbody : Follows s.kept (body s).1.kept) :
    Leaves s.kept (hostCmd op t p body s) := by
  unfold hostCmd
  generalize body s = did at hbody
  obtain ⟨u, answer⟩ := did
  cases answer <;> simpa using fun _ _ => hbody

@[simp] theorem readCmd_leaves (op t : Nat) (p : Bytes) (f : State → Reply) (s : State) : Leaves s.kept (readCmd op t p f s) :=
  hostCmd_leaves (by simp)

@[simp] theorem checked_follows {checks : List (Bool × Reply)} {s : State} {run : State → State × Option Reply} (h : Follows k s.kept)
    (hrun : Follows k (run s).1.kept) : Follows k (checked checks s run).1.kept := by
  unfold checked
  split
  · exact h
  · exact hrun

theorem takeFrame_leaves {port typ : Nat} {frame : Bytes} {s : State} {f : Bytes → HostFrame → State → State}
    (hf : ∀ addr h, Follows s.kept (f addr h s).kept) : Leaves s.kept (takeFrame port typ frame s f) := by
  unfold takeFrame
  simp only [leaves_ite, leaves_notNow, leaves_next, implies_true, true_and, Follows.refl]
  intro _ _
  split
  · simp
  · simp [hf]

@[simp] theorem regionAlloc_follows (expert : Bool) (t : Nat) (p : Bytes) (s : State) : Follows s.kept (regionAlloc expert t p s).1.kept :=
  checked_follows (Follows.refl _) (State.addRegion_follows (Follows.refl _) ..)

end

end Sys2Proof.Machine
end

section
/-!
PROOFS. What every step keeps, last part: each command, and the statements about the queue and the form of memory.
-/

namespace Sys2Proof.Machine

/-! Machine/Load -/

@[simp] theorem execLd_follows (c : Nat) (x : LoadOp) (s : State) : Leaves s.kept (execLd c x s) := issue_leaves fun _ _ => ldBody_leaves ..
@[simp] theorem execLdadd_follows (c : Nat) (x : LoadOp) (s : State) : Leaves s.kept (execLdadd c x s) := issue_leaves fun _ _ => ldaddBody_leaves ..

@[simp] theorem execLdzero_follows (c : Nat) (x : ZeroOp) (s : State) : Leaves s.kept (execLdzero c x s) := issue_leaves fun q e => by
  simp only [Issued.leaves_ite, Issued.leaves_stall, implies_true, true_and]
  intro _
  split
  · simp
  · simp
  · next pd key _ _ =>
    have h1 : Follows s.kept (((elems 0 (Desc.parse (q.desc x.dst.toNat)).count).flatMap
        ((Desc.parse (q.desc x.dst.toNat)).move (q.a x.dstRow).toNat).spans).foldl
          (fun (u : State) (sp : Nat × Nat) => u.writePlace pd sp.1 (zeros sp.2)) s).kept :=
      foldl_follows (fun _ _ hu => State.writePlace_follows hu ..) _ (Follows.refl _)
    cases pd <;> simpa using h1

@[simp] theorem execLoadTransferComplete_follows (c : Nat) (s : State) : Leaves s.kept (execLoadTransferComplete c s) := by
  unfold execLoadTransferComplete
  extract_lets q
  clear_value q
  (repeat' split) <;> simp

@[simp] theorem execDset_follows (c : Nat) (desc : BitVec 6) (fld : BitVec 4) (src : BitVec 5) (s : State) :
    Leaves s.kept (execDset c desc fld src s) := issue_leaves fun _ _ => by simp
@[simp] theorem execDrst_follows (c : Nat) (desc : BitVec 6) (s : State) : Leaves s.kept (execDrst c desc s) := issue_leaves fun _ _ => by simp

/-! Machine/Entries -/

@[simp] theorem execCoreSegment_follows (idx at' : Nat) (s0 : State) : Leaves s0.kept (execCoreSegment idx at' s0) := by
  unfold execCoreSegment
  extract_lets s
  have hs : s.kept = s0.kept := by simp [s]
  clear_value s
  split
  · simp
  · simp only [leaves_ite, leaves_notNow, leaves_next, implies_true, true_and]
    refine fun _ => ⟨fun _ => by simp [hs], fun _ => ⟨fun _ => by simp [hs], fun _ => ?_⟩⟩
    (repeat' split) <;> simp [hs]

@[simp] theorem execEvaluationSlot_follows (idx core at' : Nat) (s0 : State) : Leaves s0.kept (execEvaluationSlot idx core at' s0) := by
  unfold execEvaluationSlot
  extract_lets s
  have hs : s.kept = s0.kept := by simp [s]
  clear_value s
  (repeat' split) <;> simp [hs]

@[simp] theorem execEntryEnd_follows (core at' : Nat) (s0 : State) : Leaves s0.kept (execEntryEnd core at' s0) := by
  unfold execEntryEnd
  simp only
  split <;> simp

/-! Machine/NearMemory -/

@[simp] theorem execOptimizerJobPhase_follows (idx mdie at' : Nat) (s0 : State) : Leaves s0.kept (execOptimizerJobPhase idx mdie at' s0) := by
  unfold execOptimizerJobPhase
  extract_lets s
  have hs : s.kept = s0.kept := by simp [s]
  clear_value s
  (repeat' split) <;> simp [hs]

@[simp] theorem execMirrorJobPhase_follows (idx mdie at' : Nat) (s0 : State) : Leaves s0.kept (execMirrorJobPhase idx mdie at' s0) := by
  unfold execMirrorJobPhase
  extract_lets s
  have hs : s.kept = s0.kept := by simp [s]
  clear_value s
  (repeat' split) <;> simp [hs]

@[simp] theorem execSegmentBegin_follows (idx mdie seg : Nat) (stream : Bytes) (s : State) :
    Leaves s.kept (execSegmentBegin idx mdie seg stream s) := by
  unfold execSegmentBegin
  split
  · simp
  · next r _ =>
    split
    · next j _ _ =>
      extract_lets base env is
      refine leaves_unless fun _ => leaves_unless fun _ => leaves_unless fun _ => ?_
      split
      · simp
      · next hurt gs _ s1 x s2 d s3 _ _ _ _ _ =>
        have h1 : Follows s.kept s1.kept := by simp [s1]
        have h2 : Follows s.kept s2.kept := by simp [s2, x, h1]
        have h3 : Follows s.kept s3.kept := by simp [s3, h2]
        clear_value s3
        simp [h3]
    · simp

@[simp] theorem execJobPhaseEnd_follows (idx mdie at' : Nat) (s0 : State) : Leaves s0.kept (execJobPhaseEnd idx mdie at' s0) := by
  unfold execJobPhaseEnd
  extract_lets s
  have hs : s.kept = s0.kept := by simp [s]
  clear_value s
  split
  · simp
  · split
    · simp
    · next r _ _ j _ =>
      refine leaves_unless fun _ => ?_
      extract_lets base env s1 d written s2 s3 allDone
      have h1 : Follows s0.kept s1.kept := by simp [s1, hs]
      have h2 : Follows s0.kept s2.kept := by simp [s2, h1]
      have h3 : Follows s0.kept s3.kept := by simp [s3, h2]
      clear_value s3 allDone
      simp [h3]

@[simp] theorem execGradientDelivery_follows (d : Delivery) (s : State) : Leaves s.kept (execGradientDelivery d s) := by
  unfold execGradientDelivery
  (repeat' split) <;> simp

@[simp] theorem execDeliveryRelease_follows (mdie pair seg : Nat) (s : State) : Leaves s.kept (execDeliveryRelease mdie pair seg s) := by
  unfold execDeliveryRelease
  split <;> simp

@[simp] theorem execWcRebuildDone_follows (mdie pair : Nat) (s : State) : Leaves s.kept (execWcRebuildDone mdie pair s) := by
  unfold execWcRebuildDone
  extract_lets d
  split
  · split <;> simp
  · simp

@[simp] theorem execMirrorRefresh_follows (pair version : Nat) (planes : Bytes) (fold : Word) (s : State) :
    Leaves s.kept (execMirrorRefresh pair version planes fold s) := by
  unfold execMirrorRefresh
  split <;> simp

@[simp] theorem execAddOnWriteDrain_follows (s : State) : Leaves s.kept (execAddOnWriteDrain s) := by
  unfold execAddOnWriteDrain
  split <;> simp

/-! Machine/Recovery -/

@[simp] theorem execDieSwapDone_follows (s : State) : Leaves s.kept (execDieSwapDone s) := by
  unfold execDieSwapDone
  split <;> simp

@[simp] theorem execEdcRetry_follows (mdie : Nat) (write : Bool) (fails : Nat) (ok : Bool) (ma : Nat) (s : State) :
    Leaves s.kept (execEdcRetry mdie write fails ok ma s) := by
  unfold execEdcRetry
  extract_lets s1 s2 s3 m
  have h2 : s2.kept = s.kept := by simp [s2, s1]
  have h3 : (s3.pending, m.cells) = s.kept := (State.mdie_kept ..).trans h2
  clear_value s2 s3 m
  simp [h2, h3]

@[simp] theorem execScrubAtom_follows (mdie : Nat) (errs : List (Nat × BitVec 4)) (s : State) : Leaves s.kept (execScrubAtom mdie errs s) := by
  unfold execScrubAtom
  refine leaves_unless fun _ => ?_
  extract_lets d next ma s1 ds cs badWord s2 syn t m s3 own t2
  have h1 : s1.kept = s.kept := by simp [s1]
  have h2 : s2.kept = s.kept := by simp [s2, h1]
  have ht : (t.pending, m.cells) = s.kept := (State.log_kept ..).trans ((State.mdie_kept ..).trans h2)
  have h3 : s3.kept = s.kept := by simp [s3, h2, ht]
  have h4 : t2.kept = s.kept := (State.mdie_kept ..).trans h3
  clear_value s3 t2
  simp [h3, h4]

/-! Machine/Aborts -/

@[simp] theorem execEntryAborted_follows (core at' : Nat) (s0 : State) : Leaves s0.kept (execEntryAborted core at' s0) := by
  unfold execEntryAborted
  extract_lets s
  have hs : s.kept = s0.kept := by simp [s]
  clear_value s
  split
  · simp
  · next e _ =>
    simp only [leaves_ite, leaves_notNow, implies_true, true_and]
    intro _
    split <;> simp [hs]

/-! Machine/Branch -/

@[simp] theorem execLoopStart_follows (c : Nat) (x : LoopOp) (s : State) :
    Leaves s.kept (execLoopStart c x s) := issue_leaves fun _ _ => by simp [goAfter_leaves]

@[simp] theorem execBreakLoop_follows (c : Nat) (s : State) : Leaves s.kept (execBreakLoop c s) := issue_leaves fun _ _ => by
  split <;> simp [goAfter_leaves]

@[simp] theorem execBr_follows (c : Nat) (x : BranchOp) (s : State) :
    Leaves s.kept (execBr c x s) := issue_leaves fun _ _ => by simp [branchTo_leaves]

@[simp] theorem execJmp_follows (c : Nat) (off : BitVec 14) (s : State) :
    Leaves s.kept (execJmp c off s) := issue_leaves fun _ _ => branchTo_leaves ..

@[simp] theorem execCallSub_follows (c : Nat) (target : BitVec 13) (s : State) :
    Leaves s.kept (execCallSub c target s) := issue_leaves fun _ _ => by simp

@[simp] theorem execRetSub_follows (c : Nat) (s : State) : Leaves s.kept (execRetSub c s) := issue_leaves fun _ _ => by
  split <;> simp [goAfter_leaves]

@[simp] theorem execLidx_follows (c : Nat) (d : BitVec 5) (level : BitVec 2) (s : State) :
    Leaves s.kept (execLidx c d level s) := issue_leaves fun _ _ => by
  split <;> simp

/-! Machine/TickUnit -/

@[simp] theorem execMarkerMissing_follows (s : State) : Leaves s.kept (execMarkerMissing s) := by
  unfold execMarkerMissing
  simp only [leaves_ite, leaves_notNow, leaves_next, implies_true, true_and]
  refine fun _ => ⟨fun _ => by simp, fun _ => ?_⟩
  split <;> simp

/-! Machine/Checkpoint -/

@[simp] theorem execCheckpointChunk_follows (idx mdie at' : Nat) (s0 : State) : Leaves s0.kept (execCheckpointChunk idx mdie at' s0) := by
  unfold execCheckpointChunk
  extract_lets s
  have hs : s.kept = s0.kept := by simp [s]
  clear_value s
  split
  · simp
  · split
    · simp
    · simp only [leaves_ite, leaves_notNow, implies_true, true_and]
      intro _
      split <;> simp [hs]

@[simp] theorem execGuardUnitRead_follows (mdie pair : Nat) (s : State) : Leaves s.kept (execGuardUnitRead mdie pair s) := by
  unfold execGuardUnitRead
  split
  · simp
  · extract_lets _
    split
    · simp
    · extract_lets first stalls g
      split
      · simp
      · extract_lets forced n room allow s1
        have h1 : s1.kept = s.kept := by simp [s1]
        simp only [leaves_ite, leaves_notNow, leaves_next, implies_true, true_and]
        refine fun _ => ⟨fun _ => by simp, fun _ => ?_⟩
        split <;> simp [h1]

@[simp] theorem execReadbackChunk_follows (stream : Nat) (data : Bytes) (s : State) : Leaves s.kept (execReadbackChunk stream data s) := by
  unfold execReadbackChunk
  split
  · simp
  · extract_lets c s1
    have h1 : s1.kept = s.kept := by simp [s1]
    clear_value s1
    (repeat' split) <;> simp [h1]

@[simp] theorem execReadbackTimeout_follows (s : State) : Leaves s.kept (execReadbackTimeout s) := by
  unfold execReadbackTimeout
  split <;> simp

/-! Machine/ClauseCtl -/

@[simp] theorem execEndEntry_follows (c : Nat) (s : State) : Leaves s.kept (execEndEntry c s) := issue_leaves fun _ _ => by simp
@[simp] theorem execClauseFence_follows (c : Nat) (s : State) : Leaves s.kept (execClauseFence c s) := issue_leaves fun _ _ => by simp

@[simp] theorem execInfo_follows (c : Nat) (d : BitVec 5) (sel : BitVec 4) (s : State) :
    Leaves s.kept (execInfo c d sel s) := issue_leaves fun _ _ => by simp
@[simp] theorem execOvl_follows (c : Nat) (x : OvlOp) (s : State) : Leaves s.kept (execOvl c x s) := issue_leaves fun _ _ => by simp
@[simp] theorem execStatRd_follows (c : Nat) (d : BitVec 5) (s : State) : Leaves s.kept (execStatRd c d s) := issue_leaves fun _ _ => by simp
@[simp] theorem execStatClr_follows (c : Nat) (mask : BitVec 8) (s : State) : Leaves s.kept (execStatClr c mask s) := issue_leaves fun _ _ => by simp
@[simp] theorem execStatCap_follows (c : Nat) (v : BitVec 7) (s : State) : Leaves s.kept (execStatCap c v s) := issue_leaves fun _ _ => by simp

@[simp] theorem execFeRd_follows (c : Nat) (d : BitVec 5) (w : BitVec 3) (s : State) :
    Leaves s.kept (execFeRd c d w s) := issue_leaves fun _ _ => by simp

@[simp] theorem execMark_follows (c : Nat) (v : BitVec 5) (code : BitVec 16) (s : State) :
    Leaves s.kept (execMark c v code s) := issue_leaves fun _ _ => by simp
@[simp] theorem execRaise_follows (c : Nat) (code : BitVec 16) (s : State) : Leaves s.kept (execRaise c code s) := issue_leaves fun _ _ => by simp

/-! Machine/Collectives -/

@[simp] theorem execCollective_follows (idx at' : Nat) (s0 : State) : Leaves s0.kept (execCollective idx at' s0) := by
  unfold execCollective
  extract_lets s
  have hs : s.kept = s0.kept := by simp [s]
  clear_value s
  split
  · simp
  · split
    · simp
    · simp [hs]

@[simp] theorem execContributorRead_follows (idx contributor : Nat) (s : State) : Leaves s.kept (execContributorRead idx contributor s) := by
  unfold execContributorRead
  split
  · simp
  · extract_lets d p
    split <;> simp

@[simp] theorem execCollectiveDone_follows (idx : Nat) (stats : List Bytes) (at' : Nat) (s0 : State) :
    Leaves s0.kept (execCollectiveDone idx stats at' s0) := by
  unfold execCollectiveDone
  extract_lets s
  have hs : s.kept = s0.kept := by simp [s]
  clear_value s
  split
  · simp
  · next key r _ =>
    extract_lets a p js
    refine leaves_unless fun _ => ?_
    split
    · next s1 m _ _ _ out e _ _ =>
      extract_lets s2 s3
      have h1 : Follows s0.kept s1.kept := by simp [s1, hs]
      have hm : Follows s0.kept (s1.pending, m.cells) := h1
      have h2 : Follows s0.kept s2.kept := by simp [s2, h1, hm]
      simp [s3, h2]
    · simp

/-! Machine/MatrixOps -/

@[simp] theorem execMm_follows (c : Nat) (x : MatOp) (s : State) : Leaves s.kept (execMm c x s) := issue_leaves fun _ _ => mmBody_leaves ..

@[simp] theorem execMatrixOutputConversion_follows (c : Nat) (s : State) : Leaves s.kept (execMatrixOutputConversion c s) := by
  unfold execMatrixOutputConversion
  extract_lets q
  split
  · refine leaves_unless fun _ => ?_
    extract_lets d items s1
    have h1 : Follows s.kept s1.kept := by simp [s1]
    split
    · simp [h1]
    · next hu => simpa using State.storeItems_follows h1 hu
  · simp

@[simp] theorem execMatrixInstructionComplete_follows (c : Nat) (s : State) : Leaves s.kept (execMatrixInstructionComplete c s) := by
  unfold execMatrixInstructionComplete
  simp only
  split <;> simp

/-! Machine/Vector -/

@[simp] theorem execVsel_follows (c : Nat) (x : VecOp) (s : State) : Leaves s.kept (execVsel c x s) := issue_leaves fun _ _ => by simp
@[simp] theorem execVbcast_follows (c : Nat) (x : VecOp) (s : State) : Leaves s.kept (execVbcast c x s) := issue_leaves fun _ _ => by simp
@[simp] theorem execVu2f_follows (c : Nat) (x : VecOp) (s : State) : Leaves s.kept (execVu2f c x s) := issue_leaves fun _ _ => by simp
@[simp] theorem execVrand_follows (c : Nat) (x : RandOp) (s : State) : Leaves s.kept (execVrand c x s) := issue_leaves fun _ _ => by simp

@[simp] theorem execVld_follows (c : Nat) (x : VMemOp) (s : State) : Leaves s.kept (execVld c x s) := issue_leaves fun _ _ => by
  simp only [Issued.leaves_ite, Issued.leaves_stall, Issued.leaves_raise, implies_true, true_and]
  intro _ _
  split <;> simp

@[simp] theorem execVst_follows (c : Nat) (x : VMemOp) (s : State) : Leaves s.kept (execVst c x s) := issue_leaves fun _ _ => by
  simp only [Issued.leaves_ite, Issued.leaves_stall, Issued.leaves_raise, implies_true, true_and]
  intro _ _
  split
  · simp
  · next hu => simpa using State.storeItems_follows (k := s.kept) (by simp) hu

@[simp] theorem execTapw_follows (c : Nat) (x : TapOp) (s : State) : Leaves s.kept (execTapw c x s) := issue_leaves fun _ _ => by
  (repeat' split) <;> simp

@[simp] theorem execVred_follows (c : Nat) (x : RedOp) (s : State) : Leaves s.kept (execVred c x s) := issue_leaves fun _ _ => by
  simp only [Issued.leaves_ite, Issued.leaves_stall, Issued.leaves_raise, implies_true, true_and]
  intro _ _
  split <;> simp

/-! Machine/Kernels -/

@[simp] theorem execVkern_follows (c : Nat) (x : KernOp) (s : State) : Leaves s.kept (execVkern c x s) := issue_leaves fun _ _ => kernBody_leaves ..

/-! Machine/ResetEvents -/

@[simp] theorem execResetStage_follows (found : List StageFinding) (at' : Nat) (s0 : State) : Leaves s0.kept (execResetStage found at' s0) := by
  unfold execResetStage
  split
  · simp
  · extract_lets s sup s1 q s2
    have hs : s.kept = s0.kept := by simp [s]
    have h1 : s1.kept = s0.kept := by simp [s1, hs]
    have h2 : Follows s0.kept s2.kept := by simp [s2, h1]
    clear_value s1 s2
    refine leaves_unless fun _ => leaves_unless fun _ => leaves_unless fun _ => ?_
    simp only [leaves_ite, leaves_notNow, leaves_next, implies_true, true_and]
    refine ⟨fun _ _ => by simp [hs], fun _ _ => ⟨fun _ => by simp [h1], fun _ => ?_⟩⟩
    split <;> simp [h2]

@[simp] theorem execResetStageFailed_follows (die : Nat) (s : State) : Leaves s.kept (execResetStageFailed die s) := by
  unfold execResetStageFailed
  split <;> simp

@[simp] theorem execResetNLong_follows (s : State) : Leaves s.kept (execResetNLong s) := by
  unfold execResetNLong
  split <;> simp

@[simp] theorem execResetResponseTimeout_follows (s : State) : Leaves s.kept (execResetResponseTimeout s) := by
  unfold execResetResponseTimeout
  split <;> simp

@[simp] theorem execAckMissed_follows (die : Nat) (err : BitVec 32) (s0 : State) : Leaves s0.kept (execAckMissed die err s0) := by
  unfold execAckMissed
  split <;> simp

@[simp] theorem execDieWatchdog_follows (die : Nat) (err : BitVec 32) (s : State) : Leaves s.kept (execDieWatchdog die err s) := by
  unfold execDieWatchdog
  split <;> simp

/-! Machine/Power -/

@[simp] theorem execStandbySupplyUp_follows (s : State) : Leaves s.kept (execStandbySupplyUp s) := by
  unfold execStandbySupplyUp
  simp only [leaves_ite, leaves_notNow, leaves_next, implies_true, true_and]
  intro _
  split <;> simp

@[simp] theorem execSafetyRequest_follows (s : State) : Leaves s.kept (execSafetyRequest s) := by
  unfold execSafetyRequest
  split <;> simp

@[simp] theorem execArchiveDone_follows (s : State) : Leaves s.kept (execArchiveDone s) := by
  unfold execArchiveDone
  split <;> simp

/-! Machine/HostFrames -/

@[simp] theorem execHello_follows (port : Nat) (frame : Bytes) (s : State) :
    Leaves s.kept (execHello port frame s) := takeFrame_leaves fun _ _ => by simp

@[simp] theorem execSessionOpen_follows (port : Nat) (frame : Bytes) (s : State) :
    Leaves s.kept (execSessionOpen port frame s) := takeFrame_leaves fun _ _ => by simp

@[simp] theorem execDataFrame_follows (port : Nat) (frame : Bytes) (s : State) :
    Leaves s.kept (execDataFrame port frame s) := takeFrame_leaves fun _ _ => by simp

@[simp] theorem execAckOnly_follows (port : Nat) (frame : Bytes) (s : State) :
    Leaves s.kept (execAckOnly port frame s) := takeFrame_leaves fun _ _ => by simp

@[simp] theorem execCloseFrame_follows (port : Nat) (frame : Bytes) (s : State) :
    Leaves s.kept (execCloseFrame port frame s) := takeFrame_leaves fun _ _ => by simp

@[simp] theorem execTransportRetransmit_follows (session at' : Nat) (s0 : State) : Leaves s0.kept (execTransportRetransmit session at' s0) := by
  unfold execTransportRetransmit
  extract_lets s
  have hs : s.kept = s0.kept := by simp [s]
  clear_value s
  split
  · simp
  · split <;> simp +zetaDelta [hs]

@[simp] theorem execSessionTimeout_follows (session at' : Nat) (s0 : State) : Leaves s0.kept (execSessionTimeout session at' s0) := by
  unfold execSessionTimeout
  simp only
  split <;> simp

@[simp] theorem execHostPortServiceFrame_follows (port : Nat) (frame : Bytes) (s : State) :
    Leaves s.kept (execHostPortServiceFrame port frame s) := by
  unfold execHostPortServiceFrame
  (repeat' split) <;> simp

@[simp] theorem execSubmissionTurn_follows (t : Nat) (s : State) : Leaves s.kept (execSubmissionTurn t s) := by
  unfold execSubmissionTurn
  refine leaves_unless fun _ => ?_
  split
  · simp
  · extract_lets s1 h s2
    have h2 : s2.kept = s.kept := by simp [s2, s1]
    clear_value s2
    simp only [leaves_ite, leaves_next]
    refine ⟨fun _ => by simp [h2], fun _ => ?_⟩
    (repeat' split) <;> simp [h2]

@[simp] theorem execUnlistedOpcode_follows (t : Nat) (s : State) : Leaves s.kept (execUnlistedOpcode t s) := by
  unfold execUnlistedOpcode
  split <;> simp

/-! Machine/Fabric -/

@[simp] theorem execSequencedFrame_follows (port : Nat) (f : FabricFrame) (s : State) : Leaves s.kept (execSequencedFrame port f s) := by
  unfold execSequencedFrame
  extract_lets x eth h d
  refine leaves_unless fun _ => ?_
  simp only [leaves_ite, leaves_next]
  refine ⟨fun _ => by simp, fun _ => ⟨fun _ => by simp, fun _ => ?_⟩⟩
  split <;> simp +zetaDelta

@[simp] theorem execE2eAck_follows (tag : Nat) (nak : Option Nat) (s : State) : Leaves s.kept (execE2eAck tag nak s) := by
  unfold execE2eAck
  refine leaves_unless fun _ => ?_
  extract_lets f s1 n slot
  have h1 : s1.kept = s.kept := by simp [s1]
  clear_value s1
  cases SMap.find? (s1.ndie n).slots slot with
  | none => simp [h1]
  | some o => cases nak <;> simp [h1]

@[simp] theorem execOperationResend_follows (ndie slot at' : Nat) (s0 : State) : Leaves s0.kept (execOperationResend ndie slot at' s0) := by
  unfold execOperationResend
  simp only
  split <;> simp

@[simp] theorem execTickCheck_follows (port at' : Nat) (payload : Bytes) (s : State) : Leaves s.kept (execTickCheck port at' payload s) := by
  unfold execTickCheck
  split
  · simp
  · extract_lets f s1 x off f1 beyond far n f2 s2 s3 bad y
    have h3 : s3.kept = s.kept := by simp [s3, s2, s1]
    clear_value s3
    simp [h3]

/-! Machine/Window -/

@[simp] theorem execComma_follows (s0 : State) : Leaves s0.kept (execComma s0) := by
  unfold execComma
  split
  · simp
  · refine leaves_unless fun _ => ?_
    extract_lets s c s1 r s2
    have h2 : s2.kept = s0.kept := by simp [s2, s1, s]
    clear_value s2
    simp [h2]

@[simp] theorem execPeriod_follows (s0 : State) : Leaves s0.kept (execPeriod s0) := by
  unfold execPeriod
  split
  · simp
  · refine leaves_unless fun _ => ?_
    extract_lets s
    have hs : s.kept = s0.kept := by simp [s]
    clear_value s
    simp only [leaves_ite, leaves_notNow, leaves_next, implies_true, true_and]
    refine ⟨fun _ => by simp [hs], fun _ _ => ?_⟩
    split <;> simp +zetaDelta [hs]

/-! Machine/Verdict -/

@[simp] theorem execNumericsExchange_follows (others : List Bytes) (s : State) : Leaves s.kept (execNumericsExchange others s) := by
  unfold execNumericsExchange
  split <;> simp

@[simp] theorem execVerdictEntryStart_follows (at' : Nat) (s0 : State) : Leaves s0.kept (execVerdictEntryStart at' s0) := by
  unfold execVerdictEntryStart
  extract_lets s
  have hs : s.kept = s0.kept := by simp [s]
  clear_value s
  split
  · simp
  · refine leaves_unless fun _ => ?_
    split
    · refine leaves_unless fun _ => ?_
      simp [hs]
    · simp [hs]

/-! Machine/Restore -/

@[simp] theorem execRestoreStreamChunk_follows (stream off : Nat) (data : Bytes) (s : State) :
    Leaves s.kept (execRestoreStreamChunk stream off data s) := by
  unfold execRestoreStreamChunk
  split
  · simp
  · extract_lets c s1
    have h1 : s1.kept = s.kept := by simp [s1]
    clear_value s1
    split
    · simp [h1]
    · extract_lets xs
      clear_value xs
      split <;> simp [h1]

/-! Machine/Takeovers -/

@[simp] theorem execEpochApplied_follows (slice : Nat) (s0 : State) : Leaves s0.kept (execEpochApplied slice s0) := by
  unfold execEpochApplied
  extract_lets x
  split
  · simp
  · next own t _ =>
    extract_lets s atPeriod s1 s2
    have hs : s.kept = s0.kept := by simp [s]
    have h2 : s2.kept = s0.kept := by simp [s2, s1, hs]
    clear_value s2
    refine leaves_unless fun _ => ?_
    split
    · split <;> simp [h2]
    · simp [h2]

@[simp] theorem execTakeoverReady_follows (ok : Bool) (runState : Bytes) (s : State) : Leaves s.kept (execTakeoverReady ok runState s) := by
  unfold execTakeoverReady
  split
  · simp
  · refine leaves_unless fun _ => ?_
    extract_lets p s1 a b s2 s3 rec
    have ha : Follows s.kept a.1.kept := State.placeShards_follows (by simp [s1]) ..
    have hb : Follows s.kept b.1.kept := State.placeShards_follows ha ..
    have h3 : Follows s.kept s3.kept := by simp [s3, s2, hb]
    clear_value s3
    simp [h3]

/-! Machine/CmdIdent -/

@[simp] theorem execConfigRecordLoad_follows (t : Nat) (p : Bytes) (s : State) :
    Leaves s.kept (execConfigRecordLoad t p s) := hostCmd_leaves (by simp)
@[simp] theorem execQuotaSet_follows (t : Nat) (p : Bytes) (s : State) : Leaves s.kept (execQuotaSet t p s) := hostCmd_leaves (by simp)

@[simp] theorem execSessionClose_follows (t : Nat) (p : Bytes) (s : State) : Leaves s.kept (execSessionClose t p s) := by
  unfold execSessionClose
  (repeat' split) <;> simp

/-! Machine/CmdRegion -/

@[simp] theorem execRegionAlloc_follows (t : Nat) (p : Bytes) (s : State) : Leaves s.kept (execRegionAlloc t p s) := hostCmd_leaves (by simp)

@[simp] theorem execRegionAllocExpert_follows (t : Nat) (p : Bytes) (s : State) :
    Leaves s.kept (execRegionAllocExpert t p s) := hostCmd_leaves (by simp)
@[simp] theorem execRegionFree_follows (t : Nat) (p : Bytes) (s : State) : Leaves s.kept (execRegionFree t p s) := hostCmd_leaves (by simp)

@[simp] theorem execRegionWrite_follows (t : Nat) (p : Bytes) (s : State) : Leaves s.kept (execRegionWrite t p s) := hostCmd_leaves (by
  extract_lets i bulk n off id
  split
  · simp
  · exact checked_follows (Follows.refl _) (by simp [bulk]))

@[simp] theorem execRegionRead_follows (t : Nat) (p : Bytes) (s : State) : Leaves s.kept (execRegionRead t p s) := hostCmd_leaves (by
  extract_lets i bulk off n
  split
  · simp
  · simp
  · simp)

/-! Machine/CmdProgram -/

@[simp] theorem execProgramLoad_follows (t : Nat) (p : Bytes) (s : State) : Leaves s.kept (execProgramLoad t p s) := hostCmd_leaves (by simp)

@[simp] theorem execProgramLoadExpert_follows (t : Nat) (p : Bytes) (s : State) :
    Leaves s.kept (execProgramLoadExpert t p s) := hostCmd_leaves (by simp)

@[simp] theorem execProgramVerify_follows (t : Nat) (p : Bytes) (s : State) :
    Leaves s.kept (execProgramVerify t p s) := hostCmd_leaves (.of_eq (checked_kept (by
  split
  · refine State.withSource_kept (fun b => ?_) ..
    split <;> rfl
  · extract_lets img
    clear_value img
    split <;> rfl) _))
@[simp] theorem execOptimizerSet_follows (t : Nat) (p : Bytes) (s : State) : Leaves s.kept (execOptimizerSet t p s) := hostCmd_leaves (by simp)

@[simp] theorem execOptimizerSetExpert_follows (t : Nat) (p : Bytes) (s : State) :
    Leaves s.kept (execOptimizerSetExpert t p s) := hostCmd_leaves (by simp)
@[simp] theorem execFrameSet_follows (t : Nat) (p : Bytes) (s : State) : Leaves s.kept (execFrameSet t p s) := hostCmd_leaves (by simp)
@[simp] theorem execFrameSetExpert_follows (t : Nat) (p : Bytes) (s : State) : Leaves s.kept (execFrameSetExpert t p s) := hostCmd_leaves (by simp)

@[simp] theorem execScheduleLoad_follows (t : Nat) (p : Bytes) (s : State) :
    Leaves s.kept (execScheduleLoad t p s) := hostCmd_leaves (.of_eq (checked_kept (State.withSource_kept (fun b => by
  extract_lets tb r
  split
  · rfl
  · split
    · simp
    · split <;> simp [r]) ..) _))

/-! Machine/CmdSlice -/

@[simp] theorem execSliceJoin_follows (t : Nat) (p : Bytes) (s : State) :
    Leaves s.kept (execSliceJoin t p s) := hostCmd_leaves (.of_eq (checked_kept (by
  split <;> simp) _))

@[simp] theorem execSliceLeave_follows (t : Nat) (p : Bytes) (s : State) :
    Leaves s.kept (execSliceLeave t p s) := hostCmd_leaves (.of_eq (State.leaveSlice_kept s))

@[simp] theorem execRouteTableLoad_follows (t : Nat) (p : Bytes) (s : State) :
    Leaves s.kept (execRouteTableLoad t p s) := hostCmd_leaves (.of_eq (checked_kept (State.withSource_kept (fun b => by
  extract_lets tb x soon
  split
  · rfl
  · split
    · rfl
    · simp) ..) _))

@[simp] theorem execAxisSet_follows (t : Nat) (p : Bytes) (s : State) :
    Leaves s.kept (execAxisSet t p s) := hostCmd_leaves (.of_eq (checked_kept (State.withSource_kept (fun b => by
  split
  · rfl
  · simp only
    split
    · rfl
    · split
      · simp
      · split <;> simp) ..) _))
@[simp] theorem execCablingCheck_follows (t : Nat) (p : Bytes) (s : State) : Leaves s.kept (execCablingCheck t p s) := hostCmd_leaves (by simp)

@[simp] theorem execCablingCheckExpert_follows (t : Nat) (p : Bytes) (s : State) :
    Leaves s.kept (execCablingCheckExpert t p s) := hostCmd_leaves (by simp)

/-! Machine/CmdRun -/

@[simp] theorem execStepFeed_follows (t : Nat) (p : Bytes) (s : State) : Leaves s.kept (execStepFeed t p s) := hostCmd_leaves (by simp)

@[simp] theorem execRunArm_follows (t : Nat) (p : Bytes) (s : State) : Leaves s.kept (execRunArm t p s) := hostCmd_leaves (by
  extract_lets id used v0 stag
  clear_value v0 stag
  split
  · simp
  · refine checked_follows (Follows.refl _) ?_
    split
    · simp
    · refine checked_follows (Follows.refl _) ?_
      split <;> simp)

@[simp] theorem execRunStart_follows (t : Nat) (p : Bytes) (s : State) : Leaves s.kept (execRunStart t p s) := by
  unfold execRunStart
  extract_lets epoch last due
  split
  · refine leaves_unless fun _ => ?_
    have hgo := State.goStart_kept s epoch last
    generalize s.goStart epoch last = did at hgo
    obtain ⟨u, answer⟩ := did
    cases answer <;> simp [hgo]
  · exact hostCmd_leaves (by simp)

@[simp] theorem execMirrorUnpaired_follows (s0 : State) : Leaves s0.kept (execMirrorUnpaired s0) := by
  unfold execMirrorUnpaired
  split <;> simp

@[simp] theorem execRunHold_follows (t : Nat) (p : Bytes) (s : State) : Leaves s.kept (execRunHold t p s) := hostCmd_leaves (by simp)
@[simp] theorem execSealPolicySet_follows (t : Nat) (p : Bytes) (s : State) : Leaves s.kept (execSealPolicySet t p s) := hostCmd_leaves (by simp)
@[simp] theorem execReplay_follows (t : Nat) (p : Bytes) (s : State) : Leaves s.kept (execReplay t p s) := hostCmd_leaves (by simp)
@[simp] theorem execStepStatus_follows (t : Nat) (p : Bytes) (s : State) : Leaves s.kept (execStepStatus t p s) := hostCmd_leaves (by simp)

/-! Machine/CmdNumerics -/

@[simp] theorem execNumericsPolicySet_follows (t : Nat) (p : Bytes) (s : State) :
    Leaves s.kept (execNumericsPolicySet t p s) := hostCmd_leaves (by simp)

@[simp] theorem execNumericsPolicySetExpert_follows (t : Nat) (p : Bytes) (s : State) :
    Leaves s.kept (execNumericsPolicySetExpert t p s) := hostCmd_leaves (by simp)
@[simp] theorem execLayerWatchSet_follows (t : Nat) (p : Bytes) (s : State) : Leaves s.kept (execLayerWatchSet t p s) := hostCmd_leaves (by simp)

@[simp] theorem execEmulationModeSet_follows (t : Nat) (p : Bytes) (s : State) :
    Leaves s.kept (execEmulationModeSet t p s) := hostCmd_leaves (by simp)

/-! Machine/CmdRecov -/

@[simp] theorem execMirrorPairSet_follows (t : Nat) (p : Bytes) (s : State) : Leaves s.kept (execMirrorPairSet t p s) := hostCmd_leaves (by simp)
@[simp] theorem execSpareEnrol_follows (t : Nat) (p : Bytes) (s : State) : Leaves s.kept (execSpareEnrol t p s) := hostCmd_leaves (by simp)
@[simp] theorem execTakeover_follows (t : Nat) (p : Bytes) (s : State) : Leaves s.kept (execTakeover t p s) := hostCmd_leaves (by simp)
@[simp] theorem execFence_follows (t : Nat) (p : Bytes) (s : State) : Leaves s.kept (execFence t p s) := hostCmd_leaves (by simp)
@[simp] theorem execFenceExpert_follows (t : Nat) (p : Bytes) (s : State) : Leaves s.kept (execFenceExpert t p s) := hostCmd_leaves (by simp)
@[simp] theorem execDieSwap_follows (t : Nat) (p : Bytes) (s : State) : Leaves s.kept (execDieSwap t p s) := hostCmd_leaves (by simp)
@[simp] theorem execProbationSet_follows (t : Nat) (p : Bytes) (s : State) : Leaves s.kept (execProbationSet t p s) := hostCmd_leaves (by simp)

/-! Machine/CmdCkpt -/

@[simp] theorem execCheckpointPolicySet_follows (t : Nat) (p : Bytes) (s : State) :
    Leaves s.kept (execCheckpointPolicySet t p s) := hostCmd_leaves (by simp)

@[simp] theorem execCheckpointPolicySetExpert_follows (t : Nat) (p : Bytes) (s : State) :
    Leaves s.kept (execCheckpointPolicySetExpert t p s) := hostCmd_leaves (by simp)
@[simp] theorem execCheckpointNow_follows (t : Nat) (p : Bytes) (s : State) : Leaves s.kept (execCheckpointNow t p s) := hostCmd_leaves (by simp)

@[simp] theorem execRestore_follows (t : Nat) (p : Bytes) (s : State) :
    Leaves s.kept (execRestore t p s) :=
  hostCmd_leaves (.of_eq (checked_kept (State.withSource_kept (fun m => checked_kept (State.withSource_kept (fun cert => by
  split <;> simp) ..) _) ..) _))

/-! Machine/CmdObserve -/

@[simp] theorem execTelemetryRead_follows (t : Nat) (p : Bytes) (s : State) : Leaves s.kept (execTelemetryRead t p s) := hostCmd_leaves (by simp)
@[simp] theorem execTelemetryStream_follows (t : Nat) (p : Bytes) (s : State) : Leaves s.kept (execTelemetryStream t p s) := hostCmd_leaves (by simp)

@[simp] theorem execTelemetryStreamInterval_follows (session stream at' : Nat) (s0 : State) :
    Leaves s0.kept (execTelemetryStreamInterval session stream at' s0) := by
  unfold execTelemetryStreamInterval
  simp only
  split <;> simp

/-! Machine/CmdService -/

@[simp] theorem execReset_follows (t : Nat) (p : Bytes) (s : State) : Leaves s.kept (execReset t p s) := hostCmd_leaves (by simp)
@[simp] theorem execServiceStateSet_follows (t : Nat) (p : Bytes) (s : State) : Leaves s.kept (execServiceStateSet t p s) := hostCmd_leaves (by simp)
@[simp] theorem execPowerCapSet_follows (t : Nat) (p : Bytes) (s : State) : Leaves s.kept (execPowerCapSet t p s) := hostCmd_leaves (by simp)
@[simp] theorem execRampPolicySet_follows (t : Nat) (p : Bytes) (s : State) : Leaves s.kept (execRampPolicySet t p s) := hostCmd_leaves (by simp)

@[simp] theorem execRampPolicySetExpert_follows (t : Nat) (p : Bytes) (s : State) :
    Leaves s.kept (execRampPolicySetExpert t p s) := hostCmd_leaves (by simp)
@[simp] theorem execPowerStatus_follows (t : Nat) (p : Bytes) (s : State) : Leaves s.kept (execPowerStatus t p s) := hostCmd_leaves (by simp)
@[simp] theorem execCoreHaltInspect_follows (t : Nat) (p : Bytes) (s : State) : Leaves s.kept (execCoreHaltInspect t p s) := hostCmd_leaves (by simp)

@[simp] theorem execCoreHaltInspectExpert_follows (t : Nat) (p : Bytes) (s : State) :
    Leaves s.kept (execCoreHaltInspectExpert t p s) := hostCmd_leaves (by simp)

/-! Machine/CmdEval -/

@[simp] theorem execEvalSubmit_follows (t : Nat) (p : Bytes) (s : State) : Leaves s.kept (execEvalSubmit t p s) := hostCmd_leaves (by simp)
@[simp] theorem execEvalResultRead_follows (t : Nat) (p : Bytes) (s : State) : Leaves s.kept (execEvalResultRead t p s) := hostCmd_leaves (by simp)

/-! Machine/SyncOps -/

@[simp] theorem execSig_follows (c : Nat) (x : SigOp) (s : State) : Leaves s.kept (execSig c x s) := issue_leaves fun _ _ => by
  simp only [Issued.leaves_ite, Issued.leaves_stall, implies_true, true_and]
  intro _
  split <;> simp

@[simp] theorem execSignalApplied_follows (c : Nat) (s : State) : Leaves s.kept (execSignalApplied c s) := by
  unfold execSignalApplied
  simp only
  split <;> simp

@[simp] theorem execRemoteSignal_follows (s : State) : Leaves s.kept (execRemoteSignal s) := by
  unfold execRemoteSignal
  split
  · simp
  · extract_lets h count die unit key f u now late g o r
    have hu : u.kept = s.kept := by simp [u]
    have hlate : late.kept = s.kept := by simp [late, hu]
    have hr : r.1.kept = s.kept := by simp [r, hu]
    clear_value late r
    simp only [leaves_ite, leaves_next]
    refine ⟨fun _ => by simp [hlate], fun _ => ⟨fun _ => ⟨fun _ => by simp +zetaDelta, fun _ => by simp [hu]⟩, fun _ => ?_⟩⟩
    split <;> simp [hr]

@[simp] theorem execWait_follows (c : Nat) (x : WaitOp) (s : State) : Leaves s.kept (execWait c x s) := issue_leaves fun _ _ => by
  simp only [Issued.leaves_ite, Issued.leaves_stall, implies_true, true_and]
  intro _
  split <;> simp

@[simp] theorem execWaitSatisfied_follows (c : Nat) (s : State) : Leaves s.kept (execWaitSatisfied c s) := by
  unfold execWaitSatisfied
  split <;> simp

@[simp] theorem execWaitTimeout_follows (c at' : Nat) (s0 : State) : Leaves s0.kept (execWaitTimeout c at' s0) := by
  unfold execWaitTimeout
  simp only
  split <;> simp


/-! Every command, and a step. -/

/-- No command touches the queue, and none breaks the canonical form of module memory. -/
theorem exec_leaves (i : Instr) (s : State) : Leaves s.kept (exec i s) := by
  cases i <;> simp [exec, execMirrorDigestRecord, execStagingValidBitsClear, execRefresh, execPeriodicRetrain, execLinkFlitReplay, execTickEpochMarker, 
    execRefclkLost, execRefclkReturned, execOscillatorPeriod, execVadd, execVsub, execVmul, execVfma, execVmin, execVmax, execVabs, execVneg, 
    execVrcp, execVrsq, execVexp2, execVlog2, execVexp, execVlog, execVsexp, execVcmpeq, execVcmplt, execVcmple, execVextr, execTapr, execTapa, 
    execResetNLow, execResetNReleased, execCoreWatchdog, execManagementWatchdog, execSafetyWatchdog, execBrownOut, execInputLow, execInputHigh, 
    execOverVoltage, execInputRecovered, execPwrEnAsserted, execPowerDown, execReverseBlock, execStandbySupplyLost, execGovernorSample, 
    execThermalTrip, execSafetyRegisterWrite, execAlertCausesRead, execSmbusWrite, execBypass, execIdcode, execSamplePreload, execExtest, 
    execHostFrameDropped, execLinkControl, execLinkIdleAck, execFabricRetrain, execFabricPortDown, execFabricPortUp, execNeighbour, 
    execNeighbourAnnounce, execMacControlFrame, execVerdictCutoff, execVerdictRecordReceived, execVerdictMissed, execIdentRead, 
    execAttestQuote, execCertRead, execOptionsRead, execTenantQuery, execFrameStatus, execScaleStateRead, execHealthRead, execCheckpointStatus, 
    execManifestRead, execLedgerRead, execCountersAuditRead, execEscalationRead, execSyncInspect, execNutshellRead, execEventLogRead, execAdd, 
    execSub, execMul, execAndOp, execOrOp, execXor, execShl, execShr, execSra, execMinOp, execMaxOp, execSeq, execSlt, execSltu, execLui, 
    execAdda, execMova, execMovs, execValidBitsClear, execObjectsReturnToZero]

/-- A step leaves the queue without its front, and the canonical form of module memory as it was. -/
theorem step_leaves (s : State) : Leaves (s.pending.tail, s.mem.cells) (step s) := by
  unfold step
  split
  · next h => exact .of_eq (by simp [State.kept, h])
  · next c rest h => simpa [h] using! exec_leaves c (s.withPending rest)

/-- Settles O57: no command touches the queue, from which the step has taken its front. -/
theorem queueInOrder : Obligations.QueueInOrder := by
  intro s t h
  have hleaves := step_leaves s
  rw [h] at hleaves
  obtain ⟨hqueue, -⟩ := hleaves
  exact hqueue

/-- Settles O58: every command that writes memory writes it in canonical form. -/
theorem memoryFormKept : Obligations.MemoryFormKept := by
  intro s t hwf h
  have hleaves := step_leaves s
  rw [h] at hleaves
  obtain ⟨-, hcells⟩ := hleaves
  exact hcells hwf

/-- Settles O1: each clause is one case of the queue. -/
theorem stepRunsFront : Obligations.StepRunsFront := by
  refine ⟨fun c rest s h => ?_, fun s h => ?_⟩
  · rw [step, h]
  · rw [step, h]

end Sys2Proof.Machine
end

section
/-!
PROOFS. Commands in the wrong module state (16_vuhal_command_reference R379, R380): every row of *Command summary* rejects.
-/

namespace Sys2Proof.Machine

/-- A command row rejects in a wrong module state: at its turn in a state that does not allow it, it answers WRONG_STATE and does nothing else (R379, R380). -/
def RejectsWrongState (e : Nat × (Nat → Bytes → Instr)) : Prop :=
  ∀ (t : Nat) (p : Bytes) (s : State), s.runs e.1 t p = true → s.stateOk e.1 = false → exec (e.2 t p) s = .next (s.respond t wrongState)

/-- A submission at its turn has not started. -/
theorem State.waits_of_runs {s : State} {op t : Nat} {p : Bytes} (h : s.runs op t p = true) : s.waits op t p = false := by
  unfold State.runs at h
  unfold State.waits
  cases hq : (s.tenant t).running with
  | none => rfl
  | some q =>
    simp only [hq, Bool.and_eq_true, Bool.not_eq_true'] at h
    simp [h.2]

/-- RUN_START rejects at its start; the row of a command that has started is of no interest here. -/
theorem runStart_rejectsWrongState : RejectsWrongState (0x0803, Instr.runStart) := fun t p s hruns hstate => by
  have hwaits := State.waits_of_runs hruns
  simp only [exec, execRunStart, hwaits, Bool.false_eq_true, if_false]
  exact hostCmd_wrongState hruns hstate _

theorem sessionClose_rejectsWrongState : RejectsWrongState (0x0304, Instr.sessionClose) := fun t p s hruns hstate => by
  simp only [exec, execSessionClose, hruns, hstate, Bool.true_eq_false, if_false, if_true]
  cases hq : (s.tenant t).running with
  | none => simp [State.runs, hq] at hruns
  | some q => rfl

/-- Settles O20: every row but two runs its command by `hostCmd`, whose first check is the state's. -/
theorem wrongStateRejected : Obligations.WrongStateRejected := by
  suffices h : ∀ e ∈ _, RejectsWrongState e from h
  simp only [List.forall_mem_cons, List.not_mem_nil, false_imp_iff, implies_true, runStart_rejectsWrongState, sessionClose_rejectsWrongState,
    true_and, and_true]
  and_intros
  all_goals
    intro t p s hruns hstate
    simp only [exec, readCmd, hostCmd_wrongState hruns hstate,
      execIdentRead, execAttestQuote, execCertRead, execOptionsRead, execConfigRecordLoad, execTenantQuery, execQuotaSet, execRegionAlloc,
      execRegionFree, execRegionWrite, execRegionRead, execProgramLoad, execOptimizerSet, execProgramVerify, execFrameSet, execScheduleLoad,
      execFrameStatus, execSliceJoin, execRouteTableLoad, execAxisSet, execCablingCheck, execSliceLeave, execStepFeed, execRunArm, execRunHold,
      execSealPolicySet, execReplay, execStepStatus, execNumericsPolicySet, execScaleStateRead, execLayerWatchSet, execEmulationModeSet,
      execMirrorPairSet, execSpareEnrol, execTakeover, execFence, execDieSwap, execHealthRead, execProbationSet, execCheckpointPolicySet,
      execCheckpointNow, execCheckpointStatus, execRestore, execManifestRead, execTelemetryRead, execTelemetryStream, execLedgerRead,
      execCountersAuditRead, execReset, execServiceStateSet, execEscalationRead, execSyncInspect, execNutshellRead, execEventLogRead,
      execCoreHaltInspect, execPowerCapSet, execPowerStatus, execRampPolicySet, execEvalSubmit, execEvalResultRead, execRegionAllocExpert,
      execProgramLoadExpert, execOptimizerSetExpert, execFrameSetExpert, execCablingCheckExpert, execNumericsPolicySetExpert, execFenceExpert,
      execCheckpointPolicySetExpert, execCoreHaltInspectExpert, execRampPolicySetExpert]

end Sys2Proof.Machine
end

section
/-!
PROOFS. The tenants' turns (15_host_transport_mailboxes R367): the statement about timers and turns fails.
-/

namespace Sys2Proof.Machine

/-- A tenant's turn as the model takes it: the submission runs, and the tenant's next number advances only with its response. -/
def State.turnBegun (s : State) (t : Nat) (q : Submission) : State :=
  let s1 := s.setTenant t (fun x => { x with waiting := x.waiting.erase q, running := some q })
  s1.withHost { s1.host with turn := (t + 1) % 4 }

/-- The tenant next in rotation takes the submission that holds its next number, which runs where nothing of R367 rejects it. -/
theorem execSubmissionTurn_runs {t : Nat} {s : State} {q : Submission} {r : CmdRow} (hturn : s.nextTenant = some t)
    (hwaits : (s.tenant t).waiting.find? (fun w => w.seq == (s.tenant t).next) = some q)
    (hses : (s.turnBegun t q).session q.session ≠ none) (hrow : cmdRow q.opcode = some r) (hok : (s.turnBegun t q).turnReject q r = none) :
    execSubmissionTurn t s = .next (s.turnBegun t q) := by
  have hopen : ((s.turnBegun t q).session q.session).isNone = false := by simpa [Option.isNone_eq_false_iff, Option.isSome_iff_ne_none] using hses
  unfold State.turnBegun at hopen hok
  simp only [execSubmissionTurn, hturn, ne_eq, not_true_eq_false, if_false, hwaits, hopen, Bool.false_eq_true, hrow, hok]
  rfl

/-- Refutes O19: a turn leaves the tenant's next number, which the response advances (`State.respond`), where `State.turnTaken` has it advanced already.
An IDENT_READ that waits in the queue of tenant 0 with number 0 runs, and 0 is still the tenant's next number. -/
theorem not_transportTimersAndTurns : ¬ Obligations.TransportTimersAndTurns := by
  rintro ⟨-, hruns, -⟩
  have hrow : cmdRow 0x0101 = some ⟨0x0101, false, 7, 63, 8⟩ := by decide +kernel
  have htaken := hruns 0 (Tests.queued 0x0101 8) (Tests.waits0 0x0101 8) _ (by decide +kernel) (by decide +kernel) (by decide +kernel) hrow
    (by decide +kernel)
  have hbegun := execSubmissionTurn_runs (t := 0) (s := Tests.queued 0x0101 8) (q := Tests.waits0 0x0101 8) (by decide +kernel) (by decide +kernel)
    (by decide +kernel) hrow (by decide +kernel)
  have hsame := Host.Outcome.next.inj (hbegun.symm.trans htaken)
  have hnext := congrArg (fun u : State => (u.tenant 0).next) hsame
  revert hnext
  decide +kernel

end Sys2Proof.Machine
end

section
/-!
PROOFS. Resets (17_reset_power_startup R417 to R421, R428, R429): the events of the reset controller.
-/

namespace Sys2Proof.Machine

/-! The release stages (17_reset_power_startup R428, R429). -/

/-- A stage whose release may open and that finds nothing completes: its effect, then the next stage or the end of the reset. -/
theorem execResetStage_completes {at' : Nat} {s0 : State} {r : ResetRun} (h0 : s0.sup.reset = some r) (h : (s0.advance at').sup.reset = some r)
    (hgo : (s0.advance at').sup.stopped = false) (hen : (s0.advance at').sup.pwrEn = true) (hsupply : (s0.advance at').sup.standby = true)
    (hheld : r.stage = 0 → (s0.advance at').resetHeld = false) (hclk : r.stage = 2 → (s0.advance at').clk.present = true)
    (hgap : 3 ≤ r.stage → r.opens ≤ (s0.advance at').clk.elapsed) :
    execResetStage [] at' s0 = .next (match r.next with
      | none => ((s0.advance at').stageEffect r).finishReset r
      | some k => ((s0.advance at').stageEffect r).withSup { ((s0.advance at').stageEffect r).sup with
          reset := some { r with stage := k, opens := ((s0.advance at').stageEffect r).clk.elapsed + ((s0.advance at').stageEffect r).sup.opts.gap },
          stage := if r.level ≤ 1 then k else ((s0.advance at').stageEffect r).sup.stage }) := by
  have hopen : ¬ (r.stage = 0 ∧ (s0.advance at').resetHeld = true) := fun ⟨hz, hb⟩ => by simp [hheld hz] at hb
  have hrunning : ¬ (r.stage = 2 ∧ (s0.advance at').clk.present = false) := fun ⟨hz, hb⟩ => by simp [hclk hz] at hb
  have hwaited : ¬ (3 ≤ r.stage ∧ (s0.advance at').clk.elapsed < r.opens) := fun ⟨hz, hb⟩ => by have := hgap hz; omega
  simp only [execResetStage, h0, h, hgo, hen, hsupply, hopen, hrunning, hwaited, Bool.false_eq_true, Bool.true_eq_false, or_self, if_false, List.all_nil,
    List.foldl_nil, Option.getD_some]
  cases r.next <;> rfl

/-- Stage 8 is the last of a reset at L1 or L0. -/
theorem ResetRun.next_stage8 {r : ResetRun} (h : r.stage = 8) : r.next = none := by
  simp only [ResetRun.next, List.find?_eq_none, List.mem_range, h]
  intro k hk
  simp [show ¬ 8 < k by omega]

/-! The start of a reset at L1 or L0 (R417). -/

theorem State.loseCold_cores (s : State) : s.loseCold.cores = [] := rfl
theorem State.loseCold_steps (s : State) : s.loseCold.steps = [] := rfl
theorem State.loseWarm_cores (s : State) : s.loseWarm.cores = [] := rfl
theorem State.loseWarm_steps (s : State) : s.loseWarm.steps = [] := rfl

theorem State.lose_clears (s : State) {level : Nat} (h : level ≤ 1) (ts : List ResetTarget) :
    (s.lose level ts).cores = [] ∧ (s.lose level ts).steps = [] := by
  obtain rfl | rfl : level = 0 ∨ level = 1 := by omega
  · exact ⟨loseCold_cores s, loseCold_steps s⟩
  · exact ⟨loseWarm_cores s, loseWarm_steps s⟩

/-! A nutshell entry that freezes the record, and an alert, leave the supervision state. -/

@[simp] theorem State.logFreeze_sup (s : State) (n : Note) : (s.logFreeze n).sup = s.sup := by
  unfold State.logFreeze
  split <;> rfl

@[simp] theorem State.alert_sup (s : State) (c : Nat) : (s.alert c).sup = s.sup := by
  unfold State.alert
  split <;> rfl

/-- Settles O50: each event is one equation, and a reset at L1 or L0 starts from a module without cores and steps. -/
theorem resetEvents : Obligations.ResetEvents := by
  refine ⟨?low, ?long, ?released, ?timeout, ?opens, ?ends, ?dieFails, ?stops, ?begins⟩
  case low =>
    rintro at' s0 s rfl hlow hen
    simp [exec, execResetNLow, hlow, hen]
  case long =>
    rintro s s1 at' r hlow hreset rfl
    simp only [exec, execResetNLong, hlow, hreset]
    split <;> rfl
  case released =>
    intro s hlow
    rw [Option.isSome_iff_exists] at hlow
    obtain ⟨t, hlow⟩ := hlow
    simp [exec, execResetNReleased, hlow]
  case timeout =>
    intro s a hask
    simp [exec, execResetResponseTimeout, hask]
  case opens =>
    rintro at' k s0 s s2 r h0 rfl h hgo hen hsupply hheld hclk hgap rfl hnext
    simpa [hnext] using! execResetStage_completes h0 h hgo hen hsupply hheld hclk hgap
  case ends =>
    rintro at' s0 s r h0 rfl h hgo hen hsupply hstage hlevel hgap
    have hend := execResetStage_completes h0 h hgo hen hsupply (by omega) (by omega) (fun _ => hgap)
    simpa [ResetRun.next_stage8 hstage, State.stageEffect, hstage] using! hend
  case dieFails =>
    intro die s r hreset hgo hheld hdie hlow hhigh hlevel
    have hstage : ¬ (r.stage = 1 ∨ r.stage = 2) := by omega
    have hmine : stageOfDie r.stage die = true := by simp [stageOfDie, show r.stage ≠ 3 by omega, show r.stage ≠ 4 by omega, hlow, hhigh, hdie]
    simp [exec, execResetStageFailed, hreset, hgo, hheld, hstage, hlevel, hmine, hdie, show r.level ≠ 4 by omega]
  case stops =>
    intro die s r hreset hgo hheld hstage
    simp [exec, execResetStageFailed, hreset, hgo, hheld, hstage]
  case begins =>
    intro s f level t hung hreset hlevel
    have hqueue : (s.beginReset f level t hung).pending = s.pending := (State.beginReset_follows (Follows.refl s.kept) f level t hung).1
    have hidle : (s.noteReset (sourceCode f) level t).sup.reset = none := hreset
    unfold State.beginReset at hqueue ⊢
    simp only [hidle] at hqueue ⊢
    obtain ⟨hcores, hsteps⟩ := State.lose_clears _ hlevel _
    exact ⟨_, rfl, rfl, rfl, hcores, hsteps, hqueue⟩

end Sys2Proof.Machine
end

section
/-!
PROOFS. Power inputs (17_reset_power_startup R433 to R436; 18_supervision_identity_attestation R456).
-/

namespace Sys2Proof.Machine

/-! What the power inputs leave of the supervision state. -/

@[simp] theorem State.setInput_sup (s : State) (n mv : Nat) : (s.setInput n mv).sup = { s.sup with input := n, mv := mv } := rfl
@[simp] theorem State.portsOff_sup (s : State) : s.portsOff.sup = s.sup := (rfl)
@[simp] theorem State.portsOff_nut (s : State) : s.portsOff.nut = s.nut := (rfl)
@[simp] theorem State.emit_sup (s : State) (x : Sent) : (s.emit x).sup = s.sup := rfl
@[simp] theorem State.emit_nut (s : State) (x : Sent) : (s.emit x).nut = s.nut := rfl
@[simp] theorem State.log_sup (s : State) (n : Note) : (s.log n).sup = s.sup := rfl

@[simp] theorem State.setGood_sup (s : State) (b : Bool) : (s.setGood b).sup = { s.sup with pwrGood := b } := by
  unfold State.setGood
  split
  · next h => rw [← h]
  · rfl

@[simp] theorem State.failRestore_sup (s : State) (status : Nat) : (s.failRestore status).sup = s.sup := by
  unfold State.failRestore
  split <;> rfl

theorem State.loseCold_standby (s : State) : s.loseCold.sup.standby = s.sup.standby := rfl
theorem State.loseCold_input (s : State) : s.loseCold.sup.input = s.sup.input := rfl

/-- A reset at L0 keeps what the standby supply and the input are. -/
theorem State.startStages_cold (s : State) (r : ResetRun) (freeze : Bool) (h : r.level = 0) :
    (s.startStages r freeze).sup.reset = some r ∧ (s.startStages r freeze).sup.standby = s.sup.standby
      ∧ (s.startStages r freeze).sup.input = s.sup.input := by
  have hlogged : ((s.logStart r freeze).failRestore 0x0601).sup = s.sup := by
    cases freeze <;> simp [State.logStart]
  have hlost : ((s.logStart r freeze).failRestore 0x0601).lose r.level r.targets = ((s.logStart r freeze).failRestore 0x0601).loseCold := by
    rw [State.lose, if_pos h]
  unfold State.startStages
  simp only [hlost]
  simp only [State.withSup_sup, State.loseCold_standby, State.loseCold_input, hlogged, and_self]

/-- The power_on reset is at L0 whatever the options say, so the supply and the input stay as they are and stage 0 is next (R417, R418). -/
theorem State.resetWhole_powerOn (s : State) (h : s.sup.reset = none) :
    ∃ q, (s.resetWhole fuPowerOn).sup.reset = some q ∧ q.stage = 0 ∧ (s.resetWhole fuPowerOn).sup.standby = s.sup.standby
      ∧ (s.resetWhole fuPowerOn).sup.input = s.sup.input := by
  have hlevel : min 1 (s.mapLevel fuPowerOn) = 0 := by simp [State.mapLevel, fuseMap, fuPowerOn]
  have hdefault : fuseMap.getD fuPowerOn 0 = 0 := rfl
  have hbegins : s.resetWhole fuPowerOn = s.beginReset fuPowerOn 0 ResetTarget.whole [] := by
    simp only [State.resetWhole, hlevel, hdefault, Nat.lt_irrefl, if_false]
  have hidle : (s.noteReset (sourceCode fuPowerOn) 0 ResetTarget.whole).sup.reset = none := h
  rw [hbegins]
  unfold State.beginReset
  simp only [hidle]
  refine ⟨_, rfl, rfl, ?_⟩
  exact (State.startStages_cold _ _ _ rfl).2

/-- After everything has stopped, PWR_EN is low, no reset waits, and PWR_GOOD drops (R436). -/
theorem execPowerDown_stops {s : State} (h : s.sup.pwrEn = true) : ∃ u : State, execPowerDown s = .next (((u.withSup
    { u.sup with pwrEn := false, reset := none, askReset := none, resetNLow := none, stage := 0 }).portsOff).setGood false) :=
  ⟨(s.log { code := 0x7005 }).stopAll, if_neg (by simp [h])⟩

/-- Settles O52: each event is one equation; what the reset at the standby supply keeps is `State.resetWhole_powerOn`. -/
theorem powerEvents : Obligations.PowerEvents := by
  refine ⟨?brownOut, ?low, ?high, ?tooHigh, ?recovered, ?powerOn, ?powerDown, ?reverse, ?lost, ?up, ?upOn⟩
  case brownOut =>
    intro mv s hen hinput hmv
    simp [exec, execBrownOut, hen, hinput, show ¬ 42000 ≤ mv by omega]
  case low =>
    intro mv s hen hinput hlow hhigh
    have hbegins : ¬ (s.sup.pwrEn = false ∨ s.sup.input = 1 ∨ 3 ≤ s.sup.input ∨ mv < 42000 ∨ 46000 ≤ mv) := by
      simp only [hen, Bool.true_eq_false, false_or]
      omega
    exact if_neg hbegins
  case high =>
    intro mv s hen hinput hlow hhigh
    have hbegins : ¬ (s.sup.pwrEn = false ∨ s.sup.input = 2 ∨ 3 ≤ s.sup.input ∨ mv ≤ 56000 ∨ 58000 < mv) := by
      simp only [hen, Bool.true_eq_false, false_or]
      omega
    exact if_neg hbegins
  case tooHigh =>
    intro mv s hen hinput hmv
    simp [exec, execOverVoltage, hen, hinput, show ¬ mv ≤ 58000 by omega]
  case recovered =>
    intro mv s hinput hlow hhigh
    have hends : ¬ (s.sup.input = 0 ∨ mv < (if s.sup.input = 1 ∨ s.sup.input = 3 then 46500 else 46000)
        ∨ (if s.sup.input = 1 ∨ s.sup.input = 3 then 56000 else 55500) < mv) := by
      split <;> omega
    exact if_neg hends
  case powerOn =>
    intro slot s hen hsupply hinput
    simp [exec, execPwrEnAsserted, hen, hsupply, show ¬ 3 ≤ s.sup.input by omega]
  case powerDown =>
    intro s hen
    obtain ⟨u, hdown⟩ := execPowerDown_stops hen
    exact ⟨_, hdown, by simp⟩
  case reverse =>
    intro s hshut
    simp [exec, execReverseBlock, hshut]
  case lost =>
    intro s hsupply
    simp [exec, execStandbySupplyLost, hsupply]
    rfl
  case up =>
    intro s hsupply hen
    simp [exec, execStandbySupplyUp, hsupply, hen]
  case upOn =>
    intro s hsupply hen hreset
    have hup : exec .standbySupplyUp s = .next (((s.withNut { s.nut with next := 0 }).withSup
        { s.sup with standby := true, input := 3, loadStarts := 0, restarts := [] }).resetWhole fuPowerOn) := by
      simp [exec, execStandbySupplyUp, hsupply, hen]
    obtain ⟨q, hq, hstage, hstandby, hinput⟩ := State.resetWhole_powerOn
      ((s.withNut { s.nut with next := 0 }).withSup { s.sup with standby := true, input := 3, loadStarts := 0, restarts := [] }) hreset
    exact ⟨_, q, hup, hstandby, hinput, hq, hstage⟩

end Sys2Proof.Machine
end

section
/-!
PROOFS. The governor, the safety partition and the archive (17_reset_power_startup R437 to R441; 18_supervision_identity_attestation R443, R456).
-/

namespace Sys2Proof.Machine

/-! The governor, the safety partition and the archive. -/

@[simp] theorem State.logLimit_run (s : State) (on : Bool) (code : Nat) : (s.logLimit on code).run = s.run := by
  unfold State.logLimit
  split <;> rfl

/-- A limiting condition that is logged is marked as such, and nothing else of the supervision state changes. -/
theorem State.logLimit_sup (s : State) (on : Bool) (code : Nat) : ∃ l, (s.logLimit on code).sup = { s.sup with limLogged := l } := by
  unfold State.logLimit
  split
  · exact ⟨_, rfl⟩
  · exact ⟨_, rfl⟩

theorem State.logLimits_sup (s : State) (b0 b1 b2 : Bool) (c0 c1 c2 : Nat) :
    ∃ l, (((s.logLimit b0 c0).logLimit b1 c1).logLimit b2 c2).sup = { s.sup with limLogged := l } := by
  obtain ⟨l0, h0⟩ := s.logLimit_sup b0 c0
  obtain ⟨l1, h1⟩ := (s.logLimit b0 c0).logLimit_sup b1 c1
  obtain ⟨l2, h2⟩ := ((s.logLimit b0 c0).logLimit b1 c1).logLimit_sup b2 c2
  exact ⟨l2, by rw [h2, h1, h0]⟩

theorem Super.measure_watts (u : Super) (x : PowerSample) : (u.measure x).watts = x.watts ∧ (u.measure x).mv = x.mv ∧ (u.measure x).ma = x.ma := by
  simp only [Super.measure]
  split <;> exact ⟨rfl, rfl, rfl⟩

/-- The ceiling that does not exceed what it may moves by the slew limit at most (R438 to R440). -/
theorem State.nextCeiling_slew (s : State) (x : PowerSample) (d : Nat) (h : s.sup.ceiling ≤ s.ceilingMax x.mv) :
    s.sup.ceiling - s.sup.slew ≤ s.nextCeiling x d ∧ s.nextCeiling x d ≤ s.sup.ceiling + s.sup.slew := by
  simp only [State.nextCeiling]
  split_ifs <;> omega

/-- A sample within the limits sets the ceiling, and the floor 50 W below it, and leaves the run. -/
theorem execGovernorSample_keeps {x : PowerSample} {s : State} (hen : s.sup.pwrEn = true) (hwatts : x.watts.length = 8) (htemps : x.temps.length = 20)
    (hmems : x.mems.length = 8) (hma : x.ma ≤ 75000) :
    ∃ v, execGovernorSample x s = .next v ∧ v.run = s.run ∧ ∃ b n l, v.sup = { s.sup.measure x with
      ceiling := s.nextCeiling x (x.mv * x.ma / 10000), floor := s.nextCeiling x (x.mv * x.ma / 10000) - 5000, limiting := b, ramps := n, limLogged := l } := by
  have hsafe : ¬ 75000 < x.ma := by omega
  simp only [execGovernorSample, hen, hwatts, htemps, hmems, hsafe, Bool.true_eq_false, ne_eq, not_true_eq_false, or_self, if_false]
  refine ⟨_, rfl, ?_, ?_⟩
  · split <;> simp
  · split
    · simp only [State.alert_sup]
      exact ⟨_, _, State.logLimits_sup ..⟩
    · exact ⟨_, _, State.logLimits_sup ..⟩

/-- Settles O53: each event is one equation; the bound on the ceiling is `State.nextCeiling_slew`. -/
theorem governorAndSafety : Obligations.GovernorAndSafety := by
  refine ⟨?sample, fun x s => State.nextCeiling_slew s x _, ?trips, ?thermal, ?cap, ?applied, ?refused, fun item value s => rfl, ?archived⟩
  case sample =>
    intro x s hen hwatts htemps hmems hma
    obtain ⟨v, hv, hrun, b, n, l, hsup⟩ := execGovernorSample_keeps hen hwatts htemps hmems hma
    obtain ⟨hw, hmv, hamps⟩ := s.sup.measure_watts x
    exact ⟨v, hv, by simp [hsup], by simp [hsup], by simp [hsup, hmv], by simp [hsup, hamps], by simp [hsup, hw], congrArg Run.mode hrun⟩
  case trips =>
    intro x s hen hwatts htemps hmems hma
    simp [exec, execGovernorSample, hen, hwatts, htemps, hmems, hma]
  case thermal =>
    intro die s hen hdie
    have hpowered : (isCDie die || isMDie die || isNDie die || die == srcS) = true := by simpa [or_assoc] using hdie
    simp [exec, execThermalTrip, hen, hpowered]
  case cap =>
    intro s a rest hasks hitem hlow hhigh
    have hallows : (s.withSup { s.sup with asks := rest }).allows a = true := by simp [State.allows, hitem, itemCap, hlow, hhigh]
    simp only [exec, execSafetyRequest, hasks, hallows, if_true, State.applyAsk, hitem, itemCap]
    rfl
  case applied =>
    rintro s s1 a rest hasks rfl hallows
    simp [exec, execSafetyRequest, hasks, hallows]
  case refused =>
    rintro s s1 a rest hasks rfl hallows
    simp [exec, execSafetyRequest, hasks, hallows]
  case archived =>
    intro s e harchiving
    simp [exec, execArchiveDone, harchiving]

end Sys2Proof.Machine
end

section
/-!
PROOFS. SMBus and JTAG (19_electrical_mechanical R466 to R468).
-/

namespace Sys2Proof.Machine

/-- Settles O54: the read of the alert causes moves ALERT_N or does not, and every other instruction is one equation. -/
theorem sideband : Obligations.Sideband := by
  refine ⟨?causes, fun code s => rfl, fun code s => rfl, fun s => rfl, fun s => rfl, ?refused, ?driven⟩
  case causes =>
    intro s hsupply
    simp only [exec, execAlertCausesRead, hsupply, Bool.true_eq_false, if_false]
    split
    · exact ⟨_, rfl, rfl, rfl, rfl, rfl, rfl⟩
    · split
      · exact ⟨_, rfl, rfl, rfl, rfl, rfl, rfl⟩
      · exact ⟨_, rfl, rfl, rfl, rfl, rfl, rfl⟩
  case refused =>
    intro s hen
    simp [exec, execExtest, hen]
  case driven =>
    intro s hen
    simp [exec, execExtest, hen]

end Sys2Proof.Machine
end

section
/-!
PROOFS. Identity, configuration and tenant commands (16_vuhal_command_reference R386 to R390; 15_host_transport_mailboxes R364, R370, R374, R375).
-/

namespace Sys2Proof.Machine

/-! Identity and configuration (16_vuhal_command_reference R386 to R390). -/

/-- Settles O2: each command passes its checks, and answers what its body then gives. -/
theorem identityCommands : Obligations.IdentityCommands := by
  refine ⟨?ident, ?tags, ?quote, ?cert, ?options, ?config⟩
  case quote =>
    intro t p s h
    rw [exec, execAttestQuote, readCmd_ready h]
  case options =>
    intro t p s h
    rw [exec, execOptionsRead, readCmd_ready h]
  case ident =>
    intro t p s h hpage hzero
    rw [exec, execIdentRead, readCmd_ready h]
    simp [firstFail, wrong, reserved, hpage, hzero]
  case tags =>
    intro t p s k h hpage hk hzero
    rw [exec, execIdentRead, readCmd_ready h]
    simp [firstFail, wrong, reserved, hpage, hzero, Nat.not_lt.2 (show k + 1 ≤ 2 by omega)]
  case cert =>
    rintro t p s k h rfl hk hzero hgood hoff
    rw [exec, execCertRead, readCmd_ready h]
    simp [firstFail, wrong, reserved, hzero, hgood, Nat.not_lt.2 hk, Nat.not_le.2 hoff]
  case config =>
    intro t p s h hchecks
    rw [exec, execConfigRecordLoad]
    exact hostCmd_answers h (by rw [checked, hchecks])

/-! Tenants: what leaves a tenant's quotas (15_host_transport_mailboxes R374, R375). -/

/-- Sending frames changes no tenant. -/
@[simp] theorem State.flushFrames_tenants (n : Nat) (s : State) (id : Nat) : (State.flushFrames n s id).host.tenants = s.host.tenants := by
  induction n generalizing s with
  | zero => rfl
  | succ n ih =>
    unfold State.flushFrames
    split
    · rfl
    · split
      · rfl
      · split
        · rfl
        · rw [ih]
          rfl

@[simp] theorem State.sendFrames_tenants (s : State) (id : Nat) (fs : List TxFrame) : (s.sendFrames id fs).host.tenants = s.host.tenants := by
  unfold State.sendFrames
  split
  · rfl
  · exact State.flushFrames_tenants _ _ _

/-- A change of a tenant that leaves its quotas leaves those of every tenant. -/
theorem quota_getD_modify {l : List Tenant} {f : Tenant → Tenant} (hf : ∀ x, (f x).quota = x.quota) (t u : Nat) :
    ((l.modify t f).getD u Tenant.blank).quota = (l.getD u Tenant.blank).quota := by
  rw [List.getD_eq_getElem?_getD, List.getD_eq_getElem?_getD, List.getElem?_modify]
  split
  · cases l[u]? <;> simp [hf]
  · simp

theorem State.setTenant_quota {s : State} {f : Tenant → Tenant} (hf : ∀ x, (f x).quota = x.quota) (t u : Nat) :
    ((s.setTenant t f).tenant u).quota = (s.tenant u).quota := quota_getD_modify hf t u

theorem State.setTenant_tenant {s : State} {u : Nat} (hlt : u < s.host.tenants.length) (f : Tenant → Tenant) :
    (s.setTenant u f).tenant u = f (s.tenant u) := by
  have hmodify : (s.host.tenants.modify u f).getD u Tenant.blank = f (s.host.tenants.getD u Tenant.blank) := by
    simp [hlt]
  exact hmodify

@[simp] theorem State.log_tenant (s : State) (n : Note) (u : Nat) : (s.log n).tenant u = s.tenant u := rfl

@[simp] theorem State.sendFrames_tenant (s : State) (id : Nat) (fs : List TxFrame) (u : Nat) : (s.sendFrames id fs).tenant u = s.tenant u := by
  simp [State.tenant]

@[simp] theorem State.respond_quota (s : State) (t : Nat) (r : Reply) (u : Nat) : ((s.respond t r).tenant u).quota = (s.tenant u).quota := by
  unfold State.respond
  split
  · rfl
  · rw [State.sendFrames_tenant]
    split
    · rw [State.log_tenant]
      exact State.setTenant_quota (by exact fun _ => rfl) t u
    · exact State.setTenant_quota (by exact fun _ => rfl) t u

@[simp] theorem State.refreshQuota_quota (s : State) (t u : Nat) : ((s.refreshQuota t).tenant u).quota = (s.tenant u).quota := by
  unfold State.refreshQuota
  simp only
  split
  · rfl
  · split
    · exact quota_getD_modify (by exact fun _ => rfl) t u
    · exact quota_getD_modify (by exact fun _ => rfl) t u

/-- A quota that QUOTA_SET selects takes its new value, and the others stand (R374). -/
theorem State.setQuotas_quotaAt {s : State} {p : Bytes} {u i : Nat} (hu : field p 0 1 = u) (hlt : u < s.host.tenants.length) (hi : i < 4) :
    ((s.setQuotas p).1.tenant u).quotaAt i = if bit (field p 1 1) i then [field p 2 1, field p 4 4, field p 8 4, field p 12 4].getD i 0
      else (s.tenant u).quotaAt i := by
  have hset : ∀ held, (((s.setTenant u (fun y => { y with
      quota := (List.range 4).map (fun j => if bit (field p 1 1) j then [field p 2 1, field p 4 4, field p 8 4, field p 12 4].getD j 0
        else (s.tenant u).quotaAt j), over_ := y.over_ ||| held })).refreshQuota u).tenant u).quotaAt i
      = if bit (field p 1 1) i then [field p 2 1, field p 4 4, field p 8 4, field p 12 4].getD i 0 else (s.tenant u).quotaAt i := by
    intro held
    rw [Tenant.quotaAt, State.refreshQuota_quota, State.setTenant_tenant hlt]
    simp [hi]
  unfold State.setQuotas
  simp only [hu]
  split
  · exact hset _
  · exact hset _

/-- QUOTA_SET answers, whichever quota is left above its new value. -/
theorem State.setQuotas_answers (s : State) (p : Bytes) : ∃ r, (s.setQuotas p).2 = some r := by
  unfold State.setQuotas
  simp only
  split <;> exact ⟨_, rfl⟩

/-- Settles O3: the quotas are set before the response, which leaves them. -/
theorem tenantCommands : Obligations.TenantCommands := by
  refine ⟨?query, ?quota, ?close⟩
  case query =>
    intro t p s h
    rw [exec, execTenantQuery, readCmd_ready h]
  case quota =>
    intro t p s u i h hu hlow hhigh hlen hchecks hi
    obtain ⟨r, hr⟩ := s.setQuotas_answers p
    rw [exec, execQuotaSet]
    refine ⟨_, hostCmd_answers (s' := (s.setQuotas p).1) (r := r) h ?_, ?_⟩
    · subst hu
      refine (checked_none ?_).trans (Prod.ext rfl hr)
      simpa [wrong, Nat.not_lt.2 hhigh, show field p 0 1 ≠ 0 by omega] using forall_of_firstFail_none hchecks
    · rw [Tenant.quotaAt, State.respond_quota]
      exact State.setQuotas_quotaAt hu (by omega) hi
  case close =>
    rintro t p s q ⟨hruns, hstate⟩ hq
    simp [exec, execSessionClose, hruns, hstate, hq]

end Sys2Proof.Machine
end

section
/-!
PROOFS. Region commands (16_vuhal_command_reference R391 to R393).
-/

namespace Sys2Proof.Machine

/-! REGION_ALLOC (16_vuhal_command_reference R391). -/

/-- A region that passes every check takes the lowest free range. -/
theorem regionAlloc_answers {expert : Bool} {t kind spill size base : Nat} {p : Bytes} {s : State} (hkind : field p 2 1 = kind) (hspill : field p 3 1 = spill)
    (hsize : field p 8 8 = size) (hbase : s.freeRange size = some base)
    (hmode : kind = 0 ∨ s.run.mode = .idle ∨ s.run.mode = .armed ∨ s.run.mode = .standby) (hlow : 1 ≤ field p 0 2) (hhigh : field p 0 2 ≤ 4095)
    (hfree : s.region (field p 0 2) = none) (hk : kind ≤ 3) (hs : spill ≤ 2) (hexpert : spill = 2 → expert = true)
    (heval : t = 1 → kind = 0 ∧ spill = 0 ∧ (s.uses 1).getD 1 0 + size / 1048576 ≤ (s.tenant 1).quotaAt 1) (hzero : allZero p 4 4 = true)
    (hmin : mib2 ≤ size) (hmul : size % mib2 = 0) :
    regionAlloc expert t p s = (s.addRegion t (field p 0 2) kind spill size base,
      some (okWith (leBytes 2 (field p 0 2) ++ zeros 6 ++ leBytes 8 base ++ leBytes 8 size))) := by
  have hstate : 1 ≤ kind → s.run.mode ≠ .idle → s.run.mode ≠ .armed → s.run.mode = .standby := by
    intro hrun hidle harmed
    obtain h | h | h | h := hmode
    · omega
    · exact absurd h hidle
    · exact absurd h harmed
    · exact h
  have hspare : (spill == 2 && !expert) = false := by
    by_cases h : spill = 2
    · simp [hexpert h]
    · simp [h]
  have hindex : decide (field p 0 2 = 0 ∨ 4095 < field p 0 2) = false := decide_eq_false (by omega)
  unfold regionAlloc
  simp only [hkind, hspill, hsize, hbase]
  refine (checked_none ?_).trans rfl
  by_cases ht : t = 1
  · obtain ⟨h0, hsp, hquota⟩ := heval ht
    simpa [wrong, reserved, hindex, hfree, hzero, hmin, hmul, ht, h0, hsp] using hquota
  · simpa [wrong, reserved, hspare, hindex, hfree, hzero, hmin, hmul, ht, hk, hs] using hstate

/-! REGION_WRITE (R393, R371). -/

/-- What a REGION_WRITE of either form needs of the region that it names. -/
def State.takesWrite (s : State) (i : Nat) : Prop := (s.armedState = false ∨ i ∉ s.armedRegions) ∧ s.regionChanging i = false

theorem State.takesWrite_checks {s : State} {i : Nat} (h : s.takesWrite i) :
    (s.armedState = true → i ∉ s.armedRegions) ∧ s.regionChanging i = false := by
  obtain ⟨harmed, hchanging⟩ := h
  refine ⟨fun hstate => ?_, hchanging⟩
  obtain hno | hno := harmed
  · simp [hno] at hstate
  · exact hno

section

variable {t i n : Nat} {p : Bytes} {s : State} {g : Region} (h : s.ready 0x0403 t p) (hi : field p 0 2 = i) (hown : s.ownRegion t i = some g)
  (hn : field p 0x10 8 = n) (hfits : field p 8 8 + n ≤ g.size) (htakes : s.takesWrite i)
include h hi hown hn hfits htakes

/-- Bytes in the command are written at once. -/
theorem execRegionWrite_inline (hform : field p 2 2 = 0) (hmax : n ≤ 4072) (hlen : p.length = 24 + n) :
    execRegionWrite t p s = .next ((s.hostWrite (g.base + field p 8 8) (p.drop 24)).respond t okReply) := by
  obtain ⟨harmed, hchanging⟩ := State.takesWrite_checks htakes
  refine hostCmd_answers h ?_
  simp only [hi, hown, hn, hform]
  refine (checked_none ?_).trans rfl
  simpa [wrong, hchanging, hmax, hlen, hfits, bit] using harmed

/-- The bulk form opens a transfer into the region. -/
theorem execRegionWrite_bulk (hform : field p 2 2 = 1) (hnumber : s.numberOpen (s.runningSession t) (field p 4 4) = false)
    (hroom : (s.transfersOf (s.runningSession t)).length < 64) :
    execRegionWrite t p s = .next ((s.openTransfer (s.runningSession t)
      { number := field p 4 4, use := .region, region := i, base := g.base + field p 8 8, len := n, got := [] }).respond t accepted) := by
  obtain ⟨harmed, hchanging⟩ := State.takesWrite_checks htakes
  refine hostCmd_answers h ?_
  simp only [hi, hown, hn, hform]
  refine (checked_none ?_).trans rfl
  simpa [wrong, hchanging, hnumber, hroom, hfits, bit] using harmed

end

/-! REGION_READ (R393). -/

/-- Without re-cast elements the host sees the bytes of memory. -/
theorem State.hostRead_plain {s : State} {g : Region} (h : g.spill ≠ 2) (off n : Nat) : s.hostRead g off n = s.readMem (g.base + off) n := by
  simp [State.hostRead, h]

/-- REGION_READ of a region of plain elements answers its bytes, in the response or as bulk-out frames. -/
theorem execRegionRead_answers {t n : Nat} {p : Bytes} {s : State} {g : Region} (h : s.ready 0x0404 t p) (hown : s.ownRegion t (field p 0 2) = some g)
    (hspill : g.spill ≠ 2) (hform : field p 2 2 ≤ 1) (hn : n = if bit (field p 2 2) 0 then field p 0x10 8 else min 4096 (field p 0x10 8))
    (hfits : field p 8 8 + n ≤ g.size) (hgood : s.badIn (g.base + field p 8 8) n = none) :
    execRegionRead t p s = .next (s.respond t (if bit (field p 2 2) 0 then
        { status := 1, bulk := bulkOut (field p 4 4) (s.readMem (g.base + field p 8 8) n) }
      else okWith (s.readMem (g.base + field p 8 8) n))) := by
  have hok : firstFail [wrong (decide (1 < field p 2 2)) 2] = none := by simp [firstFail, wrong, Nat.not_lt.2 hform]
  refine hostCmd_answers h ?_
  simp only [← hn, hok, hown, if_neg (Nat.not_lt.2 hfits), State.withBytes, hgood, State.hostRead_plain hspill, if_neg hspill]

/-- Settles O4: each command passes its checks, and answers what its body then gives. -/
theorem regionCommands : Obligations.RegionCommands := by
  refine ⟨?alloc, ?allocExpert, ?free, ?write, ?writeBulk, ?read, ?readBulk⟩
  case alloc =>
    rintro t i kind spill size base p s h rfl hkind hspill hsize hbase hmode hlow hhigh hfree hk hs heval hzero hmin hmul
    rw [exec, execRegionAlloc]
    exact hostCmd_answers h (regionAlloc_answers hkind hspill hsize hbase hmode hlow hhigh hfree hk (by omega) (by omega) heval hzero hmin hmul)
  case allocExpert =>
    rintro t i kind size base p s h rfl hkind hspill hsize hbase hmode hlow hhigh hfree hk ht hzero hmin hmul
    rw [exec, execRegionAllocExpert]
    exact hostCmd_answers h (regionAlloc_answers hkind hspill hsize hbase hmode hlow hhigh hfree hk (by omega) (fun _ => rfl) (by omega) hzero hmin hmul)
  case free =>
    rintro t i p s g h rfl hown hzero harmed hstaged hrestore hbusy
    rw [exec, execRegionFree]
    refine hostCmd_answers h ((checked_none ?_).trans rfl)
    simp [reserved, hown, hzero, harmed, hstaged, hrestore, hbusy]
  case write =>
    intro t i n p s g h hi hown hform hn hmax hlen hfits harmed hchanging
    exact execRegionWrite_inline h hi hown hn hfits ⟨harmed, hchanging⟩ hform hmax hlen
  case writeBulk =>
    intro t i n p s g h hi hown hform hn hfits harmed hchanging hnumber hroom
    exact execRegionWrite_bulk h hi hown hn hfits ⟨harmed, hchanging⟩ hform hnumber hroom
  case read =>
    rintro t i n p s g h rfl hown hspill hform rfl hfits hgood
    have hread := execRegionRead_answers h hown hspill (by omega) rfl (by simpa [hform, bit] using hfits) (by simpa [hform, bit] using hgood)
    simpa [hform, bit] using! hread
  case readBulk =>
    rintro t i n p s g h rfl hown hspill hform rfl hfits hgood
    have hread := execRegionRead_answers h hown hspill (by omega) rfl (by simpa [hform, bit] using hfits) (by simpa [hform, bit] using hgood)
    simpa [hform, bit] using! hread

end Sys2Proof.Machine
end

section
/-!
PROOFS. Run commands (16_vuhal_command_reference R399 to R401; 15_host_transport_mailboxes R355).
-/

namespace Sys2Proof.Machine

/-! Sending frames to the host leaves the run. -/

@[simp] theorem State.flushFrames_run (n : Nat) (s : State) (id : Nat) : (State.flushFrames n s id).run = s.run := by
  induction n generalizing s with
  | zero => rfl
  | succ n ih =>
    unfold State.flushFrames
    split
    · rfl
    · split
      · rfl
      · split
        · rfl
        · rw [ih]
          rfl

@[simp] theorem State.sendFrames_run (s : State) (id : Nat) (fs : List TxFrame) : (s.sendFrames id fs).run = s.run := by
  unfold State.sendFrames
  split
  · rfl
  · exact State.flushFrames_run _ _ _

@[simp] theorem State.respond_run (s : State) (t : Nat) (r : Reply) : (s.respond t r).run = s.run := by
  unfold State.respond
  split
  · rfl
  · rw [State.sendFrames_run]
    split <;> rfl

/-! RUN_ARM (16_vuhal_command_reference R399). -/

/-- A table in force that the run can be armed on (R399). -/
def State.armsOn (s : State) (tb : Table) : Prop :=
  s.frame.table = some tb ∧ tb.period = s.frame.period ∧ s.tableRefs tb = [] ∧ s.runChecks tb = true

section

variable {t v0 : Nat} {p : Bytes} {s : State} {tb : Table} {stag : SMap Nat} (h : s.ready 0x0802 t p) (htable : s.armsOn tb) (hmember : s.member ≠ none)
  (hloaded : s.frame.loaded = true) (hrestore : s.ckpt.restore = none) (hid : field p 0 16 ≠ 0) (hhusk : s.huskOk (field p 0x28 2) = true)
  (hzero : allZero p 0x2C 4 = true) (hsize : s.num.emu = false ∨ s.memberCount ≤ 256) (hsmall : s.huskSmall (field p 0x28 2) = false)
  (hgood : s.badMaster = none)
include h htable hmember hloaded hrestore hid hhusk hzero hsize hsmall hgood

/-- RUN_ARM without a staged restore arms at version 0. -/
theorem execRunArm_fresh (hnew : s.run.lastArmed ≠ some (field p 0 16)) (hflags : field p 0x2A 2 = 0) :
    execRunArm t p s = .next ((s.armRun (armedOf p 0) []).respond t (okWith (leBytes 8 0))) := by
  obtain ⟨htb, hperiod, hrefs, hchecks⟩ := htable
  have hmem : s.member.isNone = false := Option.isNone_eq_false_iff.2 (Option.isSome_iff_ne_none.2 hmember)
  refine hostCmd_answers h ?_
  simp only [htb, hflags]
  refine (checked_none ?_).trans ?_
  · have hstage : restoreChecks s.ckpt p = [] := by simp [restoreChecks, hflags, bit]
    simp [wrong, reserved, hstage, bit, hmem, hloaded, hrestore, hid, hhusk, hzero, hnew]
  · rw [if_neg (by simp [hperiod, hrefs, hchecks])]
    refine (checked_none ?_).trans ?_
    · simpa [hsmall, ← Bool.not_eq_true, ← imp_iff_not_or] using hsize
    · simp [hgood, bit]

/-- RUN_ARM from a staged restore arms at the restore's version. -/
theorem execRunArm_staged {r : StagedRestore} (hstaged : s.ckpt.staged = some r) (hrun : field p 0 16 = r.runId) (hlo : field p 0x18 8 = r.keyLo.toNat)
    (hhi : field p 0x20 8 = r.keyHi.toNat) (hflags : field p 0x2A 2 = 1) :
    execRunArm t p s = .next ((s.armRun (armedOf p r.version) r.stag).respond t (okWith (leBytes 8 r.version))) := by
  obtain ⟨htb, hperiod, hrefs, hchecks⟩ := htable
  have hmem : s.member.isNone = false := Option.isNone_eq_false_iff.2 (Option.isSome_iff_ne_none.2 hmember)
  refine hostCmd_answers h ?_
  simp only [htb, hflags]
  refine (checked_none ?_).trans ?_
  · simp [wrong, reserved, restoreChecks, bit, hmem, hloaded, hrestore, hhusk, hzero, hstaged, hlo, hhi, ← hrun, hid]
  · rw [if_neg (by simp [hperiod, hrefs, hchecks])]
    refine (checked_none ?_).trans ?_
    · simpa [hsmall, ← Bool.not_eq_true, ← imp_iff_not_or] using hsize
    · simp [hgood, bit, hstaged]

end

/-! RUN_START (R400). -/

/-- What RUN_START needs of the clock, and of the faults that bar a run. -/
def State.mayStartAt (s : State) (epoch : Nat) : Prop :=
  s.clk.adopted = true ∧ s.clk.ref / epochCycles + 2 ≤ epoch ∧ s.clk.present = true ∧ s.clk.stopped = false ∧ s.sup.noRun = false

/-- What a started run shows. -/
def Run.startedAt (r : Run) (epoch sealed_ : Nat) : Prop :=
  r.mode = .running ∧ r.nextComma = some (epoch * epochCycles) ∧ r.sealed = sealed_ ∧ r.started = true

theorem State.startRun_started (s : State) (epoch last : Nat) : (s.startRun epoch last).run.startedAt epoch s.run.sealed :=
  (⟨rfl, rfl, rfl, rfl⟩)

/-- With every member at one version and an epoch far enough ahead, the end of the waits starts the run. -/
theorem State.finishStart_starts {s : State} {epoch : Nat} (hversions : s.mixedRank = none) (hmay : s.mayStartAt epoch) (last : Nat) :
    (s.finishStart epoch last).1.run.startedAt epoch s.run.sealed := by
  obtain ⟨hadopted, hfar, hpresent, hstopped, hbarred⟩ := hmay
  have hstart : (s.finishStart epoch last).1 = s.endStart.startRun epoch last := by
    simp [State.finishStart, hversions, State.epochNow, State.endStart, hadopted, hfar, hpresent, hstopped, hbarred]
  rw [hstart]
  exact s.endStart.startRun_started epoch last

/-- A module whose refreshes are sent and whose waits are over answers RUN_START. -/
theorem State.goStart_ready {s : State} (hpair : s.pairAgrees = true) (hsent : s.run.startSent = true) (hready : s.startReady = true) (epoch last : Nat) :
    s.goStart epoch last = ((s.finishStart epoch last).1, some (s.finishStart epoch last).2) := by
  simp [State.goStart, hpair, hsent, hready]

/-- A module that has still to send its refreshes sends them, and answers if nothing is left to wait for. -/
theorem State.goStart_unsent {s : State} (hpair : s.pairAgrees = true) (hunsent : s.run.startSent = false) (hready : s.sendRefreshes.startReady = true)
    (epoch last : Nat) :
    s.goStart epoch last = ((s.sendRefreshes.finishStart epoch last).1, some (s.sendRefreshes.finishStart epoch last).2) := by
  simp [State.goStart, hpair, hunsent, hready]

/-- Without a partner there is nothing to refresh. -/
theorem State.sendRefreshes_alone {s : State} (h : s.recov.partner = none) : s.sendRefreshes = s.withRun { s.run with startSent := true } := by
  refine List.foldl_fixed' (fun e => ?_) _
  simp [State.sendRefresh, h]

/-- A module alone in its slice begins the exchange with every record at hand, and with no mirror to wait for. -/
theorem State.beginStart_alone {s : State} (hpartner : s.recov.partner = none) (hcount : s.memberCount = 1) (hrank : s.rank = 0) (hnone : s.run.v0s = []) :
    s.beginStart = (s.withRun { s.run with startSeq := some s.clk.elapsed, startSent := false, v0s := [(0, s.run.sealed)] }).withRecov
      { s.recov with refreshing := [] } := by
  simp [State.beginStart, hpartner, hcount, hrank, hnone, SMap.insert]

section

variable {u : State} {v : Nat} (hv0s : u.run.v0s = [(0, v)])
include hv0s

theorem State.startReady_alone (hpartner : u.recov.partner = none) (hcount : u.memberCount = 1) (hmirrors : u.recov.refreshing = []) :
    u.startReady = true := by
  simp [State.startReady, State.refreshOpen, hpartner, hcount, hmirrors, hv0s, SMap.find?]

theorem State.mixedRank_alone : u.mixedRank = none := by
  simp [State.mixedRank, hv0s, SMap.find?]

end

/-- A module alone in its slice starts the run in the same step. -/
theorem State.beginStart_goStart {s : State} {epoch : Nat} (hpartner : s.recov.partner = none) (hcount : s.memberCount = 1) (hrank : s.rank = 0)
    (hnone : s.run.v0s = []) (hmay : s.mayStartAt epoch) (last : Nat) :
    ∃ s1 r, s.beginStart.goStart epoch last = (s1, some r) ∧ s1.run.startedAt epoch s.run.sealed := by
  have hbegin := State.beginStart_alone hpartner hcount hrank hnone
  have halone : s.beginStart.recov.partner = none := by rw [hbegin]; exact hpartner
  have hsend := State.sendRefreshes_alone halone
  have hv0s : s.beginStart.sendRefreshes.run.v0s = [(0, s.run.sealed)] := by rw [hsend, hbegin]; rfl
  have hready : s.beginStart.sendRefreshes.startReady = true := by
    refine State.startReady_alone hv0s ?_ ?_ ?_
    · rw [hsend]; exact halone
    · rw [hsend, hbegin]; exact hcount
    · rw [hsend, hbegin]; rfl
  have hstarts : s.beginStart.sendRefreshes.mayStartAt epoch := by rw [hsend, hbegin]; exact hmay
  have hsealed : s.beginStart.sendRefreshes.run.sealed = s.run.sealed := by rw [hsend, hbegin]; rfl
  have hgo : s.beginStart.goStart epoch last
      = ((s.beginStart.sendRefreshes.finishStart epoch last).1, some (s.beginStart.sendRefreshes.finishStart epoch last).2) := by
    refine State.goStart_unsent ?_ ?_ hready epoch last
    · simp [State.pairAgrees, halone]
    · rw [hbegin]; rfl
  exact ⟨_, _, hgo, hsealed ▸ State.finishStart_starts (State.mixedRank_alone hv0s) hstarts last⟩

/-- Settles O9: RUN_ARM and RUN_HOLD pass their checks; RUN_START starts the run where its waits are over. -/
theorem runCommands : Obligations.RunCommands := by
  refine ⟨?fresh, ?staged, ?start, ?again, ?hold⟩
  case fresh =>
    intro t p s tb h htable hmember hloaded hrestore hid hnew hhusk hflags hzero hperiod hrefs hchecks hsize hsmall hgood
    exact execRunArm_fresh h ⟨htable, hperiod, hrefs, hchecks⟩ hmember hloaded hrestore hid hhusk hzero hsize hsmall hgood hnew hflags
  case staged =>
    intro t p s tb r h htable hmember hloaded hrestore hstaged hrun hid hlo hhi hhusk hflags hzero hperiod hrefs hchecks hsize hsmall hgood
    exact execRunArm_staged h ⟨htable, hperiod, hrefs, hchecks⟩ hmember hloaded hrestore (hrun ▸ hid) hhusk hzero hsize hsmall hgood hstaged
      hrun hlo hhi hflags
  case start =>
    rintro t epoch last p s h hwaits rfl rfl hepoch hlast hpartner hcount hrank hnone hadopted hfar hpresent hstopped hbarred
    obtain ⟨s1, r, hgo, hstarted⟩ := State.beginStart_goStart hpartner hcount hrank hnone ⟨hadopted, hfar, hpresent, hstopped, hbarred⟩ (field p 8 8)
    have hexec : exec (.runStart t p) s = .next (s1.respond t r) := by
      rw [exec, execRunStart]
      simp only [hwaits, Bool.false_eq_true, if_false]
      refine hostCmd_answers h ((checked_none ?_).trans hgo)
      have hsteps : ¬ (field p 8 8 ≠ 0 ∧ field p 8 8 ≤ s.run.sealed) := by omega
      simp [wrong, Nat.not_lt.2 hepoch, decide_eq_false hsteps]
    exact ⟨_, hexec, by rwa [State.respond_run]⟩
  case again =>
    rintro t epoch last p s hwaits rfl rfl hmode hsent hpair hready hversions hadopted hfar hpresent hstopped hbarred
    have hgo := State.goStart_ready hpair hsent hready (field p 0 8) (field p 8 8)
    have hstarted := State.finishStart_starts hversions ⟨hadopted, hfar, hpresent, hstopped, hbarred⟩ (field p 8 8)
    have hexec : exec (.runStart t p) s = .next ((s.finishStart (field p 0 8) (field p 8 8)).1.respond t (s.finishStart (field p 0 8) (field p 8 8)).2) := by
      simp [exec, execRunStart, hwaits, hmode, hpair, hready, hgo]
    exact ⟨_, hexec, by rwa [State.respond_run]⟩
  case hold =>
    intro t p s h hrun hperiod hhold
    rw [exec, execRunHold]
    refine hostCmd_answers h ((checked_none ?_).trans ?_)
    · simp [State.passed, hrun]
      omega
    · simp [hhold]

end Sys2Proof.Machine
end

section
/-!
PROOFS. Recovery commands (13_mirror_spares_recovery R311, R320, R326, R328, R329, R334, R335).
-/

namespace Sys2Proof.Machine

/-! Recovery commands (13_mirror_spares_recovery R311, R320, R326, R328, R329, R334, R335). -/

/-- A staged change with room, effective at a later period, passes PROBATION_SET's checks of the period. -/
theorem State.mayStage_checks {α : Type} {s : State} {m : SMap α} {eff : Nat} (h : s.mayStage m eff) (off : Nat) :
    (s.passed eff).1 = false ∧ (s.effField eff off).1 = false ∧ (stageFull m eff).1 = false := by
  have hpassed := State.passed_of_mayStage h
  have hnames := State.mayStage_names h
  obtain ⟨-, -, hfull⟩ := h
  refine ⟨hpassed, ?_, hfull⟩
  simp [State.effField, wrong, hnames]

/-- Outside a run a change names no period. -/
theorem State.outside_checks {s : State} (h : s.outside) (off : Nat) : (s.passed 0).1 = false ∧ (s.effField 0 off).1 = false := by
  have hrun : s.inRun = false := h
  refine ⟨State.passed_outside h 0, ?_⟩
  simp [State.effField, wrong, hrun]

/-- PROBATION_SET within its ranges sets the threshold, then the probation. -/
theorem execProbationSet_answers {t : Nat} {p : Bytes} {s : State} (h : s.ready 0x0A07 t p) (hn : field p 0 1 ≤ 64) (hwhat : field p 1 1 ≤ 2)
    (hzero : allZero p 2 6 = true) (hpassed : (s.passed (field p 8 8)).1 = false) (heff : (s.effField (field p 8 8) 8).1 = false)
    (hroom : s.inRun = true → (stageFull s.recov.stagedProb (field p 8 8)).1 = false) :
    execProbationSet t p s = .next (((s.setThreshold (field p 0 1)).probationFor (field p 1 1) (field p 8 8)).respond t okReply) := by
  have hfull : (s.inRun && field p 1 1 != 2 && (stageFull s.recov.stagedProb (field p 8 8)).1) = false := by
    cases hrun : s.inRun with
    | false => rfl
    | true => simp [hroom hrun]
  refine hostCmd_answers h ((checked_none ?_).trans rfl)
  simp [wrong, reserved, hpassed, heff, hfull, Nat.not_lt.2 hn, Nat.not_lt.2 hwhat, hzero]

/-- Settles O12: each command passes its checks, and answers what its body then gives. -/
theorem recoveryCommands : Obligations.RecoveryCommands := by
  refine ⟨?pair, ?unpair, ?enrol, ?takeover, ?fence, ?fenceExpert, ?swap, ?health, ?probation, ?staged⟩
  case pair =>
    rintro t r p s h rfl hmax hflags hown hknown hzero
    rw [exec, execMirrorPairSet]
    refine hostCmd_answers h ((checked_none ?_).trans ?_)
    · simp [wrong, reserved, bit, hflags, Nat.not_lt.2 hmax, hown, hknown, hzero]
    · simp [hflags, bit]
  case unpair =>
    intro t p s h hrank hflags hzero
    rw [exec, execMirrorPairSet]
    refine hostCmd_answers h ((checked_none ?_).trans ?_)
    · simp [wrong, reserved, bit, hflags, hrank, hzero]
    · simp [hflags, bit]
  case enrol =>
    intro t p s h hmember hslice hzero
    rw [exec, execSpareEnrol]
    refine hostCmd_answers h ((checked_none ?_).trans rfl)
    simp [wrong, reserved, hmember, Nat.not_lt.2 hslice, hzero]
  case takeover =>
    intro t sl p s h hbarred hnone hstandby hrank hfailed hpartner hok hzero
    rw [exec, execTakeover]
    refine hostCmd_answers h ?_
    simp only [hstandby, Option.getD_some]
    refine (checked_none ?_).trans rfl
    simp [wrong, reserved, hbarred, hnone, Nat.not_lt.2 hrank, Nat.not_lt.2 hfailed, Nat.not_lt.2 hpartner, hok, hzero]
  case fence =>
    intro t p s h hmode
    rw [exec, execFence]
    exact hostCmd_answers h (by rw [fenceCmd, if_neg hmode]; rfl)
  case fenceExpert =>
    rintro t p s u h hmode rfl
    rw [exec, execFenceExpert]
    exact hostCmd_answers h (by rw [fenceCmd, if_neg hmode]; rfl)
  case swap =>
    rintro t d p s h rfl hmax hzero hspare hidle hfree
    rw [exec, execDieSwap]
    have hsome : s.spareDie.isNone = false := Option.isNone_eq_false_iff.2 (Option.isSome_iff_ne_none.2 hspare)
    refine hostCmd_answers h ((checked_none ?_).trans rfl)
    simpa [wrong, reserved, Nat.not_lt.2 hmax, hzero, hsome, hidle] using hfree
  case health =>
    intro t p s h hmax hzero
    rw [exec, execHealthRead, readCmd_ready h]
    simp [firstFail, wrong, reserved, Nat.not_lt.2 hmax, hzero]
  case probation =>
    rintro t n what p s h rfl hn rfl hwhat hzero houtside heff
    obtain ⟨hpassed, hnames⟩ := State.outside_checks houtside 8
    have hrun : s.inRun = false := houtside
    have hanswer := execProbationSet_answers h hn hwhat hzero (heff ▸ hpassed) (heff ▸ hnames) (by simp [hrun])
    rwa [heff] at hanswer
  case staged =>
    rintro t n what eff p s h rfl hn rfl hwhat hzero rfl hstage
    obtain ⟨hpassed, hnames, hfull⟩ := State.mayStage_checks hstage 8
    exact execProbationSet_answers h hn hwhat hzero hpassed hnames (fun _ => hfull)

end Sys2Proof.Machine
end

section
/-!
PROOFS. Checkpoint commands (14_checkpoint_restore R339, R341, R351 to R354).
-/

namespace Sys2Proof.Machine

/-! Checkpoint commands (14_checkpoint_restore R339, R341, R351 to R354). -/

/-- A command at its turn that does not answer yet waits: only its tenant's running submission is marked, in the host's part of the state. -/
theorem hostCmd_waits {op t : Nat} {p : Bytes} {s s' : State} {body : State → State × Option Reply} {P : State → Prop} (h : s.ready op t p)
    (hb : body s = (s', none)) (hP : ∀ v : State, v.ckpt = s'.ckpt → v.sup = s'.sup → P v) : ∃ v, hostCmd op t p body s = .next v ∧ P v := by
  rw [hostCmd_ready h, hb]
  exact ⟨_, rfl, hP _ rfl rfl⟩

/-- CHECKPOINT_POLICY_SET within its ranges takes the policy, in a run at the period's end (R339). -/
theorem ckptPolicySet_answers {expert : Bool} {p : Bytes} {s : State} (hflags : (ckptPolicyOf p).flags ≤ if expert then 7 else 3)
    (hchunks : (ckptPolicyOf p).chunks ≤ 16) (hzero : allZero p 2 2 = true) (hsink : s.ownerSession (ckptPolicyOf p).sink = true)
    (hsteps : bit (ckptPolicyOf p).flags 0 = true → 1 ≤ (ckptPolicyOf p).steps ∧ (ckptPolicyOf p).steps ≤ 1000000)
    (htimer : bit (ckptPolicyOf p).flags 1 = true → 60 ≤ (ckptPolicyOf p).timer ∧ (ckptPolicyOf p).timer ≤ 86400) (hzero' : allZero p 0x30 16 = true) :
    ckptPolicySet expert p s = (s.withCkpt (if s.inRun then { s.ckpt with stagedPol := some (ckptPolicyOf p) }
      else { s.ckpt with policy := ckptPolicyOf p }), some okReply) := by
  rw [ckptPolicySet, checked_none]
  simpa [wrong, reserved, Nat.not_lt.2 hflags, Nat.not_lt.2 hchunks, hzero, hsink, hzero'] using And.intro hsteps htimer

/-- RESTORE accepts a manifest and a certificate that pass every check (R352). -/
theorem execRestore_answers {t n : Nat} {p m cert : Bytes} {s : State} {g : Region} (h : s.ready 0x0B04 t p) (hn : field p 4 4 = n)
    (hown : s.ownRegion t (field p 0 2) = some g) (hfits : n ≤ g.size) (hlong : 0x60 + 384 ≤ n) (hidle : s.ckpt.run = none)
    (hfree : ∀ i ∈ s.jobShards, s.transferInto i = false) (hzero : allZero p 2 2 = true) (hsession : s.ownerSession (field p 0x30 4) = true)
    (hzero' : allZero p 0x34 4 = true) (hmanifest : s.holdsAt t (field p 0 2) 0 n (fun _ => n) m) (hsound : firstFail (manifestFaults m) = none)
    (hcert : s.holdsAt t (field p 0 2) (roundUp 64 n) 4 derLength cert) (haccepts : s.restoreRefusal p m cert = none) :
    execRestore t p s = .next ((s.openRestore p m).respond t accepted) := by
  refine hostCmd_answers h ?_
  simp only [hn, hown]
  refine (checked_none ?_).trans ?_
  · simpa [wrong, reserved, hidle, hzero, hsession, hzero', Nat.not_lt.2 hfits, Nat.not_lt.2 hlong] using hfree
  · rw [withSource_of_holdsAt hmanifest, checked, hsound]
    simp only
    rw [withSource_of_holdsAt hcert, haccepts]

/-- Settles O13: each command passes its checks, and answers what its body then gives; in a run CHECKPOINT_NOW waits for the period. -/
theorem checkpointCommands : Obligations.CheckpointCommands := by
  refine ⟨?policy, ?now, ?waits, ?status, ?manifest, ?restore⟩
  case policy =>
    intro t p s expert h hflags hchunks hzero hsink hsteps htimer hzero'
    have hbody := ckptPolicySet_answers hflags hchunks hzero hsink hsteps htimer hzero'
    cases expert with
    | true => exact hostCmd_answers h hbody
    | false => exact hostCmd_answers h hbody
  case now =>
    intro t p s h houtside hrun hrestore hnow hpairs
    have hout : s.inRun = false := houtside
    rw [exec, execCheckpointNow]
    refine hostCmd_answers h ((checked_none ?_).trans ?_)
    · simp [hrun, hrestore, hnow, hpairs]
    · simp [hout]
  case waits =>
    intro t p s h hin hrun hrestore hnow
    rw [exec, execCheckpointNow]
    refine hostCmd_waits h ((checked_none ?_).trans (if_pos hin)) (fun v hckpt _ => hckpt)
    simp [hin, hrun, hrestore, hnow]
  case status =>
    intro t p s h
    rw [exec, execCheckpointStatus, readCmd_ready h]
  case manifest =>
    intro t p s h hdone
    rw [exec, execManifestRead, readCmd_ready h, if_neg (by simpa using hdone)]
  case restore =>
    intro t n p m cert s g h hn hown hfits hlong hidle hfree hzero hsession hzero' hmanifest hsound hcert haccepts
    exact execRestore_answers h hn hown hfits hlong hidle hfree hzero hsession hzero' hmanifest hsound hcert haccepts

end Sys2Proof.Machine
end

section
/-!
PROOFS. Observation commands (16_vuhal_command_reference R403 to R406).
-/

namespace Sys2Proof.Machine

/-! Observation commands (16_vuhal_command_reference R403 to R406). -/

/-- Settles O14: each command passes its checks, and answers what its body then gives; a stream's interval is one equation. -/
theorem observationCommands : Obligations.ObservationCommands := by
  refine ⟨?read, ?start, ?stop, ?interval, ?ledger, ?audit⟩
  case read =>
    rintro t sel i p s h rfl rfl hi hzero
    rw [exec, execTelemetryRead]
    refine hostCmd_answers h ((checked_none ?_).trans rfl)
    simp [wrong, reserved, hi, hzero, List.ne_nil_of_mem hi]
  case start =>
    rintro t k mask ms rate p s h hstart rfl hk hzero rfl hmask rfl hlow hhigh hzero' rfl hnone hquota
    rw [exec, execTelemetryStream]
    refine hostCmd_answers h ?_
    simp only [hstart, hnone]
    refine (checked_none ?_).trans (by simp)
    simpa [wrong, reserved, Nat.not_lt.2 hk, Nat.not_lt.2 hmask, hlow, hhigh, hzero, hzero'] using hquota
  case stop =>
    rintro t k p s h hstop rfl hk hzero hzero'
    rw [exec, execTelemetryStream]
    refine hostCmd_answers h ?_
    simp only [hstop]
    refine (checked_none ?_).trans (by simp)
    simp [wrong, reserved, Nat.not_lt.2 hk, hzero, hzero']
  case interval =>
    intro id k at' s x hx hnext
    refine ⟨_, _, ?_, rfl, rfl⟩
    simp [exec, execTelemetryStreamInterval, hx, Nat.not_lt.2 hnext]
  case ledger =>
    rintro t off p s e rest h rfl hrest hoff hold hzero
    rw [exec, execLedgerRead, readCmd_ready h]
    simp [firstFail, wrong, reserved, hrest, Nat.not_le.2 hoff, Nat.not_lt.2 hold, hzero]
  case audit =>
    intro t p s h
    rw [exec, execCountersAuditRead, readCmd_ready h]

end Sys2Proof.Machine
end

section
/-!
PROOFS. Service and power commands (16_vuhal_command_reference R407 to R414; 17_reset_power_startup R437 to R439; 18_supervision_identity_attestation R444).
-/

namespace Sys2Proof.Machine

/-! Service and power commands (16_vuhal_command_reference R407 to R414). -/

/-- A command whose body puts a request to the safety partition waits, with the request behind those that wait already (R408, R437, R438). -/
theorem hostCmd_asks {op t item value : Nat} {p : Bytes} {s : State} {body : State → State × Option Reply} (h : s.ready op t p)
    (hb : body s = (s.ask item value t, none)) :
    ∃ v, hostCmd op t p body s = .next v ∧ v.sup = { s.sup with asks := s.sup.asks ++ [{ item := item, value := value, tenant := some t }] } := by
  exact hostCmd_waits h hb (fun v _ hsup => hsup)

/-- RAMP_POLICY_SET within its ranges asks for the slew limit, with the phase above it. -/
theorem rampPolicySet_asks {expert : Bool} {t : Nat} {p : Bytes} {s : State} (hlow : 100 ≤ field p 0 2) (hhigh : field p 0 2 ≤ 1200)
    (hphase : if expert then 1 ≤ field p 2 2 ∧ field p 2 2 ≤ 10000 else field p 2 2 = 0) (hzero : allZero p 4 4 = true) :
    rampPolicySet expert t p s = (s.ask itemRamp (field p 0 2 + field p 2 2 * 65536) t, none) := by
  unfold rampPolicySet
  refine (checked_none ?_).trans rfl
  cases expert with
  | true => simpa [wrong, reserved, hlow, hhigh, hzero] using hphase
  | false => simpa [wrong, reserved, hlow, hhigh, hzero] using hphase

/-- Objects in named form pass the check of SYNC_INSPECT's handles. -/
theorem named_checks {hs : List (Option Nat)} {keys : List Nat} (h : hs = keys.map some) :
    ∀ e ∈ hs.zipIdx.map (fun x => wrong x.1.isNone (4 + 4 * x.2)), e.1 = false := by
  intro e he
  obtain ⟨⟨o, i⟩, hx, rfl⟩ := List.mem_map.1 he
  have ho : o ∈ keys.map some := h ▸ List.fst_mem_of_mem_zipIdx hx
  obtain ⟨k, -, rfl⟩ := List.mem_map.1 ho
  rfl

/-- SYNC_INSPECT of named objects answers their records (R249, R410). -/
theorem execSyncInspect_answers {t : Nat} {p : Bytes} {s : State} {keys : List Nat} (h : s.ready 0x0E01 t p) (hlow : 1 ≤ field p 0 2)
    (hhigh : field p 0 2 ≤ 63) (hlen : 4 + 4 * field p 0 2 ≤ p.length) (hzero : allZero p 2 2 = true)
    (hkeys : (List.range (field p 0 2)).map (fun i => namedObject (field p (4 + 4 * i) 4)) = keys.map some) :
    execSyncInspect t p s = .next (s.respond t (okWith (keys.flatMap s.objRecord))) := by
  have hchecks : firstFail ([wrong (!decide (1 ≤ field p 0 2 ∧ field p 0 2 ≤ 63)) 0, (decide (p.length < 4 + 4 * field p 0 2), badLength 0),
        reserved p 2 2]
      ++ (keys.map some).zipIdx.map (fun x => wrong x.1.isNone (4 + 4 * x.2))) = none := by
    refine firstFail_none (fun e he => ?_)
    obtain he | he := List.mem_append.1 he
    · revert e
      simp [wrong, reserved, hlow, hhigh, Nat.not_lt.2 hlen, hzero]
    · exact named_checks rfl e he
  rw [execSyncInspect, readCmd_ready h]
  simp only [hkeys, hchecks]
  simp

/-- CORE_HALT_INSPECT answers what the core holds, and its expert form then stops the core (R413). -/
theorem coreInspect_answers {expert : Bool} {p : Bytes} {s : State} (hcore : field p 0 2 ≤ 511) (hzero : allZero p 2 6 = true)
    (hidle : expert = true → s.coreBusy (field p 0 2) = false) :
    coreInspect expert p s
      = (if expert then s.stopCore (field p 0 2) else s, some (okWith ((s.core (field p 0 2)).inspection expert))) := by
  rw [coreInspect, checked_none]
  simpa [wrong, reserved, Nat.not_lt.2 hcore, hzero] using hidle

/-- Settles O15: each command passes its checks, and answers what its body then gives, or waits for the safety partition. -/
theorem serviceAndPowerCommands : Obligations.ServiceAndPowerCommands := by
  refine ⟨⟨?reset, ?resetNow, ?service, ?escalation, ?sync, ?nutshell, ?events, ?halt, ?haltExpert⟩, ?cap, ?ramp, ?rampExpert, ?status⟩
  case reset =>
    rintro t asked level p s h hchecks rfl rfl hlevel
    rw [exec, execReset]
    exact hostCmd_answers h (by simp only [checked, hchecks, if_pos hlevel])
  case resetNow =>
    rintro t asked level p s h hchecks rfl rfl hlevel
    rw [exec, execReset]
    exact hostCmd_answers h (by simp only [checked, hchecks, if_neg (Nat.not_le.2 hlevel)])
  case service =>
    intro t p s h hmax hzero
    rw [exec, execServiceStateSet]
    refine hostCmd_asks h ((checked_none ?_).trans rfl)
    simp [wrong, reserved, Nat.not_lt.2 hmax, hzero]
  case escalation =>
    intro t p s h
    rw [exec, execEscalationRead, readCmd_ready h]
  case sync =>
    rintro t n p s keys h rfl hlow hhigh hlen hzero hkeys
    exact execSyncInspect_answers h hlow hhigh hlen hzero hkeys
  case nutshell =>
    rintro t first n p s b h hbank hsource hzero rfl hfirst rfl hlow hhigh hzero'
    rw [exec, execNutshellRead, readCmd_ready h]
    simp [firstFail, wrong, reserved, hbank, Nat.not_lt.2 hsource, Nat.not_lt.2 hfirst, hlow, hhigh, hzero, hzero']
  case events =>
    rintro t c first p s h rfl hcore rfl hfirst hzero
    rw [exec, execEventLogRead, readCmd_ready h]
    simp [firstFail, wrong, reserved, Nat.not_lt.2 hcore, Nat.not_lt.2 hfirst, hzero]
  case halt =>
    rintro t c p s h rfl hcore hzero
    rw [exec, execCoreHaltInspect]
    exact hostCmd_answers h (coreInspect_answers hcore hzero (by simp))
  case haltExpert =>
    rintro t c p s h rfl hcore hzero hidle
    rw [exec, execCoreHaltInspectExpert]
    exact hostCmd_answers h (coreInspect_answers hcore hzero (fun _ => hidle))
  case cap =>
    rintro t w p s h rfl hlow hhigh hzero
    rw [exec, execPowerCapSet]
    refine hostCmd_asks h ((checked_none ?_).trans rfl)
    simp [wrong, reserved, hlow, hhigh, hzero]
  case ramp =>
    rintro t slew p s h rfl hlow hhigh hphase hzero
    have hbody := rampPolicySet_asks (expert := false) (t := t) (s := s) hlow hhigh (by simpa using hphase) hzero
    rw [exec, execRampPolicySet]
    exact hostCmd_asks h (by simpa [hphase] using hbody)
  case rampExpert =>
    rintro t slew phase p s h rfl hlow hhigh rfl hmin hmax hzero
    rw [exec, execRampPolicySetExpert]
    exact hostCmd_asks h (rampPolicySet_asks hlow hhigh (by simpa using And.intro hmin hmax) hzero)
  case status =>
    intro t p s h
    rw [exec, execPowerStatus]
    exact hostCmd_answers h rfl

end Sys2Proof.Machine
end

section
/-!
PROOFS. Evaluation commands (16_vuhal_command_reference R415, R416).
-/

namespace Sys2Proof.Machine

/-! EVAL_SUBMIT (16_vuhal_command_reference R415). -/

theorem eq_of_nonzero {m n : Nat} (h : nonzero m = some n) : m = n ∧ n ≠ 0 := by
  unfold nonzero at h
  split at h
  · cases h
  · cases h
    exact ⟨rfl, ‹_›⟩

/-- A request names an image, an input and a result of the tenant's, under an identifier and a load index that are free. -/
def State.evalNamed (s : State) (t : Nat) (v : Eval) : Prop :=
  s.evalIdTaken v.id = false ∧ s.evalRegion t v.imageReg v.imageBytes = (true, true) ∧ s.evalRegion t v.inputReg v.inputBytes = (true, true)
    ∧ s.evalRegion t v.resultReg v.resultBytes = (true, true) ∧ s.loadIndexOk v.loadIndex = true

section

variable {t : Nat} {p : Bytes} {s : State} (hinput : (evalOf t p).inputOpen = none) (hnamed : s.evalNamed t (evalOf t p)) (hzero : allZero p 0x3C 4 = true)
  (hlimits : firstFail (s.evalLimits t (s.runningSession t) (evalOf t p)) = none)
include hinput hnamed hzero hlimits

/-- A request whose image lies in its region is accepted with the image that stands there. -/
theorem evalSubmit_inRegion {g : Image} (hopen : (evalOf t p).imageOpen = none)
    (hgood : s.badIn (s.regionBase (evalOf t p).imageReg) (evalOf t p).imageBytes = none)
    (himage : s.evalImage (evalOf t p).loadIndex (s.readMem (s.regionBase (evalOf t p).imageReg) (evalOf t p).imageBytes) = .ok g) :
    evalSubmit t p s = (s.addEval { evalOf t p with image := some g }, some accepted) := by
  obtain ⟨hid, him, hin, hres, hload⟩ := hnamed
  unfold evalSubmit
  simp only [him, hin, hres, hopen, hinput]
  refine (checked_none ?_).trans ?_
  · simp [wrong, reserved, hid, hload, hzero]
  · simp [State.withBytes, hgood, himage, checked, hlimits, State.acceptEval, State.openEval]

/-- A request whose image is to come opens the transfer for it. -/
theorem evalSubmit_opens {n : Nat} (hopen : (evalOf t p).imageOpen = some n) (hstill : s.regionChanging (evalOf t p).imageReg = false)
    (hnumber : s.numberOpen (s.runningSession t) n = false) :
    evalSubmit t p s = ((s.addEval (evalOf t p)).openEval (s.runningSession t) n (evalOf t p).imageReg (evalOf t p).imageBytes
      (.evalImage (evalOf t p).id), some accepted) := by
  obtain ⟨hid, him, hin, hres, hload⟩ := hnamed
  have hfield : field p 0x30 4 = n := (eq_of_nonzero hopen).1
  unfold evalSubmit
  simp only [him, hin, hres, hopen, hinput, hfield]
  refine (checked_none ?_).trans ?_
  · simp [wrong, reserved, hid, hload, hzero, hstill, hnumber]
  · simp [checked, hlimits, State.acceptEval, State.openEval, hopen, hinput]

end

/-! EVAL_RESULT_READ (R416). -/

/-- A read of an evaluation's result answers its record, and the bytes that there are where its region still stands. -/
theorem evalResultRead_answers {t n : Nat} {p : Bytes} {s : State} {v : Eval} (hfind : s.evals.find? (fun x => x.id == field p 0 8 && x.tenant == t) = some v)
    (hoff : field p 8 8 ≤ v.resultBytes) (hflags : field p 0x14 4 = 0)
    (hn : n = min (if v.phase = 2 then v.resultBytes - field p 8 8 else 0) (min 4000 (field p 0x10 4)))
    (hgood : ∀ g, s.ownRegion t v.resultReg = some g → s.badIn (g.base + field p 8 8) n = none) :
    evalResultRead t p s = (s, some (match s.ownRegion t v.resultReg with
      | none => okWith (evalRecord v 0)
      | some g => okWith (evalRecord v n ++ s.readMem (g.base + field p 8 8) n))) := by
  have hbulk : bit (field p 0x14 4) 0 = false := by simp [hflags, bit]
  unfold evalResultRead
  simp only [hfind, hbulk, Bool.false_eq_true, if_false, ← hn]
  refine (checked_none ?_).trans ?_
  · simp [wrong, Nat.not_lt.2 hoff, hflags, bits]
  · cases hown : s.ownRegion t v.resultReg with
    | none => rfl
    | some g => simp [State.withBytes, hgood g hown]

/-- Settles O16: each command passes its checks, and answers what its body then gives. -/
theorem evaluationCommands : Obligations.EvaluationCommands := by
  refine ⟨?submit, ?opens, ?early, ?result⟩
  case submit =>
    rintro t p s v g h rfl hopen hinput hid him hin hres hload hzero hgood himage hlimits
    exact hostCmd_answers h (evalSubmit_inRegion hinput ⟨hid, him, hin, hres, hload⟩ hzero hlimits hopen hgood himage)
  case opens =>
    rintro t n p s v h rfl hopen hinput hid him hin hres hload hzero hstill hnumber hlimits
    exact hostCmd_answers h (evalSubmit_opens hinput ⟨hid, him, hin, hres, hload⟩ hzero hlimits hopen hstill hnumber)
  case early =>
    intro t p s v h hfind hphase hoff hflags hgood
    refine hostCmd_answers h ((evalResultRead_answers hfind hoff hflags (n := 0) (by simp [hphase]) hgood).trans ?_)
    cases s.ownRegion t v.resultReg with
    | none => rfl
    | some g => simp [State.readMem, Memory.readBytes]
  case result =>
    intro t n p s v g h hfind hphase hown hoff hflags hn hgood
    refine hostCmd_answers h ((evalResultRead_answers hfind hoff hflags (n := n) ?_ ?_).trans ?_)
    · rw [if_pos hphase, hn]
    · intro g' hg'
      cases hown.symm.trans hg'
      exact hgood
    · rw [hown]

end Sys2Proof.Machine
end

section
/-!
PROOFS. Frames at the host ports (15_host_transport_mailboxes R357, R359, R361 to R363).
-/

namespace Sys2Proof.Machine

/-- A frame of the right type that a port hears goes to what that type does (R357, R359). -/
theorem takeFrame_hears {port typ : Nat} {frame : Bytes} {s : State} {f : HostFrame} {act : Bytes → HostFrame → State → State}
    (h : s.hears port frame f) (htyp : f.typ = typ) : takeFrame port typ frame s act = .next (act (fitTo 24 (frame.take 24)) f s) := by
  obtain ⟨hup, hfirmware, hparse⟩ := h
  simp [takeFrame, hup, hfirmware, hparse, htyp]

section

variable {port : Nat} {addr : Bytes} {s : State} {f : HostFrame} {x : Session} (hses : s.session f.session = some x)
include hses

/-- A frame with a wrong tag is dropped (R363). -/
theorem State.takeSession_wrongTag (htag : frameTag x.keyIn f.hdr f.body ≠ f.tag) : s.takeSession port addr f = s.dropTag port := by
  simp [State.takeSession, hses, htag]

/-- A frame outside the window counts as heard, and an acknowledgement goes back (R361). -/
theorem State.takeSession_outside (htag : frameTag x.keyIn f.hdr f.body = f.tag) (hseq : f.seq < x.rxNext ∨ x.rxNext + 255 < f.seq) :
    s.takeSession port addr f = ((s.heardFrom x port addr).countHost port 0x24).ackBack x.id x.txNext := by
  simp only [State.takeSession, hses, htag, ne_eq, not_true_eq_false, if_false, if_pos hseq]
  rfl

/-- A frame inside the window is held, acknowledges, and is delivered with what was held for it (R361). -/
theorem State.takeSession_inside (htag : frameTag x.keyIn f.hdr f.body = f.tag) (hlow : x.rxNext ≤ f.seq) (hhigh : f.seq ≤ x.rxNext + 255) {s1 s2 : State}
    (h1 : s1 = ((s.heardFrom x port addr).countHost port 0x08).setSession x.id
      (fun y => { y with rxHeld := SMap.insert y.rxHeld f.seq (leBytes 1 f.typ ++ leBytes 1 f.chan ++ leBytes 1 f.kind ++ f.body) }))
    (h2 : s2 = State.deliverHeld 256 (s1.takeAck x.id f.ack) port x.id) :
    s.takeSession port addr f = if f.typ = 0x10 then s2.ackBack x.id x.txNext else s2 := by
  have hwindow : ¬ (f.seq < x.rxNext ∨ x.rxNext + 255 < f.seq) := by omega
  simp only [State.takeSession, hses, htag, ne_eq, not_true_eq_false, if_false, if_neg hwindow]
  subst h2 h1
  rfl

end

/-- The three frames of a session are taken alike. -/
theorem exec_sessionFrame {e : Nat × (Nat → Bytes → Instr)} (he : e ∈ [(0x10, Instr.dataFrame), (0x11, Instr.ackOnly), (0x12, Instr.closeFrame)])
    {port : Nat} {frame : Bytes} {s : State} {f : HostFrame} (h : s.hears port frame f) (htyp : f.typ = e.1) :
    exec (e.2 port frame) s = .next (s.takeSession port (fitTo 24 (frame.take 24)) f) := by
  simp only [List.mem_cons, List.not_mem_nil, or_false] at he
  obtain rfl | rfl | rfl := he
  · simp only [exec, execDataFrame, takeFrame_hears h htyp]
  · simp only [exec, execAckOnly, takeFrame_hears h htyp]
  · simp only [exec, execCloseFrame, takeFrame_hears h htyp]

/-- Settles O17: each clause is the case of `State.takeSession`, or of its type's own act. -/
theorem hostFrames : Obligations.HostFrames := by
  refine ⟨?opens, ?hello, ?inside, ?outside, ?wrongTag⟩
  case opens =>
    intro port frame s f h htyp
    simp only [exec, execSessionOpen, takeFrame_hears h htyp]
  case hello =>
    intro port frame s f h htyp hlen htenant hzero
    simp [exec, execHello, takeFrame_hears h htyp, hlen, hzero, Nat.not_lt.2 htenant]
  case inside =>
    intro e he port frame s s1 s2 f x h htyp hses htag hlow hhigh h1 h2
    rw [exec_sessionFrame he h htyp, State.takeSession_inside hses htag hlow hhigh h1 h2, htyp]
  case outside =>
    intro e he port frame s f x h htyp hses htag hseq
    rw [exec_sessionFrame he h htyp, State.takeSession_outside hses htag hseq]
  case wrongTag =>
    intro e he port frame s f x h htyp hses htag
    rw [exec_sessionFrame he h htyp, State.takeSession_wrongTag hses htag]

/-- Settles O18: each frame meets one case. -/
theorem portFrames : Obligations.PortFrames := by
  refine ⟨?dropped, ?unknown, ?answered, ?echo, ?fabric, ?host⟩
  case dropped =>
    intro port s hup
    simp [exec, execHostFrameDropped, hup]
  case unknown =>
    intro port frame s hup hkind
    simp [exec, execHostPortServiceFrame, hup, hkind]
  case answered =>
    intro port frame s hup hkind
    simp [exec, execHostPortServiceFrame, hup, hkind]
  case echo =>
    rintro port frame s recent hup hkind rfl hfew
    simp [exec, execHostPortServiceFrame, hup, hkind, Nat.not_le.2 hfew]
  case fabric =>
    intro port control s hport
    simp [exec, execMacControlFrame, show ¬ 18 ≤ port by omega, show ¬ 16 ≤ port by omega]
  case host =>
    intro port control s hport
    simp [exec, execMacControlFrame, show ¬ 18 ≤ 16 + port by omega]

end Sys2Proof.Machine
end
